-- ==== Sys2Proof/Word.lean ====
section
/-!
DEFINITION. The word types of the machine and nothing else: every helper that a test could show wrong stands in a
file of Sys2Proof/Machine/ or in Sys2Proof/Decode.lean.
-/
namespace Sys2Proof

/-- A byte of memory. -/
abbrev Byte := BitVec 8
/-- The halfword of the 16-bit encodings (R61). -/
abbrev Half := BitVec 16
/-- A lane register, a uniform register or a privileged register (01 R12, 15 R322). -/
abbrev Word := BitVec 32
/-- A register pair or a virtual address (03 R67, 07 R173). -/
abbrev Dword := BitVec 64
/-- One bit for each lane of a team, lane 0 in bit 0 (02 R23, R24). -/
abbrev Mask := BitVec 1024
/-- A matrix element of an accumulator tile, a fixed-point value of 128 bits (04 R118). -/
abbrev Elem := BitVec 128

end Sys2Proof
end

