-- ==== Sys2Proof/Config.lean ====
section
/-!
DEFINITION. What one module fixes and what the spec leaves open: constants without a body, so that no proof can lean on
a value of them. Each is named in the assumption log (4, 5, 6, 7, 8, 9, 16).
-/
namespace Sys2Proof.Config

/-- The device's choice among listed outcomes (00 R8), applied to State.fresh: log 4. -/
opaque choice : Nat → Nat

/-- A word from a die's entropy source (05 R141), applied to State.fresh: log 7. -/
opaque entropy : Nat → Word

/-- A threshold drawn by a Peuri cell's noise source as an FP32 word (11 R278), applied to State.fresh: log 7. -/
opaque noise : Nat → Word

/-- Which of the results within its bound an estimate instruction gives (06 R161), by function, operand and FPM: log 6. -/
opaque estimate : Nat → Word → Word → Nat

/-- Clocks that a step takes beyond the first, by the step's number (02 R43, R51): log 5. -/
opaque stepClocks : Nat → Nat

/-- The set of a die-cache slice that a line belongs to, by the line's key (16 R352): log 8. -/
opaque dieSet : Nat → Nat

/-- Units of 64 KiB in a context image (15 R323): log 9. -/
opaque celUnits : Nat

/-- The bytes of a context image, whose format is not architected (15 R328), by image number and offset: log 9. -/
opaque imageByte : Nat → Nat → Byte

/-- The fused check of a firmware image's signature (20 R416), by the image's bytes: log 16. -/
opaque signatureValid : List Byte → Bool

/-- The fused minimum firmware revision (20 R416): log 16. -/
opaque minRevision : Nat

/-- The bytes that the state of a swapped-out cohort takes in its slot of the swap area (17 R371): log 9. -/
opaque swapLength : Nat

/-- SHA-384 (20 R422): log 16. -/
opaque digest : List Byte → List Byte

/-- The boot ROM and the fused configuration, which the measurements 1 and 3 are of (20 R422): log 16. -/
opaque bootRom : List Byte
opaque fuses : List Byte

/-- The certificate of the identity key (20 R422): log 16. -/
opaque certificate : List Byte

/-- The bytes of the SPDM responses that name versions, capabilities and algorithms (20 R422): log 16. -/
opaque spdmBytes : Nat → List Byte

/-- A signature of the identity key on a message, with the nonce that the response carries, by State.fresh (20 R422):
log 16. -/
opaque signature : List Byte → Nat → List Byte

/-- A NEGOTIATE_ALGORITHMS request offers ECDSA with P-384 and SHA-384 (20 R422): log 16. -/
opaque offersAlgorithms : List Byte → Bool

end Sys2Proof.Config
end

