-- ==== Sys2Proof/Machine/Sparse.lean ====
section
/-!
DEFINITION. Keyed collections as lists of (key, value) pairs with rising keys, with or without a default value. A
collection with a default lists no entry that equals it, so equal collections are equal lists.
-/
namespace Sys2Proof.Machine

/-- The value listed at a key. -/
def klook {α : Type} (m : List (Nat × α)) (k : Nat) : Option α :=
  match m with
  | [] => none
  | (a, x) :: t => if k = a then some x else klook t k

/-- The collection with a value listed at a key, in its place by rising key. -/
def kput {α : Type} (m : List (Nat × α)) (k : Nat) (x : α) : List (Nat × α) :=
  match m with
  | [] => [(k, x)]
  | (a, y) :: t =>
    if k < a then (k, x) :: (a, y) :: t
    else if k = a then (k, x) :: t
    else (a, y) :: kput t k x

/-- The collection without a key. -/
def kdel {α : Type} (m : List (Nat × α)) (k : Nat) : List (Nat × α) :=
  match m with
  | [] => []
  | (a, y) :: t => if k = a then kdel t k else (a, y) :: kdel t k

/-- The value at a key of a collection with default d. -/
def dget {α : Type} (d : α) (m : List (Nat × α)) (k : Nat) : α := (klook m k).getD d

/-- The collection with default d and a new value at a key; writing the default unlists the key. -/
def dput {α : Type} [DecidableEq α] (d : α) (m : List (Nat × α)) (k : Nat) (x : α) : List (Nat × α) :=
  if x = d then kdel m k else kput m k x

/-- Change the value listed at a key, if there is one. -/
def kmod {α : Type} (m : List (Nat × α)) (k : Nat) (f : α → α) : List (Nat × α) :=
  match m with
  | [] => []
  | (a, y) :: t => if k = a then (a, f y) :: t else (a, y) :: kmod t k f

/-- Keys strictly rise. -/
def risingFrom {α : Type} : Option Nat → List (Nat × α) → Bool
  | _, [] => true
  | none, (a, _) :: t => risingFrom (some a) t
  | some b, (a, _) :: t => decide (b < a) && risingFrom (some a) t

/-- The canonical form of a collection with default d. -/
def canonical {α : Type} [DecidableEq α] (d : α) (m : List (Nat × α)) : Bool :=
  risingFrom none m && m.all fun c => decide (c.2 ≠ d)

/-- The lowest number from lo on that is not among the given ones, looking at n candidates. -/
def lowestFree (used : List Nat) : Nat → Nat → Nat
  | 0, lo => lo
  | n + 1, lo => if used.contains lo then lowestFree used n (lo + 1) else lo

/-- Replace the element at an index. -/
def setAt {α : Type} (l : List α) (k : Nat) (x : α) : List α := l.set k x

/-- Drop the element at an index. -/
def dropAt {α : Type} (l : List α) (k : Nat) : List α := l.eraseIdx k

end Sys2Proof.Machine
end

