-- ==== Sys2Proof/Machine/Bits.lean ====
section
/-!
DEFINITION. Bit-field, sign-extension and byte-order helpers (00 R1, R6).
-/
namespace Sys2Proof.Machine

/-- Bits [lo + n - 1 : lo] of a number. -/
def nbits (w lo n : Nat) : Nat := w / 2 ^ lo % 2 ^ n

/-- Bit lo of a number. -/
def nbit (w lo : Nat) : Bool := w / 2 ^ lo % 2 == 1

/-- The signed value of the low n bits of a number. -/
def sintN (n w : Nat) : Int :=
  let x := w % 2 ^ n
  if 2 * x < 2 ^ n then (x : Int) else (x : Int) - (2 ^ n : Nat)

/-- The low 32 bits of an integer. -/
def wordOfInt (x : Int) : Word := BitVec.ofInt 32 x
/-- The low 64 bits of an integer. -/
def dwordOfInt (x : Int) : Dword := BitVec.ofInt 64 x

/-- A pair from its low and high words (03 R67). -/
def pairOf (lo hi : Word) : Dword := hi ++ lo
/-- The low word of a pair. -/
def loWord (x : Dword) : Word := x.setWidth 32
/-- The high word of a pair. -/
def hiWord (x : Dword) : Word := (x >>> 32).setWidth 32

/-- The number of one bits among the low n. -/
def popCount (n w : Nat) : Nat := ((List.range n).filter fun k => nbit w k).length

/-- The number of zero bits above the highest one bit of n bits (n for zero). -/
def leadingZeros (n w : Nat) : Nat := if w % 2 ^ n = 0 then n else n - 1 - (w % 2 ^ n).log2

/-- The number of zero bits below the lowest one bit of n bits (n for zero). -/
def trailingZeros (n w : Nat) : Nat := ((List.range n).takeWhile fun k => !nbit w k).length

/-- The low n bits in reverse order. -/
def reverseBits (n w : Nat) : Nat := (List.range n).foldl (fun acc k => 2 * acc + (if nbit w k then 1 else 0)) 0

/-- The bytes of a number, little-endian, n of them. -/
def bytesOf (n w : Nat) : List Byte := (List.range n).map fun k => BitVec.ofNat 8 (w / 256 ^ k)

/-- The number whose little-endian bytes are given. -/
def natOfBytes : List Byte → Nat
  | [] => 0
  | b :: t => b.toNat + 256 * natOfBytes t

/-- The little-endian number in n bytes at an offset of a byte list; bytes beyond its end are zero. -/
def fieldAt (bs : List Byte) (off n : Nat) : Nat := natOfBytes ((bs.drop off).take n)

/-- The byte at an offset of a byte list, 0 beyond its end. -/
def byteAt (bs : List Byte) (off : Nat) : Nat := (bs.getD off 0).toNat

/-- A byte list as a sparse collection is read: n bytes from an offset. -/
def cellsRead (m : List Host.Cell) (off n : Nat) : List Byte := (List.range n).map fun k => dget 0 m (off + k)

/-- Bytes stored into a sparse collection from an offset. -/
def cellsWrite (m : List Host.Cell) (off : Nat) (bs : List Byte) : List Host.Cell :=
  (bs.foldl (fun (acc : List Host.Cell × Nat) b => (dput 0 acc.1 acc.2 b, acc.2 + 1)) (m, off)).1

/-- Insertion by a key, after equal keys. -/
def insertBy {α : Type} (key : α → Nat) (x : α) : List α → List α
  | [] => [x]
  | y :: t => if key x < key y then x :: y :: t else y :: insertBy key x t

/-- A list sorted by a key; equal keys keep their order. -/
def sortBy {α : Type} (key : α → Nat) (l : List α) : List α := l.foldl (fun acc x => insertBy key x acc) []

/-- Ceiling of a quotient. -/
def ceilDiv (a b : Nat) : Nat := (a + b - 1) / b

/-- The set lanes of a mask below width w, in ascending order. -/
def lanesOf (w : Nat) (m : Mask) : List Nat := (List.range w).filter fun l => m.getLsbD l

/-- The mask of a list of lanes. -/
def maskOf (ls : List Nat) : Mask := ls.foldl (fun m l => m ||| BitVec.twoPow 1024 l) 0

/-- Lanes 0 to w - 1. -/
def fullMask (w : Nat) : Mask := BitVec.ofNat 1024 (2 ^ w - 1)

/-- Mask word j (02 R24). -/
def maskWord (m : Mask) (j : Nat) : Word := (m >>> (32 * j)).setWidth 32

/-- The summary word of a mask (02 R24). -/
def summary (m : Mask) : Word :=
  (List.range 32).foldl (fun acc j => if maskWord m j = 0 then acc else acc ||| BitVec.twoPow 32 j) 0

end Sys2Proof.Machine
end

