-- ==== Sys2Proof/Syntax.lean ====
section
/-!
DEFINITION. The instructions of Icdun as syntax, one constructor for each row of spec/opcode_table.json: 332 encoded
instructions, whose operand structures follow the formats of 03 R62 and R69, and 105 events of the part's agents,
which have no encoding (spec/95_what_each_step_holds.md). Register numbers and other encoded fields are kept as the
bit fields the manual gives them.
-/
namespace Sys2Proof

/-- The header of a 32-bit instruction: switch marker S, predicate field, negation N (03 R64). -/
structure Hdr where
  s : Bool
  p : BitVec 3
  n : Bool
  deriving DecidableEq, Repr

/-- 16-bit form with a second register (03 R62). -/
structure C16 where
  s : Bool
  d : BitVec 5
  b : BitVec 5
  deriving DecidableEq, Repr

/-- 16-bit form with a signed immediate (03 R62). -/
structure C16I where
  s : Bool
  d : BitVec 5
  i : BitVec 5
  deriving DecidableEq, Repr

/-- Format RR: destination and two sources (03 R69). -/
structure RR where
  h : Hdr
  d : BitVec 6
  a : BitVec 6
  b : BitVec 6
  deriving DecidableEq, Repr

/-- Format RI: destination, source, immediate (03 R69). -/
structure RI where
  h : Hdr
  d : BitVec 6
  a : BitVec 6
  i : BitVec 6
  deriving DecidableEq, Repr

/-- A destination d and a source a in the fields [17:12] and [23:18] (formats UN, MV, JR, CV, EN of 03 R69). -/
structure UN where
  h : Hdr
  d : BitVec 6
  a : BitVec 6
  deriving DecidableEq, Repr

/-- One source a in [23:18] (formats JR, MV, EN). -/
structure UA where
  h : Hdr
  a : BitVec 6
  deriving DecidableEq, Repr

/-- One register d in [17:12] (formats CT, MV, EN). -/
structure UD where
  h : Hdr
  d : BitVec 6
  deriving DecidableEq, Repr

/-- Format LI with its 12-bit immediate (03 R74). -/
structure LI where
  h : Hdr
  d : BitVec 6
  i : BitVec 12
  deriving DecidableEq, Repr

/-- Format LI with h = 2, an 8-bit immediate (03 R74). -/
structure LI8 where
  h : Hdr
  d : BitVec 6
  i : BitVec 8
  deriving DecidableEq, Repr

/-- Format PC: condition code, predicate destination, two sources (03 R69, R75). -/
structure PC where
  h : Hdr
  cc : BitVec 4
  pd : BitVec 3
  a : BitVec 6
  b : BitVec 6
  deriving DecidableEq, Repr

/-- Format BR: a branch offset in halfwords (03 R76). -/
structure BR where
  h : Hdr
  off : BitVec 20
  deriving DecidableEq, Repr

/-- Format CL: an offset in halfwords and a pair index (03 R76). -/
structure CL where
  h : Hdr
  off : BitVec 15
  w : BitVec 5
  deriving DecidableEq, Repr

/-- Format CT with an 8-bit immediate (03 R78). -/
structure CTI where
  h : Hdr
  i : BitVec 8
  deriving DecidableEq, Repr

/-- Format CT with a progress-counter number (03 R78). -/
structure CTP where
  h : Hdr
  i : BitVec 4
  deriving DecidableEq, Repr

/-- Format VT writing a predicate (05 R147). -/
structure VTP where
  h : Hdr
  ps : BitVec 3
  pd : BitVec 3
  deriving DecidableEq, Repr

/-- Format VT writing a register (05 R147). -/
structure VTR where
  h : Hdr
  ps : BitVec 3
  d : BitVec 6
  deriving DecidableEq, Repr

/-- Format MT (05 R149). -/
structure MT where
  h : Hdr
  pd : BitVec 3
  d : BitVec 6
  a : BitVec 6
  deriving DecidableEq, Repr

/-- Regroup: a key register, with the header fixed at p7 (05 R150). -/
structure RG where
  s : Bool
  a : BitVec 6
  deriving DecidableEq, Repr

/-- Format CV with a rounding field (03 R83). -/
structure CV where
  h : Hdr
  rnd : BitVec 3
  d : BitVec 6
  a : BitVec 6
  deriving DecidableEq, Repr

/-- Format M: global loads and stores (03 R79). -/
structure M where
  h : Hdr
  sz : BitVec 3
  zb : BitVec 5
  i : BitVec 6
  d : BitVec 6
  deriving DecidableEq, Repr

/-- Format MS: scratchpad loads and stores (03 R79). -/
structure MS where
  h : Hdr
  sz : BitVec 3
  ofs : BitVec 3
  i : BitVec 6
  d : BitVec 6
  deriving DecidableEq, Repr

/-- Format AT: atomics and reductions (03 R80). -/
structure AT where
  h : Hdr
  os : BitVec 5
  a : BitVec 6
  d : BitVec 6
  deriving DecidableEq, Repr

/-- Fence: ordering and scope (03 R81). -/
structure FN where
  h : Hdr
  ord : BitVec 3
  scope : BitVec 3
  deriving DecidableEq, Repr

/-- Bar.c: a slot (03 R81). -/
structure BAR where
  h : Hdr
  slot : BitVec 4
  deriving DecidableEq, Repr

/-- Waitn: an asynchronous path and a uniform register (03 R81). -/
structure WN where
  h : Hdr
  path : BitVec 3
  d : BitVec 6
  deriving DecidableEq, Repr

/-- One register a in [17:12] (formats SY and SX). -/
structure SA where
  h : Hdr
  a : BitVec 6
  deriving DecidableEq, Repr

/-- Ld.u: immediate, base pair, destination (03 R81). -/
structure LDU where
  h : Hdr
  i : BitVec 5
  b : BitVec 5
  d : BitVec 6
  deriving DecidableEq, Repr

/-- Format WC: waitc (03 R81). -/
structure WC where
  h : Hdr
  cmp : BitVec 3
  za : BitVec 5
  se : BitVec 6
  sm : BitVec 6
  deriving DecidableEq, Repr

/-- Format MA: mma (03 R84). -/
structure MA where
  h : Hdr
  acc : BitVec 2
  k : BitVec 6
  b : BitVec 6
  a : BitVec 6
  deriving DecidableEq, Repr

/-- Format AC without registers: mzero (03 R84). -/
structure AC0 where
  h : Hdr
  acc : BitVec 2
  deriving DecidableEq, Repr

/-- Format AC (03 R84). -/
structure AC where
  h : Hdr
  acc : BitVec 2
  b : BitVec 6
  a : BitVec 6
  deriving DecidableEq, Repr

/-- Mscl: scale-register number (03 R84). -/
structure SCL where
  h : Hdr
  u : BitVec 1
  d : BitVec 6
  a : BitVec 6
  deriving DecidableEq, Repr

/-- Vlds: stencil shape (03 R84). -/
structure VS where
  h : Hdr
  sub : BitVec 2
  d : BitVec 6
  a : BitVec 6
  deriving DecidableEq, Repr

/-- Pmode and preset: two option bits (03 R84). -/
structure PT where
  h : Hdr
  t : BitVec 2
  deriving DecidableEq, Repr

/-- Rdpr and wrpr: a privileged register number (03 R85). -/
structure PR where
  h : Hdr
  i : BitVec 8
  a : BitVec 6
  deriving DecidableEq, Repr

/-- The instructions and events of spec/opcode_table.json, one constructor a row, in the table's order. -/
inductive Instr where
  /-- IADD_C (R62): 16-bit form of iadd vd, vd, vb. -/
  | iaddC (f : C16)
  /-- ISUB_C (R62): 16-bit form of isub vd, vd, vb. -/
  | isubC (f : C16)
  /-- IAND_C (R62): 16-bit form of iand vd, vd, vb. -/
  | iandC (f : C16)
  /-- IOR_C (R62): 16-bit form of ior vd, vd, vb. -/
  | iorC (f : C16)
  /-- IXOR_C (R62): 16-bit form of ixor vd, vd, vb. -/
  | ixorC (f : C16)
  /-- ISHL_C (R62): 16-bit form of ishl vd, vd, vb. -/
  | ishlC (f : C16)
  /-- ISHR_C (R62): 16-bit form of ishr vd, vd, vb. -/
  | ishrC (f : C16)
  /-- ISAR_C (R62): 16-bit form of isar vd, vd, vb. -/
  | isarC (f : C16)
  /-- MOV_C (R62): 16-bit form of mov vd, vb. -/
  | movC (f : C16)
  /-- ADDI_C (R62): 16-bit add of a sign-extended 5-bit immediate to vd. -/
  | addiC (f : C16I)
  /-- IMUL_C (R62): 16-bit form of imul vd, vd, vb. -/
  | imulC (f : C16)
  /-- FADD_C (R62): 16-bit form of fadd.f32 vd, vd, vb. -/
  | faddC (f : C16)
  /-- FSUB_C (R62): 16-bit form of fsub.f32 vd, vd, vb. -/
  | fsubC (f : C16)
  /-- FMUL_C (R62): 16-bit form of fmul.f32 vd, vd, vb. -/
  | fmulC (f : C16)
  /-- FMAX_C (R62): 16-bit form of fmax.f32 vd, vd, vb. -/
  | fmaxC (f : C16)
  /-- FMIN_C (R62): 16-bit form of fmin.f32 vd, vd, vb. -/
  | fminC (f : C16)
  /-- IADD (R127): 32-bit wrapping integer add per acting lane. -/
  | iadd (f : RR)
  /-- ISUB (R127): 32-bit wrapping integer subtract per acting lane. -/
  | isub (f : RR)
  /-- IMUL (R127): Low 32 bits of the product per acting lane. -/
  | imul (f : RR)
  /-- IMAD (R127): Low 32 bits of a times b plus old d. -/
  | imad (f : RR)
  /-- MULHI_S (R127): High word of the signed 64-bit product. -/
  | mulhiS (f : RR)
  /-- MULHI_N (R127): High word of the unsigned 64-bit product. -/
  | mulhiN (f : RR)
  /-- MULW_S (R127): Full signed 64-bit product into a lane pair. -/
  | mulwS (f : RR)
  /-- MULW_N (R127): Full unsigned 64-bit product into a lane pair. -/
  | mulwN (f : RR)
  /-- IAND (R127): Bitwise AND per acting lane. -/
  | iand (f : RR)
  /-- IOR (R127): Bitwise OR per acting lane. -/
  | ior (f : RR)
  /-- IXOR (R127): Bitwise XOR per acting lane. -/
  | ixor (f : RR)
  /-- IANDN (R127): a AND NOT b per acting lane. -/
  | iandn (f : RR)
  /-- ISHL (R128): Logical left shift by the full 32-bit amount. -/
  | ishl (f : RR)
  /-- ISHR (R128): Logical right shift by the full 32-bit amount. -/
  | ishr (f : RR)
  /-- ISAR (R128): Arithmetic right shift by the full 32-bit amount. -/
  | isar (f : RR)
  /-- IROT (R128): Rotate left by n mod 32. -/
  | irot (f : RR)
  /-- IMIN_S (R127): Signed minimum per acting lane. -/
  | iminS (f : RR)
  /-- IMIN_N (R127): Unsigned minimum per acting lane. -/
  | iminN (f : RR)
  /-- IMAX_S (R127): Signed maximum per acting lane. -/
  | imaxS (f : RR)
  /-- IMAX_N (R127): Unsigned maximum per acting lane. -/
  | imaxN (f : RR)
  /-- BFE_S (R129): Signed bit-field extract with position and length from b. -/
  | bfeS (f : RR)
  /-- BFE_N (R129): Unsigned bit-field extract with position and length from b. -/
  | bfeN (f : RR)
  /-- BFI (R129): Inserts a bit field of a into d. -/
  | bfi (f : RR)
  /-- SEL (R130): Selects va or vb per lane by the selector predicate in the pred field. -/
  | sel (f : RR)
  /-- IADD_64 (R131): 64-bit add of lane pairs. -/
  | iadd64 (f : RR)
  /-- ISUB_64 (R131): 64-bit subtract of lane pairs. -/
  | isub64 (f : RR)
  /-- ISHL_64 (R131): 64-bit left shift of a lane pair. -/
  | ishl64 (f : RR)
  /-- ISHR_64 (R131): 64-bit logical right shift of a lane pair. -/
  | ishr64 (f : RR)
  /-- ADDI (R132): Adds a signed 6-bit immediate. -/
  | addi (f : RI)
  /-- SHLI (R132): Left shift by an immediate. -/
  | shli (f : RI)
  /-- SHRI (R132): Logical right shift by an immediate. -/
  | shri (f : RI)
  /-- SARI (R132): Arithmetic right shift by an immediate. -/
  | sari (f : RI)
  /-- POPC (R133): Population count of a lane register. -/
  | popc (f : UN)
  /-- CLZ (R133): Leading zero count of a lane register. -/
  | clz (f : UN)
  /-- CTZ (R133): Trailing zero count of a lane register. -/
  | ctz (f : UN)
  /-- BREV (R133): Bit reversal of a lane register. -/
  | brev (f : UN)
  /-- INEG (R133): Two's-complement negation of a lane register. -/
  | ineg (f : UN)
  /-- INOT (R133): Bitwise NOT of a lane register. -/
  | inot (f : UN)
  /-- IABS (R133): Absolute value of a lane register. -/
  | iabs (f : UN)
  /-- SEXT_B8 (R133): Sign-extends the low byte. -/
  | sextB8 (f : UN)
  /-- SEXT_B16 (R133): Sign-extends the low halfword. -/
  | sextB16 (f : UN)
  /-- ZEXT_B8 (R133): Zero-extends the low byte. -/
  | zextB8 (f : UN)
  /-- ZEXT_B16 (R133): Zero-extends the low halfword. -/
  | zextB16 (f : UN)
  /-- POPC_64 (R133): Population count of a lane pair. -/
  | popc64 (f : UN)
  /-- CLZ_64 (R133): Leading zero count of a lane pair. -/
  | clz64 (f : UN)
  /-- INEG_64 (R133): 64-bit negation of a lane pair. -/
  | ineg64 (f : UN)
  /-- POPC_UNIFORM (R133): Population count of a uniform register. -/
  | popcUniform (f : UN)
  /-- CLZ_UNIFORM (R133): Leading zero count of a uniform register. -/
  | clzUniform (f : UN)
  /-- CTZ_UNIFORM (R133): Trailing zero count of a uniform register. -/
  | ctzUniform (f : UN)
  /-- BREV_UNIFORM (R133): Bit reversal of a uniform register. -/
  | brevUniform (f : UN)
  /-- INEG_UNIFORM (R133): Negation of a uniform register. -/
  | inegUniform (f : UN)
  /-- INOT_UNIFORM (R133): Bitwise NOT of a uniform register. -/
  | inotUniform (f : UN)
  /-- IABS_UNIFORM (R133): Absolute value of a uniform register. -/
  | iabsUniform (f : UN)
  /-- SEXT_B8_UNIFORM (R133): Sign-extends the low byte of a uniform register. -/
  | sextB8Uniform (f : UN)
  /-- SEXT_B16_UNIFORM (R133): Sign-extends the low halfword of a uniform register. -/
  | sextB16Uniform (f : UN)
  /-- ZEXT_B8_UNIFORM (R133): Zero-extends the low byte of a uniform register. -/
  | zextB8Uniform (f : UN)
  /-- ZEXT_B16_UNIFORM (R133): Zero-extends the low halfword of a uniform register. -/
  | zextB16Uniform (f : UN)
  /-- POPC_64_UNIFORM (R133): Population count of a uniform pair. -/
  | popc64Uniform (f : UN)
  /-- CLZ_64_UNIFORM (R133): Leading zero count of a uniform pair. -/
  | clz64Uniform (f : UN)
  /-- INEG_64_UNIFORM (R133): Negation of a uniform pair. -/
  | ineg64Uniform (f : UN)
  /-- MOV_V_V (R72): Moves a lane register to a lane register. -/
  | movVV (f : UN)
  /-- MOV_V_S (R72): Broadcasts a uniform register into a lane register. -/
  | movVS (f : UN)
  /-- MOV_S_S (R72): Moves a uniform register to a uniform register. -/
  | movSS (f : UN)
  /-- MOV_S_V (R135): Moves the elected lane's value into a uniform register. -/
  | movSV (f : UN)
  /-- MOV_V_SPECIAL (R73): Reads a special value into a lane register or pair. -/
  | movVSpecial (f : UN)
  /-- MOV_S_SPECIAL (R73): Reads a special value into a uniform register or pair. -/
  | movSSpecial (f : UN)
  /-- MOV_W_W (R72): Moves a lane pair. -/
  | movWW (f : UN)
  /-- MOV_Z_Z (R72): Moves a uniform pair. -/
  | movZZ (f : UN)
  /-- MOV_P_V (R72): Sets a lane predicate to va not equal to zero. -/
  | movPV (f : UN)
  /-- MOV_V_P (R72): Writes 1 or 0 from a lane predicate. -/
  | movVP (f : UN)
  /-- MOV_Q_S (R72): Sets a uniform predicate to sa not equal to zero. -/
  | movQS (f : UN)
  /-- MOV_S_Q (R72): Moves a uniform predicate into a uniform register. -/
  | movSQ (f : UN)
  /-- MOV_W_Z (R72): Broadcasts a uniform pair into a lane pair. -/
  | movWZ (f : UN)
  /-- MOVI (R74): Writes a sign-extended 12-bit immediate into a lane register. -/
  | movi (f : LI)
  /-- MOVI_H1 (R74): Writes bits [23:12] of a lane register. -/
  | moviH1 (f : LI)
  /-- MOVI_H2 (R74): Writes bits [31:24] of a lane register. -/
  | moviH2 (f : LI8)
  /-- MOVI_UNIFORM (R74): Writes a sign-extended 12-bit immediate into a uniform register. -/
  | moviUniform (f : LI)
  /-- MOVI_H1_UNIFORM (R74): Writes bits [23:12] of a uniform register. -/
  | moviH1Uniform (f : LI)
  /-- MOVI_H2_UNIFORM (R74): Writes bits [31:24] of a uniform register. -/
  | moviH2Uniform (f : LI8)
  /-- IADD_UNIFORM (R134): Uniform 32-bit add. -/
  | iaddUniform (f : RR)
  /-- ISUB_UNIFORM (R134): Uniform 32-bit subtract. -/
  | isubUniform (f : RR)
  /-- IMUL_UNIFORM (R134): Uniform 32-bit multiply. -/
  | imulUniform (f : RR)
  /-- IADD_64_UNIFORM (R134): Uniform 64-bit add of pairs. -/
  | iadd64Uniform (f : RR)
  /-- IAND_UNIFORM (R134): Uniform bitwise AND. -/
  | iandUniform (f : RR)
  /-- IOR_UNIFORM (R134): Uniform bitwise OR. -/
  | iorUniform (f : RR)
  /-- IXOR_UNIFORM (R134): Uniform bitwise XOR. -/
  | ixorUniform (f : RR)
  /-- ISHL_UNIFORM (R134): Uniform left shift. -/
  | ishlUniform (f : RR)
  /-- ADDI_UNIFORM (R134): Uniform add of a signed immediate. -/
  | addiUniform (f : RI)
  /-- SHLI_UNIFORM (R134): Uniform left shift by an immediate. -/
  | shliUniform (f : RI)
  /-- SHRI_UNIFORM (R134): Uniform logical right shift by an immediate. -/
  | shriUniform (f : RI)
  /-- ADDI_64_UNIFORM (R134): Uniform 64-bit add of a sign-extended immediate to a pair. -/
  | addi64Uniform (f : RI)
  /-- SETP (R136): Integer compare into a lane predicate per acting lane. -/
  | setp (f : PC)
  /-- SETP_UNIFORM (R136): Integer compare of uniform registers into a uniform predicate. -/
  | setpUniform (f : PC)
  /-- BRA (R137): Lane-predicated branch that moves or splits the path. -/
  | bra (f : BR)
  /-- BRA_U (R137): Uniform branch that moves the whole path. -/
  | braU (f : BR)
  /-- CALL (R138): Writes PC+4 into a lane pair and branches like bra. -/
  | call (f : CL)
  /-- JMP (R139): Indirect jump to each acting lane's target, splitting by target. -/
  | jmp (f : UA)
  /-- CALLR (R139): Indirect call writing PC+4 into wd. -/
  | callr (f : UN)
  /-- RET (R139): Return with the effect of jmp. -/
  | ret (f : UA)
  /-- NOP (R141): No operation. -/
  | nop (f : Hdr)
  /-- EXIT (R48): Removes acting lanes from the path, deleting an emptied path. -/
  | exit (f : Hdr)
  /-- TRAP (R142): Raises the user trap with a code. -/
  | trap (f : CTI)
  /-- PROG (R141): Increments a progress counter when profiling is on. -/
  | prog (f : CTP)
  /-- RAND (R141): Gives each acting lane a random 32-bit value. -/
  | rand (f : UD)
  /-- RAND_UNIFORM (R141): Writes one random value into a uniform register. -/
  | randUniform (f : UD)
  /-- BRK (R143): Debug stop that holds the path when the debug flag is set. -/
  | brk (f : CTI)
  /-- ADR (R140): Writes a PC-relative address into a uniform pair. -/
  | adr (f : CL)
  /-- SHFL_IDX (R146): Reads va from lane k. -/
  | shflIdx (f : RR)
  /-- SHFL_XOR (R146): Reads va from lane l XOR k. -/
  | shflXor (f : RR)
  /-- SHFL_UP (R146): Reads va from lane l minus k. -/
  | shflUp (f : RR)
  /-- SHFL_DOWN (R146): Reads va from lane l plus k. -/
  | shflDown (f : RR)
  /-- VOTE_ANY (R147): Any-vote into a lane predicate. -/
  | voteAny (f : VTP)
  /-- VOTE_ANY_UNIFORM (R147): Any-vote into a uniform predicate. -/
  | voteAnyUniform (f : VTP)
  /-- VOTE_ALL (R147): All-vote into a lane predicate. -/
  | voteAll (f : VTP)
  /-- VOTE_ALL_UNIFORM (R147): All-vote into a uniform predicate. -/
  | voteAllUniform (f : VTP)
  /-- VOTE_COUNT (R147): Counts participating lanes with the predicate into each lane. -/
  | voteCount (f : VTR)
  /-- VOTE_COUNT_UNIFORM (R147): Counts lanes with the predicate into a uniform register. -/
  | voteCountUniform (f : VTR)
  /-- VOTE_BALLOT (R147): Writes the lane's ballot word. -/
  | voteBallot (f : VTR)
  /-- VOTE_BALLOT_UNIFORM (R147): Writes every ballot word into consecutive uniform registers. -/
  | voteBallotUniform (f : VTR)
  /-- SCAN_INC_I32 (R148): Inclusive integer prefix sum over participating lanes. -/
  | scanIncI32 (f : UN)
  /-- SCAN_EXC_I32 (R148): Exclusive integer prefix sum over participating lanes. -/
  | scanExcI32 (f : UN)
  /-- SCAN_INC_F32 (R148): Inclusive FP32 prefix sum in ascending lane order. -/
  | scanIncF32 (f : UN)
  /-- SCAN_EXC_F32 (R148): Exclusive FP32 prefix sum in ascending lane order. -/
  | scanExcF32 (f : UN)
  /-- MATCH_LEAD (R149): Groups lanes by key and writes each lane's leader. -/
  | matchLead (f : MT)
  /-- MATCH_RANK (R149): Writes each lane's rank within its key group. -/
  | matchRank (f : MT)
  /-- MATCH_SUM_I32 (R149): Sums each group's vd into its leader as integers. -/
  | matchSumI32 (f : MT)
  /-- MATCH_SUM_F32 (R149): Sums each group's vd into its leader in FP32 lane order. -/
  | matchSumF32 (f : MT)
  /-- REGROUP (R59): Cohort-collective compaction of active lanes by key; parks until all teams arrive. -/
  | regroup (f : RG)
  /-- FADD_F32 (R155): FP32 addition. -/
  | faddF32 (f : RR)
  /-- FSUB_F32 (R155): FP32 subtraction. -/
  | fsubF32 (f : RR)
  /-- FMUL_F32 (R155): FP32 multiplication. -/
  | fmulF32 (f : RR)
  /-- FFMA_F32 (R155): FP32 fused multiply-add with one rounding. -/
  | ffmaF32 (f : RR)
  /-- FMIN_F32 (R157): FP32 minimum. -/
  | fminF32 (f : RR)
  /-- FMAX_F32 (R157): FP32 maximum. -/
  | fmaxF32 (f : RR)
  /-- FDIV_F32 (R156): Correctly rounded FP32 division. -/
  | fdivF32 (f : RR)
  /-- FCPSGN_F32 (R158): Copies the sign of b onto a. -/
  | fcpsgnF32 (f : RR)
  /-- FADD_F64 (R155): FP64 addition. -/
  | faddF64 (f : RR)
  /-- FSUB_F64 (R155): FP64 subtraction. -/
  | fsubF64 (f : RR)
  /-- FMUL_F64 (R155): FP64 multiplication. -/
  | fmulF64 (f : RR)
  /-- FFMA_F64 (R155): FP64 fused multiply-add. -/
  | ffmaF64 (f : RR)
  /-- FMIN_F64 (R157): FP64 minimum. -/
  | fminF64 (f : RR)
  /-- FMAX_F64 (R157): FP64 maximum. -/
  | fmaxF64 (f : RR)
  /-- FDIV_F64 (R156): Correctly rounded FP64 division. -/
  | fdivF64 (f : RR)
  /-- FCPSGN_F64 (R158): Copies bit 63 of b onto a. -/
  | fcpsgnF64 (f : RR)
  /-- FADD_F16X2 (R154): Paired FP16 addition. -/
  | faddF16x2 (f : RR)
  /-- FSUB_F16X2 (R154): Paired FP16 subtraction. -/
  | fsubF16x2 (f : RR)
  /-- FMUL_F16X2 (R154): Paired FP16 multiplication. -/
  | fmulF16x2 (f : RR)
  /-- FFMA_F16X2 (R154): Paired FP16 fused multiply-add. -/
  | ffmaF16x2 (f : RR)
  /-- FMIN_F16X2 (R157): Paired FP16 minimum. -/
  | fminF16x2 (f : RR)
  /-- FMAX_F16X2 (R157): Paired FP16 maximum. -/
  | fmaxF16x2 (f : RR)
  /-- FSQRT_F32 (R159): Correctly rounded FP32 square root. -/
  | fsqrtF32 (f : UN)
  /-- FSQRT_F64 (R159): Correctly rounded FP64 square root. -/
  | fsqrtF64 (f : UN)
  /-- FRCP_F32 (R161): Reciprocal estimate. -/
  | frcpF32 (f : UN)
  /-- FRSQ_F32 (R161): Reciprocal square-root estimate. -/
  | frsqF32 (f : UN)
  /-- FEX2_F32 (R161): Base-2 exponential estimate. -/
  | fex2F32 (f : UN)
  /-- FLG2_F32 (R161): Base-2 logarithm estimate. -/
  | flg2F32 (f : UN)
  /-- FSIN_F32 (R161): Sine estimate. -/
  | fsinF32 (f : UN)
  /-- FCOS_F32 (R161): Cosine estimate. -/
  | fcosF32 (f : UN)
  /-- FABS_F32 (R159): Clears the FP32 sign bit. -/
  | fabsF32 (f : UN)
  /-- FNEG_F32 (R159): Inverts the FP32 sign bit. -/
  | fnegF32 (f : UN)
  /-- FABS_F64 (R159): Clears the FP64 sign bit. -/
  | fabsF64 (f : UN)
  /-- FNEG_F64 (R159): Inverts the FP64 sign bit. -/
  | fnegF64 (f : UN)
  /-- FCLASS_F32 (R160): Writes the one-hot class mask of an FP32 value. -/
  | fclassF32 (f : UN)
  /-- FCLASS_F64 (R160): Writes the class mask of an FP64 value. -/
  | fclassF64 (f : UN)
  /-- FRINT_F32 (R159): Rounds FP32 to an integral value in FPM.RM. -/
  | frintF32 (f : UN)
  /-- FRINT_F64 (R159): Rounds FP64 to an integral value in FPM.RM. -/
  | frintF64 (f : UN)
  /-- FSETP_F32 (R163): FP32 compare into a lane predicate. -/
  | fsetpF32 (f : PC)
  /-- FSETP_F64 (R163): FP64 compare into a lane predicate. -/
  | fsetpF64 (f : PC)
  /-- CVT_F32_F64 (R165): Converts FP64 to FP32. -/
  | cvtF32F64 (f : CV)
  /-- CVT_F64_F32 (R165): Exact widening of FP32 to FP64. -/
  | cvtF64F32 (f : UN)
  /-- CVT_F16_F32 (R165): Converts FP32 to FP16. -/
  | cvtF16F32 (f : CV)
  /-- CVT_F32_F16 (R165): Exact widening of FP16 to FP32. -/
  | cvtF32F16 (f : UN)
  /-- CVT_BF16_F32 (R165): Converts FP32 to BF16. -/
  | cvtBf16F32 (f : CV)
  /-- CVT_F32_BF16 (R165): Exact widening of BF16 to FP32. -/
  | cvtF32Bf16 (f : UN)
  /-- CVT_E4M3_F32 (R165): Converts FP32 to FP8 E4M3. -/
  | cvtE4m3F32 (f : CV)
  /-- CVT_E5M2_F32 (R165): Converts FP32 to FP8 E5M2. -/
  | cvtE5m2F32 (f : CV)
  /-- CVT_F32_E4M3 (R165): Exact widening of E4M3 to FP32. -/
  | cvtF32E4m3 (f : UN)
  /-- CVT_F32_E5M2 (R165): Exact widening of E5M2 to FP32. -/
  | cvtF32E5m2 (f : UN)
  /-- CVT_E2M1_F32 (R165): Converts FP32 to FP4 E2M1. -/
  | cvtE2m1F32 (f : CV)
  /-- CVT_F32_E2M1 (R165): Exact widening of E2M1 to FP32. -/
  | cvtF32E2m1 (f : UN)
  /-- CVT_P2P8_F32 (R167): Converts FP32 to canonical P2P8. -/
  | cvtP2p8F32 (f : CV)
  /-- CVT_F32_P2P8 (R167): Exact decoding of P2P8 to FP32. -/
  | cvtF32P2p8 (f : UN)
  /-- CVT_S32_F32 (R165): Converts FP32 to INT32. -/
  | cvtS32F32 (f : CV)
  /-- CVT_N32_F32 (R165): Converts FP32 to UINT32. -/
  | cvtN32F32 (f : CV)
  /-- CVT_F32_S32 (R165): Converts INT32 to FP32. -/
  | cvtF32S32 (f : CV)
  /-- CVT_F32_N32 (R165): Converts UINT32 to FP32. -/
  | cvtF32N32 (f : CV)
  /-- CVT_S32_F64 (R165): Converts FP64 to INT32. -/
  | cvtS32F64 (f : CV)
  /-- CVT_F64_S32 (R165): Exact conversion of INT32 to FP64. -/
  | cvtF64S32 (f : UN)
  /-- CVT_S64_F64 (R165): Converts FP64 to INT64. -/
  | cvtS64F64 (f : CV)
  /-- CVT_F64_S64 (R165): Converts INT64 to FP64. -/
  | cvtF64S64 (f : CV)
  /-- CVT_S8_F32 (R165): Converts FP32 to INT8, sign-extended. -/
  | cvtS8F32 (f : CV)
  /-- CVT_S4_F32 (R165): Converts FP32 to INT4, sign-extended. -/
  | cvtS4F32 (f : CV)
  /-- CVT_F32_S8 (R165): Exact conversion of INT8 to FP32. -/
  | cvtF32S8 (f : UN)
  /-- CVT_F32_S4 (R165): Exact conversion of INT4 to FP32. -/
  | cvtF32S4 (f : UN)
  /-- CVT_F16_F64 (R165): Converts FP64 to FP16 with one rounding. -/
  | cvtF16F64 (f : CV)
  /-- CVT_E8M0_F32 (R111): Converts FP32 to an E8M0 scale. -/
  | cvtE8m0F32 (f : CV)
  /-- CVT_F32_E8M0 (R165): Exact conversion of an E8M0 scale to FP32. -/
  | cvtF32E8m0 (f : UN)
  /-- CVT_SAT_F32_F64 (R165): Saturating FP64 to FP32 conversion. -/
  | cvtSatF32F64 (f : CV)
  /-- CVT_SAT_F16_F32 (R165): Saturating FP32 to FP16 conversion. -/
  | cvtSatF16F32 (f : CV)
  /-- CVT_SAT_BF16_F32 (R165): Saturating FP32 to BF16 conversion. -/
  | cvtSatBf16F32 (f : CV)
  /-- CVT_SAT_E4M3_F32 (R165): Saturating FP32 to E4M3 conversion. -/
  | cvtSatE4m3F32 (f : CV)
  /-- CVT_SAT_E5M2_F32 (R165): Saturating FP32 to E5M2 conversion. -/
  | cvtSatE5m2F32 (f : CV)
  /-- CVT_SAT_E2M1_F32 (R165): Saturating FP32 to E2M1 conversion. -/
  | cvtSatE2m1F32 (f : CV)
  /-- CVT_SAT_P2P8_F32 (R167): Saturating FP32 to P2P8 conversion. -/
  | cvtSatP2p8F32 (f : CV)
  /-- CVT_SAT_S32_F32 (R165): Saturating FP32 to INT32 conversion. -/
  | cvtSatS32F32 (f : CV)
  /-- CVT_SAT_N32_F32 (R165): Saturating FP32 to UINT32 conversion. -/
  | cvtSatN32F32 (f : CV)
  /-- CVT_SAT_F32_S32 (R165): INT32 to FP32 in the saturating major, same effect as cvt. -/
  | cvtSatF32S32 (f : CV)
  /-- CVT_SAT_F32_N32 (R165): UINT32 to FP32 in the saturating major, same effect as cvt. -/
  | cvtSatF32N32 (f : CV)
  /-- CVT_SAT_S32_F64 (R165): Saturating FP64 to INT32 conversion. -/
  | cvtSatS32F64 (f : CV)
  /-- CVT_SAT_S64_F64 (R165): Saturating FP64 to INT64 conversion. -/
  | cvtSatS64F64 (f : CV)
  /-- CVT_SAT_F64_S64 (R165): INT64 to FP64 in the saturating major, same effect as cvt. -/
  | cvtSatF64S64 (f : CV)
  /-- CVT_SAT_S8_F32 (R165): Saturating FP32 to INT8 conversion. -/
  | cvtSatS8F32 (f : CV)
  /-- CVT_SAT_S4_F32 (R165): Saturating FP32 to INT4 conversion. -/
  | cvtSatS4F32 (f : CV)
  /-- CVT_SAT_F16_F64 (R165): Saturating FP64 to FP16 conversion. -/
  | cvtSatF16F64 (f : CV)
  /-- CVT_SAT_E8M0_F32 (R111): Saturating FP32 to E8M0 conversion. -/
  | cvtSatE8m0F32 (f : CV)
  /-- MXSCALE (R168): Finds each pass's shared MX block scale descriptor. -/
  | mxscale (f : RR)
  /-- MXQ (R169): Quantises each lane under an MX descriptor. -/
  | mxq (f : RR)
  /-- MXDQ (R170): Expands an MX element to FP32. -/
  | mxdq (f : RR)
  /-- RDFMT (R117): Reads the path's current FMT. -/
  | rdfmt (f : UD)
  /-- WRFMT (R117): Writes the path's current FMT. -/
  | wrfmt (f : UA)
  /-- RDFPM (R117): Reads FPM. -/
  | rdfpm (f : UD)
  /-- WRFPM (R117): Writes FPM, trapping on reserved values. -/
  | wrfpm (f : UA)
  /-- RDFST (R117): Reads FST. -/
  | rdfst (f : UD)
  /-- WRFST (R117): Replaces FST. -/
  | wrfst (f : UA)
  /-- CLRFST (R117): Clears selected FST flags. -/
  | clrfst (f : UA)
  /-- LD_G (R180): Global load per acting lane, counted on LD. -/
  | ldG (f : M)
  /-- ST_G (R180): Global store per acting lane. -/
  | stG (f : M)
  /-- LD_S (R182): Load from the team's own scratchpad. -/
  | ldS (f : MS)
  /-- ST_S (R182): Store to the team's own scratchpad. -/
  | stS (f : MS)
  /-- LD_C (R182): Load through the cohort scratchpad window, counted on SP. -/
  | ldC (f : MS)
  /-- ST_C (R182): Store through the cohort scratchpad window. -/
  | stC (f : MS)
  /-- ATOM_ADD (R187): Atomic 32-bit add returning the old value. -/
  | atomAdd (f : AT)
  /-- ATOM_MIN_S (R187): Atomic signed minimum. -/
  | atomMinS (f : AT)
  /-- ATOM_MIN_N (R187): Atomic unsigned minimum. -/
  | atomMinN (f : AT)
  /-- ATOM_MAX_S (R187): Atomic signed maximum. -/
  | atomMaxS (f : AT)
  /-- ATOM_MAX_N (R187): Atomic unsigned maximum. -/
  | atomMaxN (f : AT)
  /-- ATOM_AND (R187): Atomic AND. -/
  | atomAnd (f : AT)
  /-- ATOM_OR (R187): Atomic OR. -/
  | atomOr (f : AT)
  /-- ATOM_XOR (R187): Atomic XOR. -/
  | atomXor (f : AT)
  /-- ATOM_EXCH (R187): Atomic 32-bit exchange. -/
  | atomExch (f : AT)
  /-- ATOM_CAS (R187): Atomic 32-bit compare-and-swap. -/
  | atomCas (f : AT)
  /-- ATOM_ADD_F32 (R188): Atomic FP32 add in ascending lane order. -/
  | atomAddF32 (f : AT)
  /-- ATOM_ADD_64 (R187): Atomic 64-bit add. -/
  | atomAdd64 (f : AT)
  /-- ATOM_EXCH_64 (R187): Atomic 64-bit exchange. -/
  | atomExch64 (f : AT)
  /-- ATOM_CAS_64 (R187): Atomic 64-bit compare-and-swap. -/
  | atomCas64 (f : AT)
  /-- ATOM_LD (R187): Atomic load with an ordering. -/
  | atomLd (f : AT)
  /-- ATOM_ST (R187): Atomic store with an ordering. -/
  | atomSt (f : AT)
  /-- RED_ADD (R187): Non-returning atomic add. -/
  | redAdd (f : AT)
  /-- RED_ADD_F32 (R116): Non-returning FP32 add, lane combining per FPM.DETR. -/
  | redAddF32 (f : AT)
  /-- RED_MIN_S (R187): Non-returning signed minimum. -/
  | redMinS (f : AT)
  /-- RED_MAX_S (R187): Non-returning signed maximum. -/
  | redMaxS (f : AT)
  /-- RED_AND (R187): Non-returning atomic AND. -/
  | redAnd (f : AT)
  /-- RED_OR (R187): Non-returning atomic OR. -/
  | redOr (f : AT)
  /-- RED_XOR (R187): Non-returning atomic XOR. -/
  | redXor (f : AT)
  /-- RED_ADD_64 (R187): Non-returning 64-bit add. -/
  | redAdd64 (f : AT)
  /-- FENCE (R189): Fence at a scope; parks until earlier accesses are performed. -/
  | fence (f : FN)
  /-- BAR_C (R190): Arrives at a cohort barrier slot and waits as a whole team. -/
  | barC (f : BAR)
  /-- WAITN (R192): Counts until an asynchronous-path counter is at most sN. -/
  | waitn (f : WN)
  /-- FETCHW (R195): Claims the next work item (FETCH) or segment (SPLIT). -/
  | fetchw (f : Hdr)
  /-- LAUNCH (R196): Launches a child grid from a launch parameter block. -/
  | launch (f : SA)
  /-- CP (R197): Hands a copy command from scratchpad to the copy engine. -/
  | cp (f : SA)
  /-- LD_U_B32 (R183): Uniform 32-bit global load. -/
  | ldUB32 (f : LDU)
  /-- LD_U_B64 (R183): Uniform 64-bit global load. -/
  | ldUB64 (f : LDU)
  /-- WAITC (R193): Acquire-reads a word and parks the team until a comparison holds. -/
  | waitc (f : WC)
  /-- MMA (R238): Issues one exact matrix step D += A·B on an accumulator tile. -/
  | mma (f : MA)
  /-- MZERO (R243): Zeroes an accumulator tile. -/
  | mzero (f : AC0)
  /-- MLDA_S (R243): Loads raw accumulator rows from scratchpad. -/
  | mldaS (f : AC)
  /-- MLDA_G (R243): Loads raw accumulator rows from global memory. -/
  | mldaG (f : AC)
  /-- MSTA_S (R243): Stores accumulator rows to scratchpad in FMT.OF. -/
  | mstaS (f : AC)
  /-- MSTA_G (R243): Stores accumulator rows to global memory in FMT.OF. -/
  | mstaG (f : AC)
  /-- MADD_S (R243): Adds raw image rows from scratchpad into a tile. -/
  | maddS (f : AC)
  /-- MADD_G (R243): Adds raw image rows from global memory into a tile. -/
  | maddG (f : AC)
  /-- MRD (R243): Reads one accumulator element as FP32 into a uniform register. -/
  | mrd (f : AC)
  /-- MSCL (R235): Writes a block-scale register. -/
  | mscl (f : SCL)
  /-- TTQ (R246): Pushes a tile-task record into the cluster task queue. -/
  | ttq (f : UA)
  /-- VLD (R261): Reads one voxel per lane through the tree. -/
  | vld (f : UN)
  /-- VLDS (R262): Reads a stencil of voxels around each lane's centre. -/
  | vlds (f : VS)
  /-- VLEAF (R265): Copies a whole leaf slot into scratchpad. -/
  | vleaf (f : UN)
  /-- VST (R263): Writes a voxel value into an existing leaf. -/
  | vst (f : UN)
  /-- VACT_CLR (R264): Clears a voxel's active bit, returning the old bit. -/
  | vactClr (f : UN)
  /-- VACT_SET (R264): Sets a voxel's active bit, returning the old bit. -/
  | vactSet (f : UN)
  /-- VMARCH (R266): Marches each lane's ray to the next leaf or active tile. -/
  | vmarch (f : UN)
  /-- VINS (R267): Curator inserts the leaf containing each lane's voxel. -/
  | vins (f : UN)
  /-- VDEL (R269): Curator deletes the leaf containing each lane's voxel. -/
  | vdel (f : UN)
  /-- HALO (R272): Issues a halo command that copies leaves and arrives at a step barrier. -/
  | halo (f : UD)
  /-- PLOAD (R287): Loads a Peuri model into the array set. -/
  | pload (f : UA)
  /-- PMODE (R288): Sets encoding and threshold source for later sweeps. -/
  | pmode (f : PT)
  /-- PCLAMP (R289): Applies a clamp/release list to cells. -/
  | pclamp (f : UA)
  /-- PSWEEP (R290): Runs n Gibbs sweeps. -/
  | psweep (f : UA)
  /-- PREAD_STATES (R291): Writes cell states to global memory. -/
  | preadStates (f : UN)
  /-- PREAD_COUNTS (R291): Writes cell counts to global memory. -/
  | preadCounts (f : UN)
  /-- PRESET (R292): Resets counts and/or unclamped states. -/
  | preset (f : PT)
  /-- FINS (R299): Inserts a fragment into a pixel's depth-sorted list. -/
  | fins (f : UN)
  /-- RESOLVE (R304): Composites a pixel list front to back over a background. -/
  | resolve (f : UN)
  /-- RESOLVE_CLR (R304): Composites and then clears a pixel list. -/
  | resolveClr (f : UN)
  /-- LCLEAR (R304): Empties a pixel list, freeing its nodes. -/
  | lclear (f : UN)
  /-- RAST (R306): Rasterises a triangle into per-lane coverage and barycentrics. -/
  | rast (f : UN)
  /-- QPUSH (R310): Blocking push of a 64-byte entry to a ring queue. -/
  | qpush (f : UA)
  /-- QPUSH_TRY (R310): Non-blocking push reporting success. -/
  | qpushTry (f : UN)
  /-- QPOP (R310): Blocking pop of a ring entry into scratchpad. -/
  | qpop (f : UA)
  /-- QPOP_TRY (R310): Non-blocking pop reporting success. -/
  | qpopTry (f : UN)
  /-- CFLUSH (R370): Writes back and removes every cached copy of a line. -/
  | cflush (f : SA)
  /-- CWB (R370): Writes back every cached copy of a line. -/
  | cwb (f : SA)
  /-- RDPR (R336): Reads a privileged register. -/
  | rdpr (f : PR)
  /-- WRPR (R336): Writes a privileged register. -/
  | wrpr (f : PR)
  /-- TRET (R336): Returns from a supervisor trap handler to EPC. -/
  | tret (f : Hdr)
  /-- TQPOP (R336): Pops the index of the oldest trap-queue record. -/
  | tqpop (f : SA)
  /-- HALT (R326): Marks selected teams halted and parks until they settle. -/
  | halt (f : SA)
  /-- RESUME (R326): Clears the halt mark of selected teams. -/
  | resume (f : SA)
  /-- CSWAP (R328): Exchanges, drains or fills the partition cellar. -/
  | cswap (f : SA)
  /-- TLBINV (R337): Removes matching translations from every memory die's TLBs. -/
  | tlbinv (f : SA)
  /-- DBGH (R389): Debugger hold of one or every path of a team. -/
  | dbgh (f : SA)
  /-- DBGR (R389): Debugger release of a held path. -/
  | dbgr (f : SA)
  /-- WDOG (R334): Restarts the supervisor liveness check. -/
  | wdog (f : Hdr)
  /-- HINT (R356): Scheduling hint affecting timing only. -/
  | hint (f : SA)
  /-- CATW (R336): Writes a software record to the catalogue. -/
  | catw (f : SA)
  /-- LONG_RESULT_RETURN (R53): A long operation's result arrives in its destination register. -/
  | longResultReturn (tk : Nat) (k : Nat) (lane : Option Nat)
  /-- ASYNC_COMPLETION (R56): An asynchronous operation completes and lowers its path counter in issue order. -/
  | asyncCompletion (tk : Nat) (apath : Nat)
  /-- POWER_TOKEN_GRANT (R348): A waiting token request is granted in request order. -/
  | powerTokenGrant (pnum : Nat)
  /-- FAULT_REPORT_ARRIVAL (R178): A replayable fault report reaches the core and the path enters the faulted state. -/
  | faultReportArrival (tk : Nat) (k : Nat)
  /-- FAULT_BATCH_DELIVERY (R372): The fault batch is delivered on its timer, count or hint. -/
  | faultBatchDelivery (pnum : Nat)
  /-- SUPERVISOR_ENGINE_FAULT (R398): A fault of a supervisor engine command is taken later as a supervisor trap. -/
  | supervisorEngineFault (cmd : Nat)
  /-- BREAKPOINT_STOP (R388): A path chosen to issue at an enabled PC breakpoint becomes held. -/
  | breakpointStop (tk : Nat)
  /-- WAITC_REREAD (R193): A woken team re-reads with acquire and continues or re-registers. -/
  | waitcReread (tk : Nat)
  /-- COHORT_SWAP_OUT (R41): A cohort whose teams all wait by waitc is swapped to the cellar. -/
  | cohortSwapOut (cid : Nat)
  /-- COHORT_SWAP_IN (R41): A wake restores a swapped-out cohort. -/
  | cohortSwapIn (cid : Nat)
  /-- COHORT_DRAIN_COMPLETE (R329): A swapped cohort's drain to the swap area completes, freeing its shadow. -/
  | cohortDrainComplete (cid : Nat)
  /-- FETCH_MAILBOX_WRITE (R37): A FETCH hand-over writes the mailbox fields, then FLAG with release. -/
  | fetchMailboxWrite (k : Nat)
  /-- COPY_COMMAND_COMPLETE (R199): The copy engine finishes a command and lowers CP. -/
  | copyCommandComplete (cmd : Nat)
  /-- COPY_FAULT_STOP (R204): A translation fault stops a copy at its progress point. -/
  | copyFaultStop (cmd : Nat)
  /-- RDMA_ACKNOWLEDGEMENT (R201): The acknowledgement of a send's last packet completes the command. -/
  | rdmaAcknowledgement (cmd : Nat)
  /-- RDMA_RETRY (R414): An unacknowledged packet is retried. -/
  | rdmaRetry (cmd : Nat)
  /-- NETWORK_TRANSFER_FAILURE (R414): Retries run out, a NAK arrives or the link drops; the send ends with subcode 7. -/
  | networkTransferFailure (cmd : Nat)
  /-- MMA_STEP_COMPLETE (R238): An engine finishes an mma step, ORs flags, lowers MX and returns its token. -/
  | mmaStepComplete (cmd : Nat)
  /-- MMA_STEP_FAULT_STOP (R240): A scale-read fault stops a step at its block point. -/
  | mmaStepFaultStop (cmd : Nat)
  /-- ACCUMULATOR_COMMAND_COMPLETE (R243): An accumulator command takes effect on the engine. -/
  | accumulatorCommandComplete (cmd : Nat)
  /-- ACCUMULATOR_FAULT_STOP (R244): A global image fault stops an accumulator command at its row point. -/
  | accumulatorFaultStop (cmd : Nat)
  /-- TILE_TASK_START (R247): The task scheduler starts a startable queued task. -/
  | tileTaskStart (cmd : Nat)
  /-- TILE_TASK_COMPLETE (R247): A tile task completes and MX is lowered. -/
  | tileTaskComplete (cmd : Nat)
  /-- CURATOR_LANE_RETRY (R267): A Curator operation retries after meeting BUSY. -/
  | curatorLaneRetry (tk : Nat) (k : Nat)
  /-- HALO_COMMAND_COMPLETE (R272): A halo command finishes its copies and arrives at its barrier. -/
  | haloCommandComplete (cmd : Nat)
  /-- HALO_FAULT_STOP (R274): A fault stops a halo command at an entry. -/
  | haloFaultStop (cmd : Nat)
  /-- PEURI_COMMAND_START (R283): The array set starts the next waiting command whole. -/
  | peuriCommandStart (pnum : Nat)
  /-- PEURI_COMMAND_COMPLETE (R284): A Peuri command finishes and PA is lowered. -/
  | peuriCommandComplete (pnum : Nat)
  /-- PEURI_LOAD_FAULT (R287): A translation fault stops a model load. -/
  | peuriLoadFault (pnum : Nat)
  /-- RING_COMMAND_PERFORM (R310): A waiting ring command is performed once room or an entry appears. -/
  | ringCommandPerform (cmd : Nat)
  /-- MIGRATION_MOVE_COMPLETE (R376): A page move finishes and held accesses proceed. -/
  | migrationMoveComplete (pnum : Nat)
  /-- MOVE_RECORD_EXPIRY (R377): A move record expires after 10 ms and NC is cleared. -/
  | moveRecordExpiry (k : Nat)
  /-- ICACHE_FILL (R350): An instruction-cache line fill returns. -/
  | icacheFill (k : Nat)
  /-- HALT_SETTLE (R326): The halting path resumes once every named team meets R325. -/
  | haltSettle (pnum : Nat)
  /-- CELLAR_EXCHANGE_COMPLETE (R328): A context exchange finishes and the issuing path resumes. -/
  | cellarExchangeComplete (pnum : Nat)
  /-- CELLAR_DRAIN_COMPLETE (R328): A background cellar drain finishes. -/
  | cellarDrainComplete (pnum : Nat)
  /-- CELLAR_FILL_COMPLETE (R328): A background cellar fill finishes or is rejected. -/
  | cellarFillComplete (pnum : Nat)
  /-- TLBINV_COMPLETE (R337): All dies have removed the entries and the path resumes. -/
  | tlbinvComplete (pnum : Nat)
  /-- CACHE_MAINTENANCE_COMPLETE (R370): cflush or cwb writes are performed in HBM and the path resumes. -/
  | cacheMaintenanceComplete (tk : Nat) (path : Nat)
  /-- FENCE_COMPLETE (R189): Earlier accesses are performed at scope and the fenced path resumes. -/
  | fenceComplete (tk : Nat) (path : Nat)
  /-- LAUNCH_BLOCK_READ (R196): The peer command processor reads the child block and the path resumes. -/
  | launchBlockRead (tk : Nat) (path : Nat)
  /-- WATCHDOG_EXPIRY (R333): A team's watchdog count reaches WDLIM; its cohort halts with cause 0x1B. -/
  | watchdogExpiry (tk : Nat)
  /-- FAULT_STALL_EXPIRY (R333): The fault-stall count reaches FSLIM; cohort halts with cause 0x1C. -/
  | faultStallExpiry (tk : Nat)
  /-- SUPERVISOR_WATCHDOG_EXPIRY (R334): No wdog for SVLIM units alerts the host. -/
  | supervisorWatchdogExpiry (pnum : Nat)
  /-- STORAGE_UNCORRECTABLE_ERROR (R335): An uncorrectable error ends the cohort and relaunches it or ends the grid. -/
  | storageUncorrectableError (tk : Nat) (addr : Dword)
  /-- HBM_UNCORRECTABLE_ERROR (R421): An uncorrectable HBM error sets HBMERR and ALERT.HBMUE. -/
  | hbmUncorrectableError (pa : Nat) (reader : Option (Nat × Dword))
  /-- COHORT_CLAIM (R34): A peer command processor claims a cohort index from TICKET. -/
  | cohortClaim (pnum : Nat) (die : Nat)
  /-- COHORT_PLACEMENT (R345): The processor tries to place its head cohort on an event. -/
  | cohortPlacement (pnum : Nat) (die : Nat)
  /-- TEAM_RETIRE (R48): A team with an empty path table retires once its accesses complete. -/
  | teamRetire (tk : Nat)
  /-- GRID_RETIRE (R29): A grid retires: error record then completion-counter release increment. -/
  | gridRetire (gid : Nat)
  /-- GEND (R383): Ends a grid and its descendants with an error record. -/
  | gend (pnum : Nat) (val : Word)
  /-- PRES_CONTINUE (R383): Continues a user-trapped path at PC+4. -/
  | presContinue (pnum : Nat) (val : Word)
  /-- PRES_PERFORM_HELD (R386): Performs watchpoint-held lanes from replay state. -/
  | presPerformHeld (pnum : Nat) (val : Word)
  /-- REPLAY_ASID (R374): Resumes replayable-fault stops of one ASID. -/
  | replayAsid (pnum : Nat) (asid : Nat)
  /-- REPLAY_ALL (R374): Resumes replayable-fault stops of every ASID. -/
  | replayAll (pnum : Nat)
  /-- REGINV_ASID (R362): Removes region-cache entries of one ASID. -/
  | reginvAsid (pnum : Nat) (asid : Nat)
  /-- REGINV_ALL (R362): Removes region-cache entries of every ASID. -/
  | reginvAll (pnum : Nat)
  /-- TRAP_QUEUE_CONFIG_WRITE (R324): A write of TQBASE or TQPTR delivers held trap records. -/
  | trapQueueConfigWrite (pnum : Nat) (reg : Nat) (val : Word)
  /-- CAUSAL_TRIAL_START (R392): Writing CXCTL.EN 1 starts a causal trial. -/
  | causalTrialStart (pnum : Nat) (val : Word)
  /-- CAUSAL_TRIAL_END (R392): Writing CXCTL.EN 0 ends a causal trial. -/
  | causalTrialEnd (pnum : Nat) (val : Word)
  /-- PROGRESS_COUNTER_CLEAR (R392): PROGSEL.CLR zeroes all progress counters. -/
  | progressCounterClear (pnum : Nat) (val : Word)
  /-- CLOCK_LOCK_REQUEST (R393): Setting CLKLOCK.REQ passes a lock request to the host. -/
  | clockLockRequest (pnum : Nat) (val : Word)
  /-- CLOCK_LOCK_RELEASE (R393): Clearing CLKLOCK.REQ releases the lock. -/
  | clockLockRelease (pnum : Nat) (val : Word)
  /-- CLOCK_LOCK_GRANT (R411): The host writes CLKREQ.GRANT to lock the partition's clocks. -/
  | clockLockGrant (pnum : Nat)
  /-- MODULE_RESET (R4): The module leaves reset with reset values. -/
  | moduleReset
  /-- HBM_TRAINING_COMPLETE (R419): HBM stacks finish training and HBMDONE is set. -/
  | hbmTrainingComplete (weak : BitVec 8) (failed : BitVec 8)
  /-- FULL_SERVICE_ENTRY (R418): BOOTCTL.FULL moves from early to full service. -/
  | fullServiceEntry
  /-- FIRMWARE_LOAD (R416): FWCTL.LOAD starts verifying the staged image. -/
  | firmwareLoad
  /-- FIRMWARE_VERIFY_COMPLETE (R416): Verification ends: refused with RESULT, or written to flash and reset. -/
  | firmwareVerifyComplete
  /-- PARTITION_ENABLE (R318): Setting ENABLE starts a partition and places its supervisor. -/
  | partitionEnable (pnum : Nat)
  /-- PARTITION_RESET (R318): Writing RESET ends every team and restarts the partition. -/
  | partitionReset (pnum : Nat)
  /-- PARTITION_DISABLE (R318): Clearing ENABLE ends every team and frees resources. -/
  | partitionDisable (pnum : Nat)
  /-- QUEUE_DOORBELL (R405): A QTAIL write releases host writes and publishes entries. -/
  | queueDoorbell (pnum : Nat) (k : Nat) (val : Word)
  /-- QUEUE_ENABLE (R340): Setting QCTL.ENABLE starts reading queue entries. -/
  | queueEnable (pnum : Nat) (k : Nat) (val : Word)
  /-- QUEUE_DISABLE (R340): Clearing QCTL.ENABLE stops the queue after the current entry. -/
  | queueDisable (pnum : Nat) (k : Nat) (val : Word)
  /-- QUEUE_LAUNCH (R341): A launch entry starts a grid. -/
  | queueLaunch (pnum : Nat) (k : Nat)
  /-- QUEUE_WAIT (R341): A wait entry acquire-reads a counter against a bound. -/
  | queueWait (pnum : Nat) (k : Nat)
  /-- QUEUE_WAIT_REREAD (R341): A woken queue wait re-reads its counter. -/
  | queueWaitReread (pnum : Nat) (k : Nat)
  /-- QUEUE_SIGNAL (R341): A signal entry writes a counter with system release. -/
  | queueSignal (pnum : Nat) (k : Nat)
  /-- QUEUE_NOP (R341): A no-op entry completes at once. -/
  | queueNop (pnum : Nat) (k : Nat)
  /-- ALLOT_WRITE (R404): Host sets a partition's token allotment, clipped to the pool. -/
  | allotWrite (pnum : Nat) (val : Word)
  /-- MIGRATION_PUSH_REQUEST (R375): A MIGCMD write starts a push of a page. -/
  | migrationPushRequest (pnum : Nat) (val : Word)
  /-- PWRCAP_WRITE (R407): A power limit write resizes the token pool. -/
  | pwrcapWrite (val : Word)
  /-- PSCMD_WRITE (R408): Sets a pending frequency command for a die. -/
  | pscmdWrite (die : Nat) (val : Word)
  /-- LINKCMD_WRITE (R408): Sets a pending width command for a link. -/
  | linkcmdWrite (link : Nat) (val : Word)
  /-- SEQUENCER_LINK_APPLY (R408): The sequencer starts a pending link command. -/
  | sequencerLinkApply
  /-- SEQUENCER_FREQUENCY_APPLY (R408): The sequencer starts a pending frequency command. -/
  | sequencerFrequencyApply
  /-- LINK_RETRAIN_COMPLETE (R408): A link finishes retraining and traffic resumes. -/
  | linkRetrainComplete
  /-- CLOCK_CHANGE_COMPLETE (R408): A die's clock resumes at the new point. -/
  | clockChangeComplete
  /-- THERMAL_ALERT (R409): A die sensor reaches alert temperature, setting ALERT.THERM. -/
  | thermalAlert (die : Nat)
  /-- THERMAL_EXAMINATION (R409): 1 ms after the alert, a still-set THERM enters fallback. -/
  | thermalExamination
  /-- FALLBACK_EXIT (R410): FBCTL.EXIT leaves fallback and reapplies last commands. -/
  | fallbackExit (val : Word)
  /-- PORT_LINK_CHANGE (R412): A network port goes up or down. -/
  | portLinkChange (port : Nat) (up : Bool)
  /-- INBOUND_RDMA_WRITE (R415): An inbound RDMA WRITE is accepted to HBM or NAKed. -/
  | inboundRdmaWrite (port : Nat) (lqpn : Nat) (key : Word) (pa : Nat) (bytes : List Byte)
  /-- HOST_MEMORY_ACCESS (R400): A host or CXL.mem access reaches a device physical address. -/
  | hostMemoryAccess (off : Nat) (len : Nat) (store : Option (List Byte))
  /-- SPDM_GET_VERSION (R422): Answers an SPDM GET_VERSION request. -/
  | spdmGetVersion
  /-- SPDM_GET_CAPABILITIES (R422): Answers an SPDM GET_CAPABILITIES request. -/
  | spdmGetCapabilities
  /-- SPDM_NEGOTIATE_ALGORITHMS (R422): Answers an SPDM NEGOTIATE_ALGORITHMS request. -/
  | spdmNegotiateAlgorithms (req : List Byte)
  /-- SPDM_GET_DIGESTS (R422): Answers an SPDM GET_DIGESTS request. -/
  | spdmGetDigests
  /-- SPDM_GET_CERTIFICATE (R422): Answers an SPDM GET_CERTIFICATE request. -/
  | spdmGetCertificate (slot : Nat) (off : Nat) (len : Nat)
  /-- SPDM_CHALLENGE (R422): Answers an SPDM CHALLENGE request. -/
  | spdmChallenge (slot : Nat) (nonce : List Byte)
  /-- SPDM_GET_MEASUREMENTS (R422): Answers an SPDM GET_MEASUREMENTS request. -/
  | spdmGetMeasurements (index : Nat) (nonce : List Byte)
  /-- REGISTER_WRITE (R3): A write to a register without behaviour of its own. -/
  | registerWrite (off : Nat) (val : Word)
  /-- RETIRED_WRITE (R420): A host write of RETIRED or RETTHR that leaves RETIRED above RETTHR sets HEALTH.REPLACE and ALERT.REPLACE. -/
  | retiredWrite (off : Nat) (val : Word)
  /-- HOST_LINK_TRAINING (R399): The PCIe 6.0 host link trains, or trains down to a lower width or rate, changing only timing. -/
  | hostLinkTraining (width : Nat) (rate : Nat)
  deriving DecidableEq, Repr

end Sys2Proof
end

