-- ==== Sys2Proof/Machine/State.lean ====
section
/-!
DEFINITION. The machine's state as plain data: everything the spec gives the JK-GN4000 (INVENTORY.md lists it with the
rules), the reasons a step can stop, and the state after reset. Keyed collections are lists of (key, value) pairs with
rising keys; where a collection has a default value, an unlisted key holds it and no listed entry equals it.
-/
namespace Sys2Proof.Machine

/-- Why a run stops. -/
inductive Fault where
  /-- Raised by the meaning of an encoded instruction when no path is issuing, so that there is no team for it to act
  on. No hardware state corresponds to it: a step always names the issuing path first. Safe. -/
  | noIssuer
  deriving DecidableEq, Repr

/-- Why an instruction has no meaning. -/
inductive Refusal where
  /-- Raised by an arm of exec whose instruction is not modelled. Safe. -/
  | notModelled (mnemonic : String)
  deriving DecidableEq, Repr

/-! ### Paths, results and faults of a team -/

/-- What a path parked outside the states of 02 R44 waits for (log 12). -/
inductive PathWait where
  /-- a fence with its scope and ordering codes (07 R189); `upTo` is what Replay.issued of an earlier access is below -/
  | fence (scope ord upTo : Nat)
  /-- the writes of cflush (removing the line) or cwb, after the team's accesses below `upTo` (17 R370) -/
  | maintenance (va : Dword) (remove : Bool) (upTo : Nat)
  /-- the read of a child's launch parameter block, with the elected lane, after the team's accesses below `upTo`
  (07 R196) -/
  | launch (lpb : Dword) (lane upTo : Nat)
  /-- the teams that halt names (15 R326) -/
  | halt (sel : Word)
  /-- the exchange of cswap (15 R328) -/
  | exchange
  /-- the removal of the TLB entries that a selector names (15 R337) -/
  | tlbinv (sel : Dword)
  deriving DecidableEq, Repr

/-- The state of a path (02 R44); a debugger's hold stands beside it (18 R389). -/
inductive PathState where
  | ready
  | parked
  | counting (apath bound : Nat)
  | faulted
  | waiting (w : PathWait)
  deriving DecidableEq, Repr

/-- A trap as its record and the error record need it (18 R381, 02 R33). -/
structure Trap where
  cause : Nat
  sub : Nat
  pc : Dword
  addr : Dword
  /-- path index, 0xFF when no path is concerned -/
  path : Nat
  mask : Mask
  /-- bit 0 precise, 1 resumable, 2 handled, 3 team-level, 4 uniform (18 R381) -/
  fl : BitVec 8
  code : Word
  /-- %clock when it was raised -/
  time : Dword
  /-- order in which the traps of the module were raised -/
  seq : Nat
  deriving DecidableEq, Repr

/-- What an error record says of the error that ends a grid (02 R33). -/
structure ErrInfo where
  cause : Nat
  cohort : Nat
  pc : Dword
  addr : Dword
  team : Nat
  lane : Nat
  deriving DecidableEq, Repr

/-- A path-table entry (02 R44, R24). -/
structure Path where
  pc : Dword
  mask : Mask
  fmt : Word
  entryFmt : Word
  st : PathState
  /-- the instruction at which it waits carries the switch marker -/
  mark : Bool
  /-- held by a debugger, or while the supervisor is in its trap handler (18 R389, 15 R321) -/
  hold : Bool
  /-- the PC breakpoints, bit n for breakpoint n, that do not stop the next issue attempt (18 R388) -/
  skipBp : BitVec 2
  /-- the standing trap (18 R382) -/
  trap : Option Trap
  deriving DecidableEq, Repr

/-- A register write of an instruction or of a returning result. -/
inductive RegWrite where
  /-- lane register reg of a lane -/
  | v (reg lane : Nat) (x : Word)
  /-- lane predicate p reg of a lane -/
  | p (reg lane : Nat) (x : Bool)
  /-- uniform register -/
  | s (reg : Nat) (x : Word)
  /-- uniform predicate -/
  | q (reg : Nat) (x : Bool)
  deriving DecidableEq, Repr

/-- A long result outstanding: the writes still to come, the operation it is counted with, and the paths that wait for
its uniform writes at a switch marker (02 R53, R54), and the flags it ORs into FST with its first return (04 R115; log 44). -/
structure LongRes where
  op : Option Nat
  owners : List Nat
  writes : List RegWrite
  flags : Word
  deriving DecidableEq, Repr

/-- An operation counted on an asynchronous path, oldest first (02 R56). -/
structure AsyncOp where
  id : Nat
  apath : Nat
  done : Bool
  deriving DecidableEq, Repr

/-- What a memory, walker or list access does in each lane, kept for replay (07 R178). -/
inductive Access where
  /-- a load of size code sz into register dst -/
  | load (sz dst : Nat)
  /-- a store of size code sz -/
  | store (sz : Nat)
  /-- an atomic: operation, ordering and scope code (07 R186), 64-bit form, destination of the old value if it returns
  one, carried FPM -/
  | atomic (op os : Nat) (wide : Bool) (dst : Option Nat) (fpm : Word)
  /-- a uniform load into register dst -/
  | loadU (wide : Bool) (dst : Nat)
  /-- the acquire read of waitc: comparison, expected value, mask -/
  | waitc (cmp : Nat) (e m : Word)
  /-- the read of a launch parameter block -/
  | launch
  /-- an instruction fetch -/
  | fetch
  /-- a walker instruction on a tree descriptor: function of 0x3C, its sub, destination quad -/
  | walker (fn sub quad : Nat) (desc : Dword)
  /-- a list operation on a target descriptor: function of 0x3E, its sub, destination quad -/
  | list (fn sub quad : Nat) (desc : Dword)
  deriving DecidableEq, Repr

/-- One lane's request: its address and the operand words it read at issue. -/
structure LaneReq where
  lane : Nat
  addr : Dword
  data : List Word
  deriving DecidableEq, Repr

/-- The unfinished lanes of one instruction that met one cause and subcode, kept in replay state (07 R178, 18 R386). -/
structure Replay where
  /-- the order of its fault among the traps of the module -/
  seq : Nat
  path : Nat
  pc : Dword
  /-- %clock when the fault was raised -/
  time : Dword
  cause : Nat
  sub : Nat
  access : Access
  lanes : List LaneReq
  op : Option Nat
  /-- the paths that a uniform or team-level access stops -/
  owners : List Nat
  /-- the paths whose later accesses follow it in team order (08 R208): the issuing one, those that have come of it by a
  split or a merge, and those that have passed a team-wide point since -/
  before : List Nat
  /-- the number of the next trap when the instruction was issued: the same for all its entries, and kept when a lane
  faults again, so that it tells which accesses of the team came earlier (08 R209) -/
  issued : Nat
  /-- its path has merged since: every later access of the merged path follows it (02 R47) -/
  merged : Bool
  /-- one access for the path rather than for each lane -/
  uniform : Bool
  /-- the report has reached the core -/
  reported : Bool
  deriving DecidableEq, Repr

/-- A wait of the whole team (02 R49). -/
inductive TeamWait where
  | none
  /-- waitc: issuing path, location, comparison, operands, lane, and whether a wake has come (07 R193) -/
  | waitc (path : Nat) (addr : Dword) (cmp : Nat) (e m : Word) (lane : Nat) (woken : Bool)
  /-- bar.c at a slot, and whether the slot has completed while the team was halted: it goes on when it resumes (07 R190,
  15 R325) -/
  | bar (path slot : Nat) (done : Bool)
  /-- regroup with the keys of the path's active lanes, read when it issued (02 R59, 05 R125, R150) -/
  | regroup (path : Nat) (keys : List (Nat × Word))
  deriving DecidableEq, Repr

/-- A team (02 R42, 15 R331). Its key is 65,536 x partition + TID. -/
structure Team where
  /-- local ASID of its grid (17 R357); the supervisor's is SVASID -/
  asid : Nat
  /-- FLAGS bit 1 of its launch (18 R386) -/
  debug : Bool
  /-- FLAGS bit 2 of its launch (05 R141) -/
  profile : Bool
  gid : Nat
  cid : Nat
  cohort : Nat
  team : Nat
  /-- 512 x die + 8 x cluster + core -/
  core : Nat
  slot : Nat
  sup : Bool
  width : Nat
  vregs : Nat
  sregs : Nat
  npaths : Nat
  acct : Nat
  scratch : Nat
  vbase : Nat
  sbase : Nat
  accEngine : Nat
  accTile : Nat
  /-- lane registers, key 1,024 x register + lane, default 0 -/
  v : List (Nat × Word)
  /-- lane predicates p0-p6, default all false -/
  p : List (Nat × Mask)
  /-- uniform registers, default 0 -/
  s : List (Nat × Word)
  q : BitVec 3
  fpm : Word
  fst : Word
  /-- scratchpad bytes, default 0 -/
  scr : List Host.Cell
  /-- tile elements, key 16,384 x tile + 128 x row + column, default 0 -/
  tiles : List (Nat × Elem)
  scaleBase0 : Dword
  scaleCtl0 : Word
  scaleBase1 : Dword
  scaleCtl1 : Word
  /-- its lines in its engine's scale cache, by VA / 128 (09 R237) -/
  scales : List (Nat × BitVec 1024)
  ops : List AsyncOp
  long : List LongRes
  replay : List Replay
  paths : List (Nat × Path)
  wait : TeamWait
  halted : Bool
  wdcnt : Nat
  fscnt : Nat
  /-- the standing traps that no path, access or command of it holds: of an expired watchdog or fault-stall count
  (15 R333), and of lanes that found a tree or a list invalid (10 R259, 12 R303) -/
  expired : List Trap
  /-- a replay was asked for while the team was halted (17 R374) -/
  replayDue : Bool
  /-- the paths whose lanes held by watchpoints PRES let go while its context was stored: they are performed when the team
  resumes (18 R383) -/
  letGo : List Nat
  /-- a power-token request stands in the partition's list -/
  tokenAsked : Bool
  /-- it holds a granted token -/
  token : Bool
  leaf : Word
  tile : Word
  klo : Word
  khi : Word
  fixup : Word
  /-- the global iterations not yet handed to it in SPLIT mode, first and one past the last (02 R38) -/
  segNext : Nat
  segLast : Nat
  /-- neither retired nor ended; the reservation outlives it (07 R175) -/
  live : Bool
  /-- ended by software or by an error, which is not a retirement (13 R313) -/
  ended : Bool
  deriving DecidableEq, Repr

/-! ### Cohorts, grids, commands -/

/-- Where a cohort's state lies (02 R41, 15 R329). -/
inductive CohortPlace where
  | resident
  | shadow
  | drained (slot : Nat)
  deriving DecidableEq, Repr

/-- A placed cohort (02 R26). -/
structure Cohort where
  gid : Nat
  idx : Nat
  die : Nat
  cluster : Nat
  span : Nat
  /-- barrier block of the first cluster (07 R191) -/
  block : Option Nat
  /-- keys of its created teams, in ascending team number -/
  teams : List Nat
  place : CohortPlace
  /-- what a write through the on-chip map added to the arrivals of a barrier slot, modulo 32, default 0 (15 R330) -/
  barSkew : List (Nat × Nat)
  /-- a drain to the swap area is running -/
  draining : Bool
  deriving DecidableEq, Repr

/-- A launch parameter block as read (02 R31), and its checks' inputs. -/
structure Lpb where
  entry : Dword
  teamw : Nat
  teams : Nat
  span : Nat
  vregs : Nat
  sregs : Nat
  acct : Nat
  flags : BitVec 8
  scratch : Nat
  fpminit : Word
  mode : Nat
  paths : Nat
  modef : List Nat
  done : Dword
  errec : Dword
  ticket : Dword
  args : Dword
  deriving DecidableEq, Repr

/-- A grid from its launch to its retirement (02 R28-R38, 18 R383). Its key is 65,536 x partition + grid number. -/
structure Grid where
  addr : Dword
  lpb : Lpb
  depth : Nat
  parent : Option Nat
  cls : Nat
  /-- local ASID -/
  asid : Nat
  n : Nat
  leafSet : List Nat
  work : Nat
  retry : Nat
  /-- the noted first error (18 R383) -/
  noted : Option ErrInfo
  errCount : Nat
  failed : Bool
  /-- an error ends it: its record is written when it retires -/
  error : Option ErrInfo
  /-- dies whose processor serves it and may still claim -/
  claiming : List Nat
  /-- dies that have invalidated their instruction caches for it (03 R89) -/
  cleared : List Nat
  /-- claimed but unplaced cohort indices, each with its die; one to be placed again joins them (15 R335) -/
  unplaced : List (Nat × Nat)
  halted : Bool
  /-- placed at least once -/
  placed : Bool
  deriving DecidableEq, Repr

/-- An engine command outstanding. `kind` is 64 x (major - 0x36) + function of the instruction that issued it, `sub`
its sub; `args` are the operands read at issue, in the order its entry lists them, and `bytes` the command block or
record read at issue. -/
structure Cmd where
  id : Nat
  tk : Nat
  op : Nat
  seq : Nat
  kind : Nat
  sub : Nat
  path : Nat
  lane : Nat
  pc : Dword
  args : List Nat
  bytes : List Byte
  fpm : Word
  fmt : Word
  /-- flags that the part performed has set (04 R115) -/
  flags : Word
  /-- progress point (07 R204, 09 R240, R244, 10 R274, 11 R291) -/
  prog : Nat
  /-- stopped by a replayable fault -/
  stop : Option Trap
  /-- a halt has broken it off on its matrix engine, which goes on from its progress point with a new token (09 R249) -/
  broken : Bool
  /-- started or performed, as far as its kind tells a start from its completion -/
  started : Bool
  /-- lanes of a Curator command still to perform -/
  lanes : List LaneReq
  /-- the number of the next trap when it was issued: the team's unfinished accesses issued below it come first
  (08 R222) -/
  upTo : Nat
  /-- a token is held for it, or asked for -/
  token : Bool
  asked : Bool
  deriving DecidableEq, Repr

/-- Who waits at a wait-on-address entry (07 R193, 16 R341). -/
inductive WaitWho where
  | team (tk : Nat)
  | queue (pnum k : Nat)
  deriving DecidableEq, Repr

/-- The location of a wait-on-address entry. -/
inductive WaitLoc where
  /-- a virtual address under a global ASID -/
  | virt (gasid : Nat) (va : Dword)
  /-- an offset in a team's scratchpad -/
  | scratch (tk off : Nat)
  deriving DecidableEq, Repr

/-- A wait-on-address entry, oldest first in its list (07 R194). -/
structure Waiter where
  who : WaitWho
  loc : WaitLoc
  /-- the memory die, or the core, whose table holds it -/
  home : Nat
  cmp : Nat
  e : Word
  m : Word
  deriving DecidableEq, Repr

/-- A line in its home cache: its 128 bytes, byte 0 in the low bits, which bytes are dirty, which hold data with an
uncorrectable error, and the memory die that the request which brought it in carried (17 R362, R367; 20 R421). -/
structure Line where
  data : BitVec 1024
  dirty : BitVec 128
  bad : BitVec 128
  home : Nat
  deriving DecidableEq, Repr

/-- A data cache nearer to the cores than the home caches for which the spec gives no rule of replacement (01 R12, R15). -/
inductive Cache where
  /-- the L1 of cluster c, counted 64 x die + cluster -/
  | l1 (c : Nat)
  /-- the gateway cache of compute die d at its port toward compute die e -/
  | gateway (d e : Nat)
  deriving DecidableEq, Repr

/-- A line in the cache of a compute die: its way of the 24 of its set, and the class of the request that brought it in
(16 R352, R353). -/
structure DieLine where
  die : Nat
  key : Nat
  way : Nat
  cls : Nat
  deriving DecidableEq, Repr

/-- The die caches (16 R351-R353): their lines, the least recently used first, and for each slice, partition and class of
requests %clock at its last request. -/
structure DieCaches where
  lines : List DieLine
  /-- key 32 x (16 x die + slice) + 4 x partition + class -/
  seen : List (Nat × Nat)
  deriving DecidableEq, Repr

/-- An outstanding instruction-cache fill (16 R350): the path that asked, and the line. -/
structure Fill where
  tk : Nat
  path : Nat
  core : Nat
  gasid : Nat
  va : Dword
  /-- the second halfword's line, for subcode 1 of R88 -/
  second : Bool
  /-- asked for because fetch entered the second half of the line before it, not by a miss (16 R350) -/
  ahead : Bool
  deriving DecidableEq, Repr

/-- An instruction line of a page that no cache holds, as it has come back for one fetch of a path (17 R369). -/
structure Reply where
  tk : Nat
  path : Nat
  /-- the line's key -/
  key : Nat
  data : BitVec 1024
  deriving DecidableEq, Repr

/-- An entry of a walker's pod cache (10 R260): the cluster, the global ASID, the descriptor address and the leaf's
origin as its root-to-leaf key, with the leaf's handle. -/
structure Pod where
  cluster : Nat
  gasid : Nat
  desc : Nat
  /-- X, Y and Z of the leaf in units of 8 voxels, 29 bits each -/
  origin : Nat
  handle : Nat
  deriving DecidableEq, Repr

/-- A leaf that a vdel has unlinked while the command is outstanding: an access that is not ordered with the vdel may
still reach it (10 R270). -/
structure Ghost where
  tk : Nat
  /-- the vdel's operation number -/
  op : Nat
  gasid : Nat
  desc : Nat
  origin : Nat
  handle : Nat
  /-- the team and operation of the insertion that has taken its slot since -/
  reused : Option (Nat × Nat)
  deriving DecidableEq, Repr

/-- An RDMA WRITE message put on the network (20 R413, R414). -/
structure Message where
  port : Nat
  /-- queue-pair handle -/
  qp : Nat
  /-- remote and local QP numbers, and the first packet sequence number of the queue pair -/
  rqpn : Nat
  lqpn : Nat
  spsn : Nat
  rgid : List Byte
  rmac : List Byte
  sport : Nat
  /-- MTU code: packets of 1,024, 2,048 or 4,096 bytes, 3 reserved -/
  mtu : Nat
  rkey : Word
  /-- remote address -/
  addr : Dword
  bytes : List Byte
  /-- its data was read where an uncorrectable error stands (20 R421) -/
  poisoned : Bool
  deriving DecidableEq, Repr

/-- An answer to a request from outside: an error, or bytes that may be poisoned (20 R400, R415, R421, R422). -/
structure Answer where
  error : Bool
  poisoned : Bool
  bytes : List Byte
  deriving DecidableEq, Repr

/-- A fault report of a batch (17 R372). -/
structure Report where
  asid : Nat
  page : Nat
  cause : Nat
  sub : Nat
  acc : BitVec 8
  tid : Nat
  deriving DecidableEq, Repr

/-- A move record of a memory die (17 R377). -/
structure MoveRec where
  die : Nat
  gasid : Nat
  page : Nat
  n : Nat
  t0 : Nat
  deriving DecidableEq, Repr

/-- One cell of a loaded Peuri model (11 R276, R280). -/
structure PCell where
  bias : Int
  colour : Nat
  couplings : List (Nat × Int)
  deriving DecidableEq, Repr

/-- The Peuri array set of a partition (11 R276-R283). -/
structure PeuriSet where
  /-- the loaded model's cells in index order; empty when no model is loaded -/
  cells : List PCell
  gang : Nat
  scale : Word
  beta : Word
  colours : Nat
  /-- state bits, clamp flags and counts by cell, default false, false, 0 -/
  b : List (Nat × Bool)
  clamp : List (Nat × Bool)
  count : List (Nat × Nat)
  spin : Bool
  replaySrc : Bool
  /-- commands at the set, oldest first; the head is being performed once started -/
  queue : List Nat
  deriving DecidableEq, Repr

/-- A ring queue (12 R309): counts, slots, and the commands waiting to push and to pop. -/
structure Ring where
  push : Word
  pop : Word
  slots : List (Nat × List Byte)
  pushers : List Nat
  poppers : List Nat
  deriving DecidableEq, Repr

/-- A peer command processor's state for one partition (16 R343-R345). -/
structure Proc where
  ptr : Nat
  /-- grids in the order they reached it -/
  pending : List Nat
  deriving DecidableEq, Repr

/-- A partition context as cswap exchanges it (15 R327). -/
structure Context where
  teams : List (Nat × Team)
  cohorts : List (Nat × Cohort)
  cmds : List Cmd
  waits : List Waiter
  /-- mailbox writes of hand-overs that its teams have taken (02 R37) -/
  mails : List (Nat × List Byte)
  regs : List (Nat × Word)
  deriving DecidableEq, Repr

/-- A host command queue (16 R340, R341). -/
structure Queue where
  base : Dword
  sizelog : BitVec 5
  enable : Bool
  err : BitVec 8
  errIdx : BitVec 24
  tail : Word
  head : Word
  /-- the wait entry in progress: whether it has been woken, its counter and its bound -/
  waiting : Option (Bool × Dword × Nat)
  deriving DecidableEq, Repr

/-- A partition: its map entry, privileged registers and the state kept for it (15 R317, R322; 20 R404). -/
structure Part where
  halves : BitVec 8
  arrays : BitVec 4
  ringbase : BitVec 16
  rings : BitVec 16
  enable : Bool
  svlpb : Dword
  /-- a halt of scope 2 stands (15 R326) -/
  haltAll : Bool
  /-- privileged registers by number, default 0 -/
  regs : List (Nat × Word)
  /-- progress counters, default 0 (18 R392) -/
  progress : List (Nat × Word)
  cxIn : Word
  cxOut : Word
  /-- trap records held back, oldest first (15 R324) -/
  heldRecs : List (List Byte)
  /-- the oldest held record met a fault: held until TQBASE or TQPTR is written -/
  heldStuck : Bool
  batch : List Report
  batchAt : Nat
  /-- clock of the supervisor's last wdog (15 R334) -/
  wdogAt : Nat
  /-- SVSTAT.FAILED -/
  svFailed : Bool
  svReason : BitVec 3
  svCause : BitVec 8
  svPc : Dword
  /-- engine traps of the supervisor waiting to be taken, by command (19 R398) -/
  svPending : List (Nat × Trap)
  tokenHeld : Nat
  /-- token requests in order: a team's, or a command's -/
  tokenReqs : List (Bool × Nat)
  cellar : Option Context
  /-- cellar operation under way: 1 drain, 2 fill -/
  cellarOp : Nat
  /-- CELBASE when that operation began -/
  celBase : Dword
  procs : List (Nat × Proc)
  queues : List (Nat × Queue)
  peuri : PeuriSet
  allot : BitVec 10
  migVa : Dword
  migDst : Dword
  migStat : BitVec 3
  migAsid : BitVec 13
  /-- the push under way: its page, its destination leaf entry and its local ASID -/
  migRun : Option (Dword × Dword × Nat)
  /-- the operating point that a grant of the clock lock takes: POINT, but for one written while the lock holds
  (18 R393) -/
  lockPoint : BitVec 4
  deriving DecidableEq, Repr

/-- A network port (20 R412). -/
structure Port where
  up : Bool
  qpbase : Dword
  qpcnt : BitVec 17
  deriving DecidableEq, Repr

/-- The module registers and the power state of the host side (20 R403, R407-R411). -/
structure HostRegs where
  stage : BitVec 4
  hbmdone : Bool
  weak : BitVec 8
  alert : BitVec 8
  alerten : BitVec 8
  replace : Bool
  retired : Word
  retthr : Word
  hbmerr : Dword
  fwResult : BitVec 2
  fwBusy : Bool
  pwrcap : BitVec 12
  fallback : Bool
  fbCap : BitVec 16
  fbPoint : BitVec 4
  /-- last value written to each PSCMD (default 0) and LINKCMD (default 0) -/
  pscmd : List (Nat × Nat)
  linkcmd : List (Nat × Nat)
  /-- operating points and widths in force, default 0 -/
  points : List (Nat × Nat)
  widths : List (Nat × Nat)
  /-- pending sequencer commands, oldest first: link command?, number, value -/
  pending : List (Bool × Nat × Nat)
  running : Option (Bool × Nat × Nat)
  /-- clock at which THERM was set and is to be examined -/
  thermAt : Option Nat
  linkWidth : Nat
  linkRate : Nat
  deriving DecidableEq, Repr

/-- Which agent moves next, or an input from outside (log 3). -/
inductive Move where
  /-- an event of the opcode table -/
  | event (i : Instr)
  /-- an issue slot of a core, for the team that its rotation chooses (16 R349) -/
  | issue (core : Nat)
  /-- a cached line leaves the caches (17 R367) -/
  | evict (key : Nat)
  /-- an L1 or a gateway cache takes a copy of a line, or gives one up (01 R12) -/
  | keep (c : Cache) (key : Nat)
  | uncopy (c : Cache) (key : Nat)
  /-- an instruction-cache line, a TLB entry or a region-cache entry leaves its cache -/
  | dropI (key : Nat)
  | dropT (key : Nat)
  | dropR (key : Nat)
  /-- the host writes its own memory, or a CXL peer its memory (17 R369, 20 R405) -/
  | hostWrite (addr : Nat) (bytes : List Byte)
  | peerWrite (addr : Nat) (bytes : List Byte)
  /-- time passes -/
  | idle
  deriving DecidableEq, Repr

/-- The machine. -/
structure State where
  /-- the model's own: moves to make, oldest first (log 3) -/
  agenda : List Move
  turn : Bool
  /-- the model's own: the path that is issuing, as team key and path index -/
  cur : Option (Nat × Nat)
  /-- the model's own: counter of free choices (log 4) -/
  fresh : Nat
  /-- the model's own: steps taken (log 5) -/
  steps : Nat
  /-- the model's own: order numbers (log 14) -/
  nextSeq : Nat
  nextTrap : Nat
  nextCid : Nat
  nextCmd : Nat
  /-- the time since the module left reset, in periods of 1.05 GHz (00 R2) -/
  clock : Nat
  /-- the arithmetic clock of each compute die since then, in twenty-firsts of a period, default 0 (02 R43, 20 R406) -/
  phase : List (Nat × Nat)
  ticket : Nat
  teams : List (Nat × Team)
  cohorts : List (Nat × Cohort)
  grids : List (Nat × Grid)
  cmds : List Cmd
  waits : List Waiter
  fills : List Fill
  replies : List Reply
  /-- FETCH mailbox writes under way: team key and the 16 bytes (02 R37) -/
  mails : List (Nat × List Byte)
  parts : List (Nat × Part)
  rings : List (Nat × Ring)
  /-- device memory by physical address, host memory and CXL peer memory (17 R359, R364) -/
  hbm : List Host.Cell
  hostMem : List Host.Cell
  peerMem : List Host.Cell
  /-- the lines in the home caches, key 2^45 x global ASID + VA[51:7], and the copies of them in L1s and gateway caches,
  oldest first, and in die caches (log 8) -/
  lines : List (Nat × Line)
  copies : List (Cache × Nat)
  dieCaches : DieCaches
  /-- instruction-cache lines, key 2^61 x core + the line's key -/
  icache : List (Nat × BitVec 1024)
  /-- the walkers' pod caches, oldest entry first, and the leaves of outstanding deletions (10 R260, R270) -/
  pods : List Pod
  ghosts : List Ghost
  /-- TLB entries, key 2^52 x die + 2^36 x global ASID + VA[51:16]: the leaf entry and its level -/
  tlb : List (Nat × Dword × Nat)
  /-- region-cache entries, key 2^38 x compute die + 2^22 x global ASID + VA[51:30] -/
  region : List (Nat × Byte)
  moves : List MoveRec
  /-- contexts that drains on this module have written to memory, by the number of their image (15 R328; log 9) -/
  images : List (Nat × Context)
  /-- the numbers of the images whose context no fill has brought back -/
  away : List Nat
  /-- physical addresses of device memory whose data has an uncorrectable error, and the teams that have read such data,
  each with the virtual address, until their cohorts are ended for it (20 R421) -/
  poison : List Nat
  badReads : List (Nat × Dword)
  host : HostRegs
  ports : List (Nat × Port)
  /-- MSI-X table words by offset in BAR0, default 0 -/
  msix : List (Nat × Word)
  /-- interrupt vectors fired, oldest first -/
  irqs : List Nat
  staging : List Host.Cell
  flash : List Host.Cell
  /-- network sends: commands with packets handed to a port and not all acknowledged, each with the retries made -/
  sends : List (Nat × Nat)
  /-- RDMA WRITE messages put on the network, oldest first -/
  wire : List Message
  /-- answers to the outside, oldest first: SPDM messages, completions of memory reads, acknowledgements -/
  answers : List Answer
  /-- SPDM algorithms have been negotiated -/
  spdm : Bool
  /-- the slot of each core that issued last (16 R349), default 15 -/
  lastSlot : List (Nat × Nat)
  deriving DecidableEq, Repr

/-- An array set with no model, BIN and PHYSICAL (11 R282). -/
def PeuriSet.empty : PeuriSet :=
  { cells := [], gang := 0, scale := 0, beta := 0, colours := 0, b := [], clamp := [], count := [], spin := false,
    replaySrc := false, queue := [] }

/-- A ring with no entry (12 R309). -/
def Ring.empty : Ring := { push := 0, pop := 0, slots := [], pushers := [], poppers := [] }

/-- A command queue after reset (16 R340). -/
def Queue.reset : Queue :=
  { base := 0, sizelog := 0, enable := false, err := 0, errIdx := 0, tail := 0, head := 0, waiting := none }

/-- The privileged registers whose reset value is not zero (15 R323, 16 R347, R355, 17 R371, 18 R390). -/
def privReset : List (Nat × Word) :=
  [(0x0B, 0x04000000), (0x29, 0x01000834), (0x40, 512), (0x43, 0x40404040), (0x44, 64), (0x76, 0xFFFF0800)]

/-- A partition after module reset (15 R317). -/
def Part.reset : Part :=
  { halves := 0, arrays := 0, ringbase := 0, rings := 0, enable := false, svlpb := 0, haltAll := false, regs := privReset,
    progress := [], cxIn := 0, cxOut := 0, heldRecs := [], heldStuck := false, batch := [], batchAt := 0, wdogAt := 0,
    svFailed := false, svReason := 0, svCause := 0, svPc := 0, svPending := [], tokenHeld := 0, tokenReqs := [], cellar := none,
    cellarOp := 0, celBase := 0, procs := [], queues := [], peuri := PeuriSet.empty, allot := 0, migVa := 0,
    migDst := 0, migStat := 0, migAsid := 0, migRun := none, lockPoint := 0 }

/-- A port after reset (20 R412). -/
def Port.reset : Port := { up := false, qpbase := 0, qpcnt := 0 }

/-- The host's registers after reset (20 R403, R407); the operating points are those of early service (log 9). -/
def HostRegs.reset : HostRegs :=
  { stage := 0, hbmdone := false, weak := 0, alert := 0, alerten := 0xFF, replace := false, retired := 0,
    retthr := 4096, hbmerr := 0, fwResult := 0, fwBusy := false, pwrcap := 2900, fallback := false, fbCap := 1200,
    fbPoint := 5, pscmd := [(0, 4), (1, 4), (2, 4), (3, 4)], linkcmd := [], points := [(0, 4), (1, 4), (2, 4), (3, 4)],
    widths := [], pending := [], running := none, thermAt := none, linkWidth := 16, linkRate := 6 }

/-- The MSI-X table after reset: the vector-control word of each of the 9 entries has its mask bit set, as PCI Express
resets it (20 R402; log 16). -/
def msixReset : List (Nat × Word) :=
  [(0x30000C, 1), (0x30001C, 1), (0x30002C, 1), (0x30003C, 1), (0x30004C, 1), (0x30005C, 1), (0x30006C, 1),
    (0x30007C, 1), (0x30008C, 1)]

/-- The machine right after reset: STAGE 0, no partition enabled, memory with nothing listed (20 R402-R418). -/
def State.reset : State :=
  { agenda := [], turn := false, cur := none, fresh := 0, steps := 0, nextSeq := 0, nextTrap := 0, nextCid := 0,
    nextCmd := 0, clock := 0, phase := [], ticket := 0, teams := [], cohorts := [], grids := [], cmds := [], waits := [],
    fills := [], replies := [], mails := [], parts := [], rings := [], hbm := [], hostMem := [], peerMem := [],
    lines := [], copies := [], dieCaches := { lines := [], seen := [] },
    icache := [], pods := [], ghosts := [], tlb := [], region := [], moves := [], images := [], away := [], poison := [], badReads := [],
    host := HostRegs.reset, ports := [], msix := msixReset, irqs := [], staging := [], flash := [], sends := [], wire := [], answers := [], spdm := false, lastSlot := [] }

end Sys2Proof.Machine
end

