-- ==== Sys2Proof/Machine/Memory.lean ====
section
/-!
DEFINITION. Memory as chapters 07, 08 and 17 give it: physical memory, region tables, page tables, TLBs, lines cached
by virtual address, migration, and the wakes that writes send. Every access is performed whole at one step (log 2).
A line has one value for the whole device, which its home cache holds; which nearer caches hold it too is kept beside it
(log 8).
-/
namespace Sys2Proof.Machine

/-! ### Free choices (00 R8) -/

/-- The next free choice, below n, and the state with its counter advanced (log 4). -/
def pick (s : State) (n : Nat) : State × Nat :=
  ({ s with fresh := s.fresh + 1 }, if n ≤ 1 then 0 else Config.choice s.fresh % n)

/-! ### Partitions and their registers -/

/-- Partition p (15 R317). -/
def State.part (s : State) (p : Nat) : Part := dget Part.reset s.parts p

/-- The state with a new partition record. -/
def State.setPart (s : State) (p : Nat) (x : Part) : State := { s with parts := dput Part.reset s.parts p x }

/-- Change partition p. -/
def State.modPart (s : State) (p : Nat) (f : Part → Part) : State := s.setPart p (f (s.part p))

/-- Privileged register n as it is held (15 R322). -/
def Part.reg (p : Part) (n : Nat) : Word := dget 0 p.regs n

/-- The 64-bit quantity in registers n and n + 1 (15 R322). -/
def Part.reg64 (p : Part) (n : Nat) : Nat := (p.reg n).toNat + 2 ^ 32 * (p.reg (n + 1)).toNat

/-- The partition with a new value held in register n. -/
def Part.setReg (p : Part) (n : Nat) (x : Word) : Part := { p with regs := dput 0 p.regs n x }

/-- The partition with a new 64-bit quantity held in registers n and n + 1. -/
def Part.setReg64 (p : Part) (n : Nat) (x : Dword) : Part := (p.setReg n (loWord x)).setReg (n + 1) (hiWord x)

/-- %clock as a compute die reads it: the whole periods of its arithmetic clock (02 R43, 20 R406). -/
def State.now (s : State) (die : Nat) : Dword := BitVec.ofNat 64 (dget 0 s.phase die / 21)

/-! ### Address form (07 R173) -/

/-- Bits [63:51] are all equal. -/
def canonicalVa (a : Dword) : Bool := nbits a.toNat 51 13 == 0 || nbits a.toNat 51 13 == 8191

/-- Bits [63:48] are 0x5C00. -/
def inAperture (a : Dword) : Bool := nbits a.toNat 48 16 == 0x5C00

/-- An aperture address whose bits [47:22] are zero. -/
def apertureOk (a : Dword) : Bool := inAperture a && nbits a.toNat 22 26 == 0

/-! ### Physical memory (17 R359, R364; 20 R400) -/

/-- n bytes at a physical address: LOC 0 device memory, 1 host memory, 2 CXL peer memory. -/
def physRead (s : State) (loc pa n : Nat) : List Byte :=
  if loc = 0 then cellsRead s.hbm pa n else if loc = 1 then cellsRead s.hostMem pa n else cellsRead s.peerMem pa n

/-- Bytes stored at a physical address; new device data has no error of the data it replaces (log 46). -/
def physWrite (s : State) (loc pa : Nat) (bs : List Byte) : State :=
  if loc = 0 then
    { s with hbm := cellsWrite s.hbm pa bs, poison := s.poison.filter fun p => decide (p < pa) || decide (pa + bs.length ≤ p) }
  else if loc = 1 then { s with hostMem := cellsWrite s.hostMem pa bs }
  else { s with peerMem := cellsWrite s.peerMem pa bs }

/-- A byte of the flat memory of early service: frames below 12,288 on memory dies 0 and 1 (17 R359, 20 R417). -/
def flatPa (pa : Nat) : Bool := decide (pa < 12288 * 65536) && decide (nbits pa 12 3 < 2)

/-- A byte of device memory can be reached: in early service the flat memory alone (20 R417). -/
def State.serves (s : State) (pa : Nat) : Bool := s.host.stage != 2 || flatPa pa

/-! ### Address spaces and tables (17 R357-R365) -/

/-- Who accesses: partition, local ASID, supervisor, compute die (17 R357); for a team's own access its cluster, whose L1
the request leaves, and its key. -/
structure Agent where
  pnum : Nat
  asid : Nat
  sup : Bool
  die : Nat
  cluster : Option Nat
  team : Option Nat
  /-- an access of the team's own instructions, which are in path order with its later ones, and no engine's (08 R208) -/
  own : Bool
  deriving DecidableEq, Repr

/-- The global ASID (17 R357). -/
def Agent.gasid (a : Agent) : Nat := a.pnum * 8192 + a.asid % 8192

/-- What an access does (17 R365). -/
inductive AccKind where
  | read | write | rmw | fetch
  deriving DecidableEq, Repr

/-- The address-space entry of an ASID: PTROOT and RTBASE, or cause 0x0A with subcode 2 when it is not valid (17 R358), or
with subcode 1 when early service cannot reach it (20 R417). -/
def asidEntry (s : State) (pnum asid : Nat) : Except (Nat × Nat) (Nat × Nat) :=
  let p := s.part pnum
  let at_ := p.reg64 0x20 + 32 * asid
  let cnt := min (nbits (p.reg 0x22).toNat 0 14) 8192
  let e := physRead s 0 at_ 32
  if cnt ≤ asid then .error (0x0A, 2)
  else if !(s.serves at_ && s.serves (at_ + 31)) then .error (0x0A, 1)
  else if nbit (byteAt e 16) 0 then .ok (fieldAt e 0 8, fieldAt e 8 8)
  else .error (0x0A, 2)

/-- A region's placement: none for striped, the compute die for paired (17 R362). -/
def placementOf (b : Byte) : Option Nat := if nbits b.toNat 0 2 = 1 then some (nbits b.toNat 2 2) else none

/-- The region-cache key of an address at a compute die. -/
def regionKey (a : Agent) (va : Nat) : Nat := a.die * 2 ^ 38 + a.gasid * 2 ^ 22 + nbits va 30 22

/-- The region table's byte for an address, when there is a table that can be reached (17 R362, 20 R417). An RTBASE that is
misaligned, or an RTBASE or an ASTBASE at or past 2^39, is used as it stands: the spec gives no outcome (DESIGN CHOICE,
log 55). -/
def regionByte (s : State) (pnum asid va : Nat) : Option Byte :=
  match asidEntry s pnum asid with
  | .error _ => none
  | .ok (_, rt) =>
    let at_ := rt + nbits va 30 22
    if s.serves at_ then some ((physRead s 0 at_ 1).getD 0 0) else none

/-- The placement of an address as the agent's compute die knows it; a miss reads the region table and keeps the
entry (17 R362). -/
def regionLookup (s : State) (a : Agent) (va : Nat) : State × Option Nat :=
  match klook s.region (regionKey a va) with
  | some b => (s, placementOf b)
  | none =>
    match regionByte s a.pnum a.asid va with
    | none => (s, none)
    | some b => ({ s with region := kput s.region (regionKey a va) b }, placementOf b)

/-- The memory die that homes an address (17 R360). -/
def homeDie (pl : Option Nat) (va : Nat) : Nat :=
  match pl with
  | some c => 2 * c + nbits va 12 1
  | none => (nbits va 12 3) ^^^ (nbits va 15 3) ^^^ (nbits va 18 3)

/-- A leaf found by a walk: the entry, its level and its physical address. -/
structure Leaf where
  pte : Dword
  level : Nat
  at_ : Nat
  deriving DecidableEq, Repr

/-- log2 of a page's size by its leaf's level (17 R363). -/
def pageLog (level : Nat) : Nat := if level = 2 then 30 else if level = 1 then 21 else 16

/-- The index of an address in the table of a level (17 R363). -/
def tableIndex (level va : Nat) : Nat :=
  if level = 3 then nbits va 39 13 else if level = 2 then nbits va 30 9 else if level = 1 then nbits va 21 9
  else nbits va 16 5

/-- The walk from the table of a level (17 R363-R365): a leaf, or cause 0x0A with subcode 0 or 1, the latter too where early
service cannot reach an entry (20 R417). -/
def walkFrom (s : State) (va : Nat) (level table : Nat) : Except (Nat × Nat) Leaf :=
  let addr := table + 8 * tableIndex level va
  let pte := natOfBytes (physRead s 0 addr 8)
  if !s.serves addr then .error (0x0A, 1)
  else if nbit pte 0 = false then .error (0x0A, 0)
  else
    match level with
    | 0 => if nbit pte 1 then .ok { pte := BitVec.ofNat 64 pte, level := 0, at_ := addr } else .error (0x0A, 1)
    | l + 1 =>
      if nbit pte 1 then
        if l + 1 = 3 then .error (0x0A, 1) else .ok { pte := BitVec.ofNat 64 pte, level := l + 1, at_ := addr }
      else
        let next := nbits pte 8 31 * 256
        if l ≠ 0 ∧ next % 4096 ≠ 0 then .error (0x0A, 1) else walkFrom s va l next

/-- LOC of a leaf entry (17 R364). -/
def pteLoc (pte : Dword) : Nat := nbits pte.toNat 6 2
/-- NC of a leaf entry: the page is held in no device cache, as every remote page is (17 R364, R369). -/
def pteUncached (pte : Dword) : Bool := nbit pte.toNat 8 || pteLoc pte != 0
/-- The page may migrate (17 R364). -/
def pteMig (pte : Dword) : Bool := nbit pte.toNat 9
/-- FRAME of a leaf entry (17 R364). -/
def pteFrame (pte : Dword) : Nat := nbits pte.toNat 16 36

/-- The conditions of subcode 1 on a leaf (17 R365, 20 R400). -/
def leafBad (pl : Option Nat) (lf : Leaf) : Bool :=
  let sz := 2 ^ pageLog lf.level
  let f := pteFrame lf.pte
  let units := if pl.isSome then sz / 16384 else sz / 65536
  let loc := pteLoc lf.pte
  (loc == 3)
    || (loc == 0 && (decide (f % units ≠ 0) || decide (2 ^ 23 < f + units)))
    || ((loc == 1 || loc == 2) && decide (f * 65536 % sz ≠ 0))
    || (pteMig lf.pte && (lf.level != 0 || pl.isSome))

/-- The physical address of a byte of a page (17 R360, R361; R400 for remote pages). -/
def physOf (pl : Option Nat) (lf : Leaf) (va : Nat) : Nat :=
  let o := va % 2 ^ pageLog lf.level
  let f := pteFrame lf.pte
  if pteLoc lf.pte ≠ 0 then 65536 * f + o
  else
    match pl with
    | none => 65536 * f + (o ^^^ (4096 * ((nbits va 15 3) ^^^ (nbits va 18 3))))
    | some c => 65536 * (f + o / 16384) + 32768 * nbits o 13 1 + 4096 * (2 * c + nbits o 12 1) + o % 4096

/-- In early service a region is striped, or paired with another die than compute die 0 (20 R417). -/
def earlyRegion (s : State) (pl : Option Nat) : Bool := s.host.stage == 2 && pl != some 0

/-- In early service an access goes to such a region, or to device memory that is not served there (20 R417). -/
def earlyBad (s : State) (pl : Option Nat) (lf : Leaf) (va : Nat) : Bool :=
  earlyRegion s pl || (pteLoc lf.pte == 0 && !s.serves (physOf pl lf va))

/-- The whole walk of an address, without permissions (17 R358, R363-R365). A misaligned PTROOT, or one at or past 2^39, is
subcode 1 before the entry of level 3 is looked at: 17 R365 gives it no place in its order (DESIGN CHOICE, log 53). In early
service every access to a striped region, or to one of another die, is subcode 1 (20 R417), after an invalid ASID and before
the walk, a place that the spec does not give either (DESIGN CHOICE, log 54). -/
def walk (s : State) (pnum asid : Nat) (pl : Option Nat) (va : Nat) : Except (Nat × Nat) Leaf :=
  match asidEntry s pnum asid with
  | .error e => .error e
  | .ok (root, _) =>
    if earlyRegion s pl then .error (0x0A, 1)
    else if root % 65536 ≠ 0 ∨ 2 ^ 39 ≤ root then .error (0x0A, 1)
    else
      match walkFrom s va 3 root with
      | .error e => .error e
      | .ok lf => if leafBad pl lf || earlyBad s pl lf va then .error (0x0A, 1) else .ok lf

/-- The TLB key of an address at its home die. -/
def tlbKey (a : Agent) (die va : Nat) : Nat := die * 2 ^ 52 + a.gasid * 2 ^ 36 + nbits va 16 36

/-- Translation at the home die: a TLB entry serves, else a walk that fills it (17 R366). -/
def translate (s : State) (a : Agent) (pl : Option Nat) (va : Nat) : Except (Nat × Nat) (State × Leaf) :=
  match klook s.tlb (tlbKey a (homeDie pl va) va) with
  | some (pte, level) =>
    let lf : Leaf := { pte := pte, level := level, at_ := 0 }
    if earlyBad s pl lf va then .error (0x0A, 1) else .ok (s, lf)
  | none =>
    match walk s a.pnum a.asid pl va with
    | .error e => .error e
    | .ok lf => .ok ({ s with tlb := kput s.tlb (tlbKey a (homeDie pl va) va) (lf.pte, lf.level) }, lf)

/-- The permission faults of an access, user access before write (17 R365); a fetch needs X (03 R88). -/
def permFault (a : Agent) (k : AccKind) (pte : Dword) : Option (Nat × Nat) :=
  if !a.sup && !nbit pte.toNat 4 then some (0x0B, 1)
  else if (k == .write || k == .rmw) && !nbit pte.toNat 2 then some (0x0B, 0)
  else if k == .fetch && !nbit pte.toNat 3 then some (0x03, 0)
  else none

/-! ### Cached lines (17 R367-R369) -/

/-- The key of an address's line. -/
def lineKey (gasid va : Nat) : Nat := gasid * 2 ^ 45 + nbits va 7 45

/-- n bytes of a line from an offset. -/
def lineRead (l : Line) (off n : Nat) : List Byte := (List.range n).map fun k => (l.data >>> (8 * (off + k))).setWidth 8

/-- The 128 bytes of a line with others put over them from an offset on. -/
def putBytes (d : BitVec 1024) (off : Nat) (bs : List Byte) : BitVec 1024 :=
  let mask : BitVec 1024 := (BitVec.ofNat 1024 (2 ^ (8 * bs.length) - 1)) <<< (8 * off)
  (d &&& ~~~mask) ||| ((BitVec.ofNat 1024 (natOfBytes bs)) <<< (8 * off))

/-- A line with bytes stored at an offset, marked dirty. -/
def lineWrite (l : Line) (off : Nat) (bs : List Byte) : Line :=
  let bytes : BitVec 128 := (BitVec.ofNat 128 (2 ^ bs.length - 1)) <<< off
  { l with data := putBytes l.data off bs, dirty := l.dirty ||| bytes, bad := l.bad &&& ~~~bytes }

/-- Where an access is performed: in a cached line, at a physical location for an uncached page (17 R369), or in the flat
memory of early service, which the home caches serve by physical address (20 R417). -/
inductive Place where
  | line (key : Nat)
  | phys (loc pa : Nat)
  | flat (pa : Nat)
  deriving DecidableEq, Repr

/-- The dirty bytes of a line are written to memory, and only those (17 R367). -/
def writeDirty (s : State) (loc pa : Nat) (l : Line) : State :=
  (List.range 128).foldl
    (fun s k => if l.dirty.getLsbD k then physWrite s loc (pa + k) [(l.data >>> (8 * k)).setWidth 8] else s) s

/-- The agent of a line's address space, for a write-back. -/
def lineAgent (s : State) (key : Nat) : Agent :=
  let g := key / 2 ^ 45
  { pnum := g / 8192, asid := g % 8192, sup := true, die := (s.part (g / 8192)).halves.toNat.log2 / 2, cluster := none,
    team := none, own := false }

/-- The virtual address of a line's first byte. -/
def lineVa (key : Nat) : Nat := nbits key 0 45 * 128

/-- A line's dirty bytes go to device memory at the address translation gives now, without a permission check; they
are discarded when the page does not translate (17 R367). The line is then clean. -/
def writeBack (s : State) (key : Nat) : State :=
  match klook s.lines key with
  | none => s
  | some l =>
    if l.dirty = 0 then s
    else
      let a := lineAgent s key
      let va := lineVa key
      match regionLookup s a va with
      | (s, pl) =>
        let clean := { s with lines := kput s.lines key { l with dirty := 0 } }
        match translate s a pl va with
        | .error _ => clean
        | .ok (s', lf) =>
          let s := { s' with lines := kput s'.lines key { l with dirty := 0 } }
          writeDirty s (pteLoc lf.pte) (physOf pl lf va) l

/-- A line leaves every cache, its dirty bytes written back first (17 R367, R370). -/
def flushLine (s : State) (key : Nat) : State :=
  let s := writeBack s key
  { s with lines := kdel s.lines key, copies := s.copies.filter fun e => e.2 != key,
           dieCaches := { s.dieCaches with lines := s.dieCaches.lines.filter fun l => l.key != key } }

/-! ### Which caches hold a line (01 R12, R15; log 8) -/

/-- Lines that a memory die's home cache of 96 MiB holds (01 R12). -/
def homeLines : Nat := 786432

/-- Lines that an L1 of 512 KiB and a gateway cache of 16 MiB hold (01 R12); a gateway cache is not divided among
partitions or classes (16 R352). -/
def Cache.lines : Cache → Nat
  | .l1 _ => 4096
  | .gateway _ _ => 131072

/-- A cache is one of the module's, and may hold lines homed on a memory die (01 R12, R15). -/
def Cache.takes (home : Nat) : Cache → Bool
  | .l1 c => decide (c < 256)
  | .gateway d e => decide (d < 4) && decide (e < 4) && d != e && home / 2 == e

/-- The keys of the lines that a cache holds copies of. -/
def State.copiesIn (s : State) (c : Cache) : List Nat := (s.copies.filter fun e => e.1 == c).map Prod.snd

/-- A cached line's copy enters an L1 or a gateway cache that may hold it; a full cache gives up a copy of the device's
choice. -/
def keepCopy (s : State) (c : Cache) (key : Nat) : State :=
  match klook s.lines key with
  | none => s
  | some l =>
    let held := s.copiesIn c
    if !c.takes l.home || held.contains key then s
    else if held.length < c.lines then { s with copies := s.copies ++ [(c, key)] }
    else
      let (s, k) := pick s held.length
      { s with copies := (s.copies.erase (c, held.getD k 0)) ++ [(c, key)] }

/-- An L1 or a gateway cache gives up its copy of a line: the home cache has its bytes (log 8). -/
def dropCopy (s : State) (c : Cache) (key : Nat) : State := { s with copies := s.copies.erase (c, key) }

/-- The L1 and the gateway cache that a request passes on its way to a home memory die: the L1 of its cluster, and the gateway
toward the home's die when that is another; its own die's cache stands beside them (01 R15, 16 R350; log 8). -/
def requestPath (a : Agent) (home : Nat) : List Cache :=
  a.cluster.toList.map Cache.l1 ++ if home / 2 = a.die then [] else [.gateway a.die (home / 2)]

/-! ### The die caches (16 R339, R351-R355) -/

/-- The slice of a die cache in which a line lives: VA[10:7] ⊕ VA[14:11] ⊕ VA[18:15] ⊕ VA[22:19] (16 R351). -/
def sliceOf (key : Nat) : Nat := nbits key 0 4 ^^^ nbits key 4 4 ^^^ nbits key 8 4 ^^^ nbits key 12 4

/-- The set of its slice that a line belongs to, of 2,048: the spec does not say which (16 R352; log 8). -/
def setOf (key : Nat) : Nat := Config.dieSet key % 2048

/-- A line of a die cache lies in the set of another line's key. -/
def DieLine.inSet (l : DieLine) (die key : Nat) : Bool :=
  l.die == die && sliceOf l.key == sliceOf key && setOf l.key == setOf key

/-- The class of an access: that of the team's grid, for its engines too; class 3 for the supervisor, whose grids have it,
and, by the model's choice, for the device's own accesses (16 R339; log 8). -/
def State.classOf (s : State) (a : Agent) : Nat :=
  match a.team.bind (klook s.teams) with
  | some t => if t.sup then 3 else ((klook s.grids t.gid).map Grid.cls).getD 3
  | none => 3

/-- The ways of every set of a die's cache that a partition owns: 12 for each half of the die that it holds (16 R352). -/
def Part.ways (p : Part) (die : Nat) : List Nat :=
  (if p.halves.getLsbD (2 * die) then List.range 12 else [])
    ++ if p.halves.getLsbD (2 * die + 1) then (List.range 12).map (· + 12) else []

/-- The ways that QWAYS asks for a class, of which 25 to 31 act as 24 (16 R355). -/
def wayShare (q : Word) (c : Nat) : Nat := min 24 (nbits q.toNat (5 * c) 5)

/-- The share of a class among a partition's ways: after those of the classes below it, and no more than remains. -/
def classWays (ws : List Nat) (q : Word) (c : Nat) : List Nat :=
  (ws.drop ((List.range c).map (wayShare q)).sum).take (wayShare q c)

/-- The common pool: the ways that no class receives. -/
def commonWays (ws : List Nat) (q : Word) : List Nat := ws.drop ((List.range 4).map (wayShare q)).sum

/-- Where the last request of a partition's class at a slice is kept. -/
def seenKey (die slice pn c : Nat) : Nat := 32 * (16 * die + slice) + 4 * pn + c

/-- A class is idle at a slice when none of the partition's requests of it has reached the slice in the last IDLEWIN x 64
clocks; an IDLEWIN of 0 acts as 1 (16 R353, R355). -/
def idleAt (s : State) (die slice pn c : Nat) : Bool :=
  match klook s.dieCaches.seen (seenKey die slice pn c) with
  | none => true
  | some t => decide (t + 64 * max 1 (nbits ((s.part pn).reg 0x44).toNat 0 16) ≤ (s.now die).toNat)

/-- The ways that a fill of class c may take at a line's slice: its own share, the common pool, and the shares of the classes
that are idle there (16 R353). -/
def fillWays (s : State) (die c key : Nat) : List Nat :=
  let pn := key / 2 ^ 58
  let ws := (s.part pn).ways die
  let q := (s.part pn).reg 0x42
  classWays ws q c ++ commonWays ws q
    ++ ((List.range 4).filter fun d => d != c && idleAt s die (sliceOf key) pn d).flatMap (classWays ws q)

/-- The way that a fill of class c takes: one that holds nothing; else that of the least recently used line of another class
in c's own share, before any line of c's own; else that of the least recently used line among the ways it may take. With no
such way the line does not enter the cache (16 R353; log 8). -/
def fillWay (s : State) (die c key : Nat) : Option Nat :=
  let own := classWays ((s.part (key / 2 ^ 58)).ways die) ((s.part (key / 2 ^ 58)).reg 0x42) c
  let held := s.dieCaches.lines.filter fun l => l.inSet die key
  let may := fillWays s die c key
  match may.find? fun w => !(held.any fun l => l.way == w) with
  | some w => some w
  | none =>
    (((held.filter fun l => l.cls != c && own.contains l.way) ++ held.filter fun l => may.contains l.way).head?).map DieLine.way

/-- The die caches after a request of class c for a line has reached its die's: a line found in any way is the most recently
used one now, any other is filled into the way that the rule gives (16 R353). -/
def dieReached (s : State) (die c key : Nat) : DieCaches :=
  let d := s.dieCaches
  let seen := kput d.seen (seenKey die (sliceOf key) (key / 2 ^ 58) c) (s.now die).toNat
  match d.lines.find? fun l => l.die == die && l.key == key with
  | some l => { lines := d.lines.erase l ++ [l], seen := seen }
  | none =>
    match fillWay s die c key with
    | none => { d with seen := seen }
    | some w =>
      { lines := (d.lines.filter fun l => !(l.inSet die key && l.way == w)) ++ [{ die := die, key := key, way := w, cls := c }],
        seen := seen }

/-- A request that has left the L1s for a line passes the cache of its die when the line is homed there (01 R15). -/
def passDie (s : State) (a : Agent) (key home : Nat) : State :=
  { s with dieCaches := if home / 2 = a.die then dieReached s a.die (s.classOf a) key else s.dieCaches }

/-- A request for a cached line: a read or a fetch of a line that the L1 of its cluster holds ends there, and any other goes on
to the caches beyond (01 R15, 16 R350; log 8). -/
def passCaches (s : State) (a : Agent) (k : AccKind) (key : Nat) : State :=
  { s with dieCaches :=
      match klook s.lines key with
      | none => s.dieCaches
      | some l =>
        if (k == .read || k == .fetch) && a.cluster.any fun c => s.copies.contains (.l1 c, key) then s.dieCaches
        else (passDie s a key l.home).dieCaches }

/-- A home cache has room for one more line: a full one gives up a line of the device's choice. -/
def makeRoom (s : State) (home : Nat) : State :=
  let held := (s.lines.filter fun e => e.2.home == home).map Prod.fst
  if held.length < homeLines then s
  else
    let (s, k) := pick s held.length
    flushLine s (held.getD k 0)

/-- n bytes of device memory from a physical address hold data with an uncorrectable error in HBM, which the flat memory of
early service does not use (20 R417, R421). -/
def State.poisonedAt (s : State) (pa n : Nat) : Bool :=
  s.poison.any fun p => decide (pa ≤ p) && decide (p < pa + n) && !(s.host.stage == 2 && flatPa p)

/-- The bytes of a line at a physical address whose data has an uncorrectable error. -/
def badBytes (s : State) (pa : Nat) : BitVec 128 :=
  s.poison.foldl (fun m p => if pa ≤ p ∧ p < pa + 128 then m ||| BitVec.twoPow 128 (p - pa) else m) 0

/-- A line is brought from device memory into its home cache and the nearer ones that the request passes. -/
def fillLine (s : State) (a : Agent) (pl : Option Nat) (lf : Leaf) (va : Nat) : State :=
  let home := homeDie pl va
  let s := makeRoom s home
  let pa := physOf pl lf (va / 128 * 128)
  let l : Line := { data := BitVec.ofNat 1024 (natOfBytes (physRead s 0 pa 128)), dirty := 0, bad := badBytes s pa,
                    home := home }
  let s := { s with lines := kput s.lines (lineKey a.gasid va) l }
  passDie ((requestPath a home).foldl (fun s c => keepCopy s c (lineKey a.gasid va)) s) a (lineKey a.gasid va) home

/-- The placement after translation and the permission checks: an uncached page is reached where it lies, else the line
is filled from device memory (17 R365-R369); in early service the home caches are flat memory and hold no line (20 R417). -/
def placeLeaf (s : State) (a : Agent) (k : AccKind) (pl : Option Nat) (lf : Leaf) (va : Nat) :
    Except (Nat × Nat) (State × Place) :=
  match permFault a k lf.pte with
  | some e => .error e
  | none =>
    if pteUncached lf.pte then .ok (s, .phys (pteLoc lf.pte) (physOf pl lf va))
    else if s.host.stage = 2 then .ok (s, .flat (physOf pl lf va))
    else .ok (fillLine s a pl lf va, .line (lineKey a.gasid va))

/-- An access without migration: a cached line serves with no translation and no check (01 R16). -/
def placeStill (s : State) (a : Agent) (k : AccKind) (va : Nat) : Except (Nat × Nat) (State × Place) :=
  if (klook s.lines (lineKey a.gasid va)).isSome then
    .ok (passCaches s a k (lineKey a.gasid va), .line (lineKey a.gasid va))
  else
    match regionLookup s a va with
    | (s, pl) =>
      match translate s a pl va with
      | .error e => .error (if k == .fetch then (0x03, 0) else e)
      | .ok (s, lf) => placeLeaf s a k pl lf va

/-- n bytes at a place, within one line; va gives the offset in the line. -/
def placeRead (s : State) (p : Place) (va n : Nat) : List Byte :=
  match p with
  | .line key =>
    match klook s.lines key with
    | some l => lineRead l (va % 128) n
    | none => []
  | .phys loc pa => physRead s loc pa n
  | .flat pa => physRead s 0 pa n

/-- n bytes at a place have an uncorrectable error in HBM, which flat memory does not use (20 R417, R421). -/
def placeBad (s : State) (p : Place) (va n : Nat) : Bool :=
  match p with
  | .line key =>
    match klook s.lines key with
    | some l => l.bad != 0 && (List.range n).any fun k => l.bad.getLsbD (va % 128 + k)
    | none => false
  | .phys loc pa => loc == 0 && s.poisonedAt pa n
  | .flat _ => false

/-- A team's part of its engine's scale cache after an access of the team to bytes of a line: no step is served an older
byte than one that an access before it has read or written (08 R213, 09 R237). -/
def Team.seeScale (t : Team) (va : Nat) (bs : List Byte) : Team :=
  { t with scales := kmod t.scales (va / 128) fun d => putBytes d (va % 128) bs }

/-- An access of a team's own has read or written bytes within a line. -/
def seeScale (s : State) (a : Agent) (va : Nat) (bs : List Byte) : State :=
  match a.team.filter fun tk => a.own && (klook s.teams tk).any fun t => (klook t.scales (va / 128)).isSome with
  | some tk => { s with teams := kmod s.teams tk fun t => t.seeScale va bs }
  | none => s

/-- An access has read n bytes at a place: a team that has read data with an uncorrectable error is noted, and its cohort
ends for it (20 R421). -/
def noteRead (s : State) (a : Agent) (p : Place) (va n : Nat) : State :=
  let s := seeScale s a va (placeRead s p va n)
  match a.team with
  | some tk =>
    if placeBad s p va n then { s with badReads := s.badReads ++ [(tk, BitVec.ofNat 64 va)] } else s
  | none => s

/-- Bytes stored at a place, within one line. -/
def placeWrite (s : State) (p : Place) (va : Nat) (bs : List Byte) : State :=
  match p with
  | .line key => { s with lines := kmod s.lines key fun l => lineWrite l (va % 128) bs }
  | .phys loc pa => physWrite s loc pa bs
  | .flat pa => physWrite s 0 pa bs

/-! ### Wakes (07 R194) -/

/-- The comparison of waitc (07 R193); code 6 holds for every value, for a queue's wait (16 R341). -/
def waitCond (cmp : Nat) (v e m : Word) : Bool :=
  let a := v &&& m
  let b := e &&& m
  match cmp with
  | 0 => a == b
  | 1 => a != b
  | 2 => BitVec.slt a b
  | 3 => !BitVec.slt a b
  | 4 => BitVec.ult a b
  | 5 => !BitVec.ult a b
  | _ => true

/-- A team that waits at waitc is woken: it will read its location again (07 R193, R194). -/
def Team.wake (t : Team) : Team :=
  match t.wait with
  | .waitc p a c e m l _ => { t with wait := .waitc p a c e m l true }
  | _ => t

/-- A wake reaches the team or the queue that waits (07 R194, 16 R341). -/
def deliverWake (s : State) (w : WaitWho) : State :=
  match w with
  | .team tk => { s with teams := kmod s.teams tk Team.wake }
  | .queue pn k =>
    s.modPart pn fun p => { p with queues := kmod p.queues k fun q => { q with waiting := q.waiting.map fun x => (true, x.2) } }

/-- The bytes at a registered location as a word. -/
def waitWord (bs : List Byte) : Word := BitVec.ofNat 32 (natOfBytes bs)

/-- A write touches entries: `value` gives the new value of a location that it touches. Those whose condition the value
satisfies are removed, each with a wake. -/
def wakeWhere (s : State) (value : Waiter → Option Word) : State :=
  let wakes (w : Waiter) : Bool := ((value w).map fun v => waitCond w.cmp v w.e w.m).getD false
  (s.waits.filter wakes).foldl (fun s w => deliverWake s w.who) { s with waits := s.waits.filter fun w => !wakes w }

/-- Two byte ranges share a byte. -/
def overlap (a n b m : Nat) : Bool := decide (a < b + m) && decide (b < a + n)

/-- The address of a location when a write of n bytes at an address of its space touches its 4 bytes. -/
def Waiter.touched (w : Waiter) (gasid va n : Nat) : Option Nat :=
  match w.loc with
  | .virt g a => if g = gasid ∧ overlap a.toNat 4 va n then some a.toNat else none
  | .scratch _ _ => none

/-- The wakes of a write of n bytes in a cached line. -/
def wakeLine (s : State) (gasid va n : Nat) : State :=
  wakeWhere s fun w => (w.touched gasid va n).bind fun a =>
    (klook s.lines (lineKey gasid a)).map fun l => waitWord (lineRead l (a % 128) 4)

/-- Where a location lies in memory, by the page that its address translates to now. -/
def Waiter.physNow (s : State) (w : Waiter) : Option (Nat × Nat) :=
  match w.loc with
  | .scratch _ _ => none
  | .virt g va =>
    let pl := (regionByte s (g / 8192) (g % 8192) va.toNat).bind placementOf
    match walk s (g / 8192) (g % 8192) pl va.toNat with
    | .ok lf => some (pteLoc lf.pte, physOf pl lf va.toNat)
    | .error _ => none

/-- The wakes of a write of n bytes at a physical location, which meets the entries of every location that lies there now
(07 R194). -/
def wakePhys (s : State) (loc pa n : Nat) : State :=
  wakeWhere s fun w => (w.physNow s).bind fun p =>
    if p.1 = loc ∧ overlap p.2 4 pa n then some (waitWord (physRead s loc p.2 4)) else none

/-- A write at a physical location, with its wakes. -/
def deviceWrite (s : State) (loc pa : Nat) (bs : List Byte) : State := wakePhys (physWrite s loc pa bs) loc pa bs.length

/-- The wakes of a write of n bytes that an access to a line held in no cache makes: those of its physical location, and
those of its address whatever the page was when they were registered (07 R194). -/
def wakeUncached (s : State) (gasid va loc pa n : Nat) : State :=
  wakeWhere (wakePhys s loc pa n) fun w => (w.touched gasid va n).map fun a => waitWord (physRead s loc (pa + a - va) 4)

/-- The wakes of a write of n bytes in a team's scratchpad. -/
def wakeScratch (s : State) (tk off n : Nat) : State :=
  wakeWhere s fun w =>
    match w.loc with
    | .virt _ _ => none
    | .scratch k o =>
      if k = tk ∧ overlap o 4 off n then (klook s.teams tk).map fun t => waitWord (cellsRead t.scr o 4) else none

/-- A write at a place, with its wakes. -/
def storeAt (s : State) (a : Agent) (p : Place) (va : Nat) (bs : List Byte) : State :=
  let s := seeScale (placeWrite s p va bs) a va bs
  match p with
  | .line _ => wakeLine s a.gasid va bs.length
  | .phys loc pa => wakeUncached s a.gasid va loc pa bs.length
  | .flat pa => wakeUncached s a.gasid va 0 pa bs.length

/-! ### Migration (17 R375-R377) -/

/-- The supervisor's agent of a partition (17 R357, R371). -/
def supAgent (s : State) (pnum : Nat) : Agent :=
  { pnum := pnum, asid := nbits ((s.part pnum).reg 0x25).toNat 0 13, sup := true,
    die := ((List.range 8).find? fun h => (s.part pnum).halves.getLsbD h).getD 0 / 2, cluster := none, team := none, own := false }

/-- The local ASID of a team's accesses in its partition: the supervisor's is SVASID (17 R357, R371). -/
def Part.asidOf (p : Part) (t : Team) : Nat := if t.sup then nbits (p.reg 0x25).toNat 0 13 else t.asid

/-- The same of a team by its key. -/
def State.asidOf (s : State) (tk : Nat) (t : Team) : Nat := (s.part (tk / 65536)).asidOf t

/-- A word read by the device under an agent, without migration. -/
def wordStill (s : State) (a : Agent) (va : Nat) : Except (Nat × Nat) (State × Nat) :=
  match placeStill s a .read va with
  | .error e => .error e
  | .ok (s, p) => .ok (s, natOfBytes (placeRead s p va 4))

/-- A word written by the device under an agent, without migration. -/
def putWordStill (s : State) (a : Agent) (va x : Nat) : Except (Nat × Nat) State :=
  match placeStill s a .rmw va with
  | .error e => .error e
  | .ok (s, p) => .ok (storeAt s a p va (bytesOf 4 x))

/-- The lines that are cached. -/
def State.cached (s : State) : List Nat := s.lines.map Prod.fst

/-- The permission fault of a write to a line that the operation itself has brought in: the line was not among those
cached when the operation began, so R16 does not exempt the write (log 43). -/
def ownFault (s : State) (a : Agent) (known : List Nat) (k : AccKind) (va : Nat) : Option (Nat × Nat) :=
  if known.contains (lineKey a.gasid va) || (klook s.lines (lineKey a.gasid va)).isNone then none
  else
    match translate s a (regionLookup s a va).2 va with
    | .error e => some e
    | .ok (_, lf) => permFault a k lf.pte

/-- Take the last entry of the migration frame pool: its F, or none when COUNT is 0 (17 R375). -/
def takeFrame (s : State) (pnum : Nat) : Except (Nat × Nat) (State × Option Nat) :=
  let a := supAgent s pnum
  let base := (s.part pnum).reg64 0x2C
  let known := s.cached
  match wordStill s a base with
  | .error e => .error e
  | .ok (s, count) =>
    if count = 0 then .ok (s, none)
    else
      match wordStill s a (base + 8 + 4 * (count - 1)) with
      | .error e => .error e
      | .ok (s, f) =>
        match ownFault s a known .rmw base, putWordStill s a base (count - 1) with
        | some e, _ | none, .error e => .error e
        | none, .ok s => .ok (s, some (nbits f 0 23))

/-- Return F to the pool: false when COUNT = CAP (17 R375). -/
def returnFrame (s : State) (pnum f : Nat) : Except (Nat × Nat) (State × Bool) :=
  let a := supAgent s pnum
  let base := (s.part pnum).reg64 0x2C
  let known := s.cached
  match wordStill s a base with
  | .error e => .error e
  | .ok (s, count) =>
    match wordStill s a (base + 4) with
    | .error e => .error e
    | .ok (s, cap) =>
      if cap ≤ count then .ok (s, false)
      else
        match ownFault s a known .rmw base, putWordStill s a (base + 8 + 4 * count) f with
        | some e, _ | none, .error e => .error e
        | none, .ok s =>
          match putWordStill s a base (count + 1) with
          | .error e => .error e
          | .ok s => .ok (s, true)

/-- 10 ms in the unit of State.clock, which is time whatever the operating points are (17 R377, 00 R2). -/
def moveWindow : Nat := 10500000

/-- The move record of a page. -/
def moveRec (s : State) (gasid page : Nat) : Option MoveRec :=
  s.moves.find? fun r => r.gasid == gasid && r.page == page

/-- The page has moved three times in its window: a further request settles it (17 R377). -/
def moveSettles (s : State) (gasid page : Nat) : Bool :=
  match moveRec s gasid page with
  | some r => decide (3 ≤ r.n) && decide (s.clock < r.t0 + moveWindow)
  | none => false

/-- Note a move in the home die's table of 1,024 records; a new record displaces the oldest of a full table (17 R377). A settled
page whose record is displaced keeps NC set, since no record is left to clear it: the spec does not say (DESIGN CHOICE,
log 55). -/
def noteMove (s : State) (die gasid page : Nat) : State :=
  match moveRec s gasid page with
  | some r =>
    if s.clock < r.t0 + moveWindow then
      { s with moves := s.moves.map fun x => if x = r then { x with n := x.n + 1 } else x }
    else { s with moves := s.moves.map fun x => if x = r then { x with n := 1, t0 := s.clock } else x }
  | none =>
    let mine := s.moves.filter fun x => x.die == die
    let kept := if 1024 ≤ mine.length then
        match mine.head? with
        | some o => s.moves.erase o
        | none => s.moves
      else s.moves
    { s with moves := kept ++ [{ die := die, gasid := gasid, page := page, n := 1, t0 := s.clock }] }

/-- The TLB entries of a 64 KiB page leave every die. -/
def dropPageTlb (s : State) (gasid page : Nat) : State :=
  { s with tlb := s.tlb.filter fun e => !(nbits e.1 36 16 == gasid && nbits e.1 0 36 == nbits page 0 36) }

/-- A team's lines of a 64 KiB page leave its engine's scale cache. -/
def Team.dropPageScales (t : Team) (page : Nat) : Team :=
  { t with scales := t.scales.filter fun e => nbits e.1 9 36 != nbits page 0 36 }

/-- The lines of a 64 KiB page leave the scale caches of the teams of an address space (09 R237, 17 R369). -/
def dropScalesOf (s : State) (gasid page : Nat) : State :=
  { s with teams := s.teams.map fun (e : Nat × Team) =>
      if e.1 / 65536 * 8192 + s.asidOf e.1 e.2 = gasid then (e.1, e.2.dropPageScales page) else e }

/-- Every device copy of a 64 KiB page's lines is flushed, those in instruction caches and scale caches with the rest
(17 R369, R376). -/
def flushPage (s : State) (gasid page : Nat) : State :=
  let s := dropScalesOf s gasid page
  let s := { s with icache := s.icache.filter fun e => !(nbits e.1 45 16 == gasid && nbits e.1 9 36 == nbits page 0 36) }
  (List.range 512).foldl (fun s k => flushLine s (lineKey gasid (page * 65536 + 128 * k))) s

/-- Copy byte o of one 64 KiB page to byte o of another, by physical byte addresses. -/
def copyPage (s : State) (loc : Nat) (src : Nat → Nat) (loc' : Nat) (dst : Nat → Nat) : State :=
  (List.range 65536).foldl (fun s o => physWrite s loc' (dst o) (physRead s loc (src o) 1)) s

/-- A leaf entry as the device writes it: reserved bits zero (00 R5, 17 R364). -/
def writtenPte (pte : Dword) : Dword := pte &&& 0xFF0FFFFFFFFF03DF

/-- The leaf entry moved to a new frame and location (17 R376). -/
def movedPte (pte : Dword) (frame loc : Nat) : Dword :=
  writtenPte (BitVec.ofNat 64 (nbits pte.toNat 52 12 * 2 ^ 52 + frame * 2 ^ 16 + nbits pte.toNat 8 8 * 2 ^ 8 + loc * 2 ^ 6
    + nbits pte.toNat 0 6))

/-- Set or clear NC in the leaf entry of a page, in device memory: its lines leave every cache first, and its
translations after (17 R369, R377). -/
def setNc (s : State) (pnum asid page : Nat) (nc : Bool) : State :=
  match walk s pnum asid none (page * 65536) with
  | .error _ => s
  | .ok lf =>
    let w := writtenPte (if nc then lf.pte ||| 0x100 else lf.pte &&& ~~~0x100)
    let s := flushPage s (pnum * 8192 + asid) page
    dropPageTlb (deviceWrite s 0 lf.at_ (bytesOf 8 w.toNat)) (pnum * 8192 + asid) page

/-- A page whose bytes have been copied is moved: its leaf entry is written, its translations are dropped and the move is noted
(17 R376, R377). -/
def relink (s : State) (a : Agent) (va : Nat) (pte : Dword) : Except (Nat × Nat) State :=
  match walk s a.pnum a.asid none va with
  | .error _ => .error (0x0A, 3)
  | .ok cur =>
    .ok (noteMove (dropPageTlb (deviceWrite s 0 cur.at_ (bytesOf 8 pte.toNat)) a.gasid (va / 65536)) (homeDie none va) a.gasid
      (va / 65536))

/-- The page that an access meets moves into frame f of device memory: its copies are flushed first (17 R376). -/
def pullInto (s : State) (a : Agent) (lf : Leaf) (va f : Nat) : Except (Nat × Nat) State :=
  let new : Leaf := { lf with pte := movedPte lf.pte f 0 }
  relink (copyPage (flushPage s a.gasid (va / 65536)) (pteLoc lf.pte) (fun o => 65536 * pteFrame lf.pte + o) 0
    (fun o => physOf none new (va / 65536 * 65536 + o))) a va new.pte

/-- A pull of the page that an access meets (17 R375-R377): settled in place, or moved into a frame of the pool, or
cause 0x0A subcode 3. -/
def pull (s : State) (a : Agent) (lf : Leaf) (va : Nat) : Except (Nat × Nat) State :=
  let page := va / 65536
  if moveSettles s a.gasid page then .ok (setNc s a.pnum a.asid page true)
  else
    match takeFrame s a.pnum with
    | .error _ => .error (0x0A, 3)
    | .ok (_, none) => .error (0x0A, 3)
    | .ok (s, some f) => pullInto s a lf va f

/-- An access that translates to a remote migratable page with NC clear (17 R375). -/
def pullNeeded (lf : Leaf) : Bool :=
  pteMig lf.pte && pteLoc lf.pte != 0 && !nbit lf.pte.toNat 8

/-- Where an access is performed (01 R16, 17 R362-R369, R375): a cached line, or after translation, a pull for a migratable
remote page, and the permission checks; or its fault, with the state as it is left: an access that fails a permission check
has started its pull all the same, since 17 R365 has the frame pool come first. -/
def place (s : State) (a : Agent) (k : AccKind) (va : Nat) : Except (State × Nat × Nat) (State × Place) :=
  if (klook s.lines (lineKey a.gasid va)).isSome then
    .ok (passCaches s a k (lineKey a.gasid va), .line (lineKey a.gasid va))
  else
    match regionLookup s a va with
    | (s1, pl) =>
      match translate s1 a pl va with
      | .error e => .error (s, if k == .fetch then (0x03, 0) else e)
      | .ok (s2, lf) =>
        if pullNeeded lf then
          match pull s2 a lf va with
          | .error e => .error (s, e)
          | .ok s3 => (placeStill s3 a k va).mapError fun e => (s3, e)
        else (placeLeaf s2 a k pl lf va).mapError fun e => (s, e)

/-! ### Accesses of any extent -/

/-- The pieces of a byte range that lie within one line each: offset in the range, address, length. -/
def pieces (va n : Nat) : List (Nat × Nat × Nat) :=
  (List.range (if n = 0 then 0 else ceilDiv (va % 128 + n) 128)).map fun k =>
    let lo := if k = 0 then va else va / 128 * 128 + 128 * k
    let hi := min (va + n) (va / 128 * 128 + 128 * (k + 1))
    (lo - va, lo, hi - lo)

/-- An access fault: cause, subcode and the address it was met at. -/
abbrev AccFault := Nat × Nat × Nat

/-- n bytes at a virtual address, checked as an access of a kind: the bytes, or the first fault with the state as it
stands. -/
def vreadAs (s : State) (a : Agent) (k : AccKind) (va n : Nat) : Except (State × AccFault) (State × List Byte) :=
  (pieces va n).foldl
    (fun acc p =>
      match acc with
      | .error e => .error e
      | .ok (s, bs) =>
        match place s a k p.2.1 with
        | .error (s, c, sub) => .error (s, c, sub, p.2.1)
        | .ok (s, pl) => .ok (noteRead s a pl p.2.1 p.2.2, bs ++ placeRead s pl p.2.1 p.2.2))
    (.ok (s, []))

/-- Read n bytes at a virtual address. -/
def vread (s : State) (a : Agent) (va n : Nat) : Except (State × AccFault) (State × List Byte) := vreadAs s a .read va n

/-- Write bytes at a virtual address: the pieces before a fault stay written. -/
def vwrite (s : State) (a : Agent) (va : Nat) (bs : List Byte) : Except (State × AccFault) State :=
  (pieces va bs.length).foldl
    (fun acc p =>
      match acc with
      | .error e => .error e
      | .ok s =>
        match place s a .write p.2.1 with
        | .error (s, c, sub) => .error (s, c, sub, p.2.1)
        | .ok (s, pl) => .ok (storeAt s a pl p.2.1 ((bs.drop p.1).take p.2.2)))
    (.ok s)

/-- A little-endian number of n bytes at a virtual address. -/
def vnat (s : State) (a : Agent) (va n : Nat) : Except (State × AccFault) (State × Nat) :=
  match vread s a va n with
  | .error e => .error e
  | .ok (s, bs) => .ok (s, natOfBytes bs)

/-- n bytes from an address that a device unit forms lie in the canonical range (07 R173). -/
def inRange (va n : Nat) : Bool :=
  decide (va + n ≤ 2 ^ 51) || (decide (2 ^ 64 - 2 ^ 51 ≤ va) && decide (va + n ≤ 2 ^ 64))

/-- One indivisible read-modify-write of n bytes within a line (07 R185): the old value and the state. -/
def vrmw (s : State) (a : Agent) (va n : Nat) (f : Nat → Nat) : Except (State × AccFault) (State × Nat) :=
  match place s a .rmw va with
  | .error (s, c, sub) => .error (s, c, sub, va)
  | .ok (s, pl) =>
    let old := natOfBytes (placeRead s pl va n)
    .ok (storeAt (noteRead s a pl va n) a pl va (bytesOf n (f old)), old)

/-- A read-modify-write by an operation that began when the lines listed were cached. -/
def vrmwOwn (s : State) (a : Agent) (known : List Nat) (va n : Nat) (f : Nat → Nat) :
    Except (State × AccFault) (State × Nat) :=
  match ownFault s a known .rmw va with
  | some (c, sub) => .error (s, c, sub, va)
  | none => vrmw s a va n f

/-- A write by an operation that began when the lines listed were cached. -/
def vwriteOwn (s : State) (a : Agent) (known : List Nat) (va : Nat) (bs : List Byte) :
    Except (State × AccFault) State :=
  match (pieces va bs.length).findSome? fun p => (ownFault s a known .write p.2.1).map fun e => (e, p.2.1) with
  | some ((c, sub), at_) => .error (s, c, sub, at_)
  | none => vwrite s a va bs

end Sys2Proof.Machine
end

