-- ==== Sys2Proof/Machine/Team.lean ====
section
/-!
DEFINITION. The registers of a team and the writes that instructions make to them, with the fixed registers of 03 R68;
paths, results in flight and asynchronous counters (02 R44-R57).
-/
namespace Sys2Proof.Machine

/-! ### Registers (03 R67, R68) -/

/-- Lane register r in a lane. -/
def Team.vr (t : Team) (r l : Nat) : Word := dget 0 t.v (r * 1024 + l)
/-- The lane pair at registers r and r + 1 in a lane. -/
def Team.wr (t : Team) (r l : Nat) : Dword := pairOf (t.vr r l) (t.vr (r + 1) l)
/-- Uniform register r; s0 reads zero. -/
def Team.sr (t : Team) (r : Nat) : Word := if r = 0 then 0 else dget 0 t.s r
/-- The uniform pair at registers r and r + 1; z0 reads zero. -/
def Team.zr (t : Team) (r : Nat) : Dword := if r = 0 then 0 else pairOf (t.sr r) (t.sr (r + 1))
/-- Lane predicate k in a lane; p7 is true. -/
def Team.pr (t : Team) (k l : Nat) : Bool := if k = 7 then true else (dget 0 t.p k).getLsbD l
/-- Uniform predicate k; q3 is true. -/
def Team.qr (t : Team) (k : Nat) : Bool := if k = 3 then true else t.q.getLsbD k

/-- One register write; s0, p7 and q3 discard it. -/
def Team.write (t : Team) (w : RegWrite) : Team :=
  match w with
  | .v r l x => { t with v := dput 0 t.v (r * 1024 + l) x }
  | .p k l x =>
    if k = 7 then t
    else
      let m := dget 0 t.p k
      let b : Mask := BitVec.twoPow 1024 l
      { t with p := dput 0 t.p k (if x then m ||| b else m &&& ~~~b) }
  | .s r x => if r = 0 then t else { t with s := dput 0 t.s r x }
  | .q k x =>
    if k = 3 then t
    else
      let b : BitVec 3 := BitVec.twoPow 3 k
      { t with q := if x then t.q ||| b else t.q &&& ~~~b }

/-- Register writes in order. -/
def Team.writes (t : Team) (ws : List RegWrite) : Team := ws.foldl Team.write t

/-- The two writes of a lane pair. -/
def wWrites (r l : Nat) (x : Dword) : List RegWrite := [.v r l (loWord x), .v (r + 1) l (hiWord x)]
/-- The two writes of a uniform pair; writes to z0 are discarded. -/
def zWrites (r : Nat) (x : Dword) : List RegWrite := if r = 0 then [] else [.s r (loWord x), .s (r + 1) (hiWord x)]

/-- Flags ORed into FST (04 R114). -/
def Team.orFst (t : Team) (flags : Word) : Team := { t with fst := t.fst ||| (flags &&& 0x7F) }

/-! ### Keys -/

/-- The partition of a team key. -/
def pnumOf (tk : Nat) : Nat := tk / 65536
/-- The TID of a team key (15 R320). -/
def tidOf (tk : Nat) : Nat := tk % 65536

/-- A team by its key. -/
def State.team (s : State) (tk : Nat) : Option Team := klook s.teams tk
/-- The state with a team record in place. -/
def State.setTeam (s : State) (tk : Nat) (t : Team) : State := { s with teams := kput s.teams tk t }
/-- Change the team with a key, if there is one. -/
def State.modTeam (s : State) (tk : Nat) (f : Team → Team) : State := { s with teams := kmod s.teams tk f }

/-- The agent of a team's own accesses (17 R357). -/
def teamAgent (s : State) (tk : Nat) (t : Team) : Agent :=
  { pnum := pnumOf tk, asid := s.asidOf tk t, sup := t.sup, die := t.core / 512, cluster := some (t.core / 8),
    team := some tk, own := true }

/-- The agent of the accesses that a unit makes for a team, which are in path order with nothing (08 R222). -/
def engineAgent (s : State) (tk : Nat) (t : Team) : Agent := { teamAgent s tk t with own := false }

/-! ### Paths -/

/-- A path of a team. -/
def Team.path (t : Team) (pi : Nat) : Option Path := klook t.paths pi
/-- Change a path of a team. -/
def Team.modPath (t : Team) (pi : Nat) (f : Path → Path) : Team := { t with paths := kmod t.paths pi f }
/-- Change a path in the state. -/
def State.modPath (s : State) (tk pi : Nat) (f : Path → Path) : State := s.modTeam tk fun t => t.modPath pi f

/-- The lowest free path index (02 R44). -/
def Team.freeIndex (t : Team) : Nat := lowestFree (t.paths.map Prod.fst) 64 0

/-- An issue is possible: ready and not held (02 R44, 18 R389). -/
def Path.canIssue (p : Path) : Bool := p.st == .ready && !p.hold

/-! ### Long results (02 R53, R54) -/

/-- A write of this lane set, or a uniform write that the path waits for. -/
def writeConcerns (m : Mask) (owned : Bool) : RegWrite → Bool
  | .v _ l _ | .p _ l _ => m.getLsbD l
  | .s _ _ | .q _ _ => owned

/-- The access writes a register, so that a switch marker waits for it (07 R178). -/
def Access.writesRegister : Access → Bool
  | .load _ _ => true
  | .store _ => false
  | .atomic _ _ _ dst _ => dst.isSome
  | .loadU _ _ => true
  | .waitc _ _ _ => false
  | .launch => false
  | .fetch => false
  | .walker fn _ _ _ => fn == 0 || fn == 1 || fn == 4 || fn == 5
  | .list fn _ _ _ => fn == 1

/-- An acquire: an atomic that reads with an ordering that includes acquire, or any sc atomic (07 R186, 08 R209, R217). -/
def Access.acquire : Access → Bool
  | .atomic op os _ _ _ => os / 5 == 4 || (op != 15 && (os / 5 == 1 || os / 5 == 3))
  | .waitc _ _ _ => true
  | _ => false

/-- A release: an atomic that writes with an ordering that includes release, or any sc atomic (08 R209, R217). -/
def Access.release : Access → Bool
  | .atomic op os _ _ _ => os / 5 == 4 || (op != 14 && (os / 5 == 2 || os / 5 == 3))
  | _ => false

/-- An sc operation (08 R217). -/
def Access.sc : Access → Bool
  | .atomic _ os _ _ _ => os / 5 == 4
  | _ => false

/-- An access that the cases of 08 R209 do not order: an engine's, a list operation's, an instruction fetch, or the
processor's read of a launch block (10 R258, 12 R305, 07 R196). -/
def Access.engine : Access → Bool
  | .walker fn _ _ _ => fn == 2 || fn == 6 || fn == 7
  | .list _ _ _ _ => true
  | .launch => true
  | .fetch => true
  | _ => false

/-- An access of 08 R209 that has not been performed and whose instruction was issued earlier than a point. -/
def Replay.earlier (r : Replay) (upTo : Nat) : Bool := !r.access.engine && decide (r.issued < upTo)

/-- Every access that the team issued before a point has been performed; engine accesses and list operations are excepted
(07 R189, 08 R222, 12 R305). -/
def Team.performedTo (t : Team) (upTo : Nat) : Bool := t.replay.all fun r => !r.earlier upTo

/-- Every earlier access of the team has been performed (07 R190). -/
def Team.performed (t : Team) : Bool := t.replay.all fun r => r.access.engine

/-- A path follows every access that is still to be performed: it has passed a team-wide point (08 R208). -/
def Team.follow (t : Team) (pi : Nat) : Team :=
  { t with replay := t.replay.map fun (r : Replay) =>
      { r with before := if r.before.contains pi then r.before else r.before ++ [pi] } }

/-- The bytes that an entry's lanes may touch meet n bytes at an address. What a walk touches is not known before it is
made, so it meets every address (log 42). -/
def Replay.meets (r : Replay) (width : Access → Nat) (a n : Nat) : Bool :=
  match r.access with
  | .walker _ _ _ _ => true
  | acc => r.lanes.any fun q => decide (q.addr.toNat < a + n) && decide (a < q.addr.toNat + width acc)

/-- The team's lines leave its engine's scale cache (09 R237). -/
def Team.dropScales (t : Team) : Team := { t with scales := [] }

/-- The codes of the asynchronous paths (03 R80). -/
def LD : Nat := 0
def SP : Nat := 1
def CP : Nat := 2
def MX : Nat := 3
def VW : Nat := 4
def AL : Nat := 5
def PA : Nat := 6
def FR : Nat := 7

/-- The register writes of an engine command, counted on AL: no long result of a path (02 R54, 10 R258). -/
def Team.engineResult (t : Team) (r : LongRes) : Bool := t.ops.any fun o => o.apath == AL && some o.id == r.op

/-- The path has a long result outstanding: one in flight, or one that a fault holds back. -/
def Team.outstanding (t : Team) (pi : Nat) (m : Mask) : Bool :=
  t.long.any (fun r => !t.engineResult r && r.writes.any (writeConcerns m (r.owners.contains pi)))
    || t.replay.any fun r =>
      r.access.writesRegister &&
        (if r.uniform then r.owners.contains pi else r.lanes.any fun q => m.getLsbD q.lane)

/-- Paths parked at a switch marker with no long result outstanding return to ready (02 R54). -/
def Team.unpark (t : Team) : Team :=
  { t with paths := t.paths.map fun (e : Nat × Path) =>
      if e.2.st == .parked && !t.outstanding e.1 e.2.mask then (e.1, { e.2 with st := .ready }) else e }

/-- The path moves past an instruction of len bytes and, when that carries the marker and results are outstanding,
parks (02 R54). -/
def Team.pass (t : Team) (pi len : Nat) (mark : Bool) : Team :=
  t.modPath pi fun p =>
    { p with pc := p.pc + BitVec.ofNat 64 len, mark := false,
             st := if mark && t.outstanding pi p.mask then .parked else .ready }

/-- A wait of one path ends: it moves past its 4-byte instruction (02 R57). -/
def Team.resume (t : Team) (pi : Nat) : Team :=
  match t.path pi with
  | some p => t.pass pi 4 p.mark
  | none => t

/-- The path begins to wait at its instruction. -/
def Team.park (t : Team) (pi : Nat) (st : PathState) (mark : Bool) : Team :=
  t.modPath pi fun p => { p with st := st, mark := mark }

/-- A long result joins those in flight; with no writes there is nothing to wait for, and its flags are in FST. -/
def Team.addLong (t : Team) (op : Option Nat) (owners : List Nat) (ws : List RegWrite) (flags : Word) : Team :=
  if ws.isEmpty then t.orFst flags
  else { t with long := t.long ++ [{ op := op, owners := owners, writes := ws, flags := flags }] }

/-- A write belongs to a lane: none stands for every write of the result. -/
def writeOfLane (lane : Option Nat) : RegWrite → Bool
  | .v _ l _ | .p _ l _ => lane == none || lane == some l
  | .s _ _ | .q _ _ => lane == none

/-- A result in flight with only the writes that are kept; with none it is no longer in flight. Its flags are in FST from
its first return on, and not earlier: so a path whose own lanes have their results finds their flags there (04 R115; that
flags come no earlier than a result is log 44's choice). -/
def Team.keepWrites (t : Team) (k : Nat) (r : LongRes) (rest : List RegWrite) : Team :=
  ({ t with long := if rest.isEmpty then dropAt t.long k else setAt t.long k { r with writes := rest } }).orFst r.flags

/-- The k-th result in flight returns for one lane, or whole (02 R53). -/
def Team.returnLong (t : Team) (k : Nat) (lane : Option Nat) : Team :=
  match t.long[k]? with
  | none => t
  | some r =>
    ((t.writes (r.writes.filter (writeOfLane lane))).keepWrites k r
      (r.writes.filter fun w => !writeOfLane lane w)).unpark

/-- A write to a register of one of these lanes. -/
def writeInLanes (m : Mask) : RegWrite → Bool
  | .v _ l _ | .p _ l _ => m.getLsbD l
  | .s _ _ | .q _ _ => false

/-- The results in flight for some lanes are discarded (05 R141); a result with none left has completed. -/
def Team.discardLong (t : Team) (m : Mask) : Team :=
  let kept := t.long.map fun (r : LongRes) => { r with writes := r.writes.filter fun w => !writeInLanes m w }
  let gone := (kept.filter fun r => r.writes.isEmpty).foldl (fun f r => f ||| r.flags) 0
  ({ t with long := kept.filter fun r => !r.writes.isEmpty }).orFst gone

/-! ### Asynchronous paths (02 R56, R57) -/

/-- The counter of an asynchronous path: its operations in flight. -/
def Team.counter (t : Team) (a : Nat) : Nat := (t.ops.filter fun o => o.apath == a).length

/-- An operation joins a counter. -/
def Team.addOp (t : Team) (id a : Nat) : Team := { t with ops := t.ops ++ [{ id := id, apath := a, done := false }] }

/-- The operations of path a without its completed ones at the front: completions are taken in issue order. -/
def dropDone (a : Nat) : List AsyncOp → List AsyncOp
  | [] => []
  | o :: t => if o.apath = a then (if o.done then dropDone a t else o :: t) else o :: dropDone a t

/-- Counting paths whose counter has reached their bound move past their waitn (02 R57). -/
def Team.wakeCounting (t : Team) : Team :=
  t.paths.foldl
    (fun (t' : Team) (e : Nat × Path) =>
      match e.2.st with
      | .counting a b => if t'.counter a ≤ b then (t'.resume e.1).dropScales else t'
      | _ => t') t

/-- An operation has completed: it leaves its counter once every older operation of its path has. -/
def Team.finishOp (t : Team) (id : Nat) : Team :=
  match t.ops.find? fun o => o.id == id with
  | none => t
  | some o =>
    let ops := t.ops.map fun x => if x.id = id then { x with done := true } else x
    { t with ops := dropDone o.apath ops }.wakeCounting

/-- An operation counted on LD, SP or VW has every result back and no lane held by a fault. -/
def Team.opSettled (t : Team) (id : Nat) : Bool :=
  !(t.long.any fun r => r.op == some id) && !(t.replay.any fun r => r.op == some id)

end Sys2Proof.Machine
end

