-- ==== Sys2Proof/Machine/Ops.lean ====
section
/-!
DEFINITION. The shared operations of the machine: who issues, taking a trap and returning from one (15 R321, R324,
18 R379-R384), ending and retiring grids (02 R29, R33, 13 R313), branches and splits (02 R45), replay state (07 R178).
-/
namespace Sys2Proof.Machine

/-- The outcome type of a step. -/
abbrev Out := Host.Outcome State Fault Refusal

/-! ### Interrupts and alerts (20 R402, R403) -/

/-- A vector fires. -/
def fireVector (s : State) (n : Nat) : State := { s with irqs := s.irqs ++ [n] }

/-- A bit of ALERT is set; it raises vector 0 when ALERTEN lets it. -/
def setAlert (s : State) (bit : Nat) : State :=
  let h := s.host
  let s := { s with host := { h with alert := h.alert ||| BitVec.twoPow 8 bit } }
  if h.alerten.getLsbD bit then fireVector s 0 else s

/-- An answer goes to the outside: an error, or bytes that may be poisoned (20 R400, R415, R421, R422). -/
def State.answer (s : State) (error poisoned : Bool) (bytes : List Byte) : State :=
  { s with answers := s.answers ++ [{ error := error, poisoned := poisoned, bytes := bytes }] }

/-! ### The issuing path -/

/-- The team and path that are issuing. -/
structure Issuer where
  tk : Nat
  t : Team
  pi : Nat
  path : Path
  deriving DecidableEq, Repr

/-- The issuing path, when there is one. -/
def State.issuer (s : State) : Option Issuer :=
  match s.cur with
  | none => none
  | some (tk, pi) =>
    match s.team tk with
    | none => none
    | some t =>
      match t.path pi with
      | none => none
      | some p => some { tk := tk, t := t, pi := pi, path := p }

/-- The meaning of an encoded instruction for the path that issues it. -/
def withIssuer (s : State) (f : Issuer → State) : Out :=
  match s.issuer with
  | none => .fault .noIssuer
  | some x => .next (f x)

/-- The issuing path moves past its instruction (02 R54). -/
def State.pass (s : State) (x : Issuer) (len : Nat) (mark : Bool) : State :=
  s.modTeam x.tk fun t => t.pass x.pi len mark

/-- The issuing path waits at its instruction. -/
def State.park (s : State) (x : Issuer) (st : PathState) (mark : Bool) : State :=
  s.modTeam x.tk fun t => t.park x.pi st mark

/-- A wait of one path ends. -/
def State.resume (s : State) (tk pi : Nat) : State := s.modTeam tk fun t => t.resume pi

/-- The agent of the issuing team. -/
def Issuer.agent (x : Issuer) (s : State) : Agent := teamAgent s x.tk x.t
/-- The agent of what a unit accesses for the issuing team at issue. -/
def Issuer.engine (x : Issuer) (s : State) : Agent := engineAgent s x.tk x.t

/-! ### Predicates and acting lanes (03 R64, R65, 02 R58) -/

/-- The lanes in which a lane predicate, inverted by N, holds. -/
def predMask (t : Team) (h : Hdr) : Mask :=
  let m : Mask := if h.p = 7 then BitVec.allOnes 1024 else dget 0 t.p h.p.toNat
  if h.n then ~~~m else m

/-- The acting lanes: active in the issuing path, with the predicate true (05 acts(l)). -/
def Issuer.acts (x : Issuer) (h : Hdr) : Mask := x.path.mask &&& predMask x.t h

/-- The acting lanes in ascending order. -/
def Issuer.lanes (x : Issuer) (h : Hdr) : List Nat := lanesOf x.t.width (x.acts h)

/-- A uniform instruction acts (05 uacts()). -/
def Issuer.uacts (x : Issuer) (h : Hdr) : Bool := xor (if h.p = 7 then true else x.t.qr h.p.toNat) h.n

/-- The elected lane: the lowest acting lane (02 R58). -/
def Issuer.elected (x : Issuer) (h : Hdr) : Option Nat := (x.lanes h).head?

/-! ### Grids -/

/-- A grid by its key. -/
def State.grid (s : State) (g : Nat) : Option Grid := klook s.grids g
/-- Change a grid. -/
def State.modGrid (s : State) (g : Nat) (f : Grid → Grid) : State := { s with grids := kmod s.grids g f }

/-- The agent of the device's own accesses for a grid (02 R29, R36; log 20). -/
def gridAgent (s : State) (gid : Nat) (g : Grid) : Agent :=
  { supAgent s (gid / 65536) with asid := g.asid, sup := false }

/-- A grid and its descendants: d rounds of adding children (02 R28). -/
def withChildren (s : State) : Nat → List Nat → List Nat
  | 0, ids => ids
  | d + 1, ids =>
    let more := (s.grids.filter fun e => match e.2.parent with
      | some p => ids.contains p && !ids.contains e.1
      | none => false).map Prod.fst
    withChildren s d (ids ++ more)

/-- The grid and every descendant, deepest first. -/
def familyOf (s : State) (gid : Nat) : List Nat :=
  let ids := withChildren s 10 [gid]
  (List.range 11).foldl
    (fun acc k => acc ++ ids.filter fun i => match s.grid i with
      | some g => g.depth == 10 - k
      | none => false) []

/-- The bytes of an error record over what its COUNT held (02 R33). -/
def errorRecord (g : Grid) (e : ErrInfo) (oldCount : Nat) : List Byte :=
  bytesOf 2 e.cause ++ bytesOf 2 g.retry ++ bytesOf 4 e.cohort ++ bytesOf 8 e.pc.toNat ++ bytesOf 8 e.addr.toNat
    ++ bytesOf 2 e.team ++ bytesOf 2 e.lane ++ bytesOf 4 (min (oldCount + g.errCount) 0xFFFFFFFF)

/-- The error record of a grid is written, unless ERREC is 0 or misaligned (02 R32, R33). -/
def writeErrorRecord (s : State) (gid : Nat) (g : Grid) (e : ErrInfo) : State :=
  if g.lpb.errec = 0 ∨ g.lpb.errec.toNat % 32 ≠ 0 then s
  else
    let a := gridAgent s gid g
    let known := s.cached
    match vnat s a (g.lpb.errec.toNat + 28) 4 with
    | .error (s, _) => s
    | .ok (s, old) =>
      match vwriteOwn s a known g.lpb.errec.toNat (errorRecord g e old) with
      | .error (s, _) => s
      | .ok s => s

/-- The completion counter of a grid is raised by 1 (02 R29). -/
def completeGrid (s : State) (gid : Nat) (g : Grid) : State :=
  if g.lpb.done.toNat % 8 ≠ 0 then s
  else
    match vrmw s (gridAgent s gid g) g.lpb.done.toNat 8 (fun n => n + 1) with
    | .error (s, _) => s
    | .ok (s, _) => s

/-- A grid retires: its error record if it ended with an error, then its completion increment (02 R29). -/
def retireGrid (s : State) (gid : Nat) : State :=
  match s.grid gid with
  | none => s
  | some g =>
    let s := match g.error with
      | some e => writeErrorRecord s gid g e
      | none => s
    let s := completeGrid s gid g
    { s with grids := kdel s.grids gid,
             parts := kmod s.parts (gid / 65536) fun p =>
               { p with procs := p.procs.map fun (e : Nat × Proc) =>
                   (e.1, { e.2 with pending := e.2.pending.filter fun i => i != gid }) } }

/-! ### Ending teams (13 R313) -/

/-- Tokens that a team and its commands hold go back to the partition (16 R347). -/
def tokensOf (s : State) (tk : Nat) : Nat :=
  (match s.team tk with
   | some t => if t.token then 1 else 0
   | none => 0) + (s.cmds.filter fun c => c.tk == tk && c.token).length

/-- Who waits is one of some teams. -/
def waiterOf (tks : List Nat) (w : Waiter) : Bool := match w.who with
  | .team k => tks.contains k
  | .queue _ _ => false

/-- Commands that are dropped wait at no ring any more (12 R310). -/
def leaveRings (s : State) (ids : List Nat) : State :=
  { s with rings := s.rings.map fun (e : Nat × Ring) =>
      (e.1, { e.2 with pushers := e.2.pushers.filter fun i => !ids.contains i,
                       poppers := e.2.poppers.filter fun i => !ids.contains i }) }

/-- Everything that the device keeps for a team outside its record is dropped: commands, waits, fills, mailbox writes,
token requests and tokens, ring and array commands. -/
def dropTeamWork (s : State) (tk : Nat) : State :=
  let mine := (s.cmds.filter fun c => c.tk == tk).map Cmd.id
  let back := tokensOf s tk
  let s := leaveRings { s with
    cmds := s.cmds.filter fun c => c.tk != tk,
    waits := s.waits.filter fun w => !waiterOf [tk] w,
    fills := s.fills.filter fun f => f.tk != tk,
    replies := s.replies.filter fun r => r.tk != tk,
    ghosts := s.ghosts.filter fun g => g.tk != tk && g.reused.map Prod.fst != some tk,
    mails := s.mails.filter fun m => m.1 != tk } mine
  s.modPart (pnumOf tk) fun p =>
    { p with tokenHeld := p.tokenHeld - back,
             tokenReqs := p.tokenReqs.filter fun r => !(if r.1 then mine.contains r.2 else r.2 == tk),
             svPending := p.svPending.filter fun e => !mine.contains e.1,
             peuri := { p.peuri with queue := p.peuri.queue.filter fun i => !mine.contains i } }

/-- A team's own state when it stops for good: no path, no wait, nothing outstanding. -/
def Team.close (t : Team) (ended : Bool) : Team :=
  { t with paths := [], wait := .none, scales := [], ops := [], long := [], replay := [], expired := [], live := false,
           ended := ended, token := false, tokenAsked := false }

/-- A team is ended at the point where it stands (13 R313). -/
def endTeam (s : State) (tk : Nat) : State := (dropTeamWork s tk).modTeam tk fun t => t.close true

/-- The teams of the grids that a test names in a context, by their keys. -/
def Context.teamsOf (x : Context) (which : Nat → Bool) : List Nat := (x.teams.filter fun e => which e.2.gid).map Prod.fst

/-- A context without some teams and without the cohorts that a test names. -/
def Context.dropTeams (x : Context) (tks : List Nat) (cohort : Nat × Cohort → Bool) : Context :=
  { x with teams := x.teams.filter fun e => !tks.contains e.1, cohorts := x.cohorts.filter fun e => !cohort e,
           cmds := x.cmds.filter fun d => !tks.contains d.tk, waits := x.waits.filter fun w => !waiterOf tks w,
           mails := x.mails.filter fun m => !tks.contains m.1 }

/-- A context without what it holds of the grids that a test names. -/
def Context.withoutGrids (x : Context) (which : Nat → Bool) : Context :=
  x.dropTeams (x.teamsOf which) fun e => which e.2.gid

/-- The commands of some teams in a context. -/
def Context.idsOf (x : Context) (tks : List Nat) : List Nat := (x.cmds.filter fun d => tks.contains d.tk).map Cmd.id

/-- The contexts in cellars, and in images from which no fill has brought them back. -/
def storedContexts (s : State) : List Context :=
  s.parts.filterMap (fun e => e.2.cellar) ++ (s.images.filter fun e => s.away.contains e.1).map Prod.snd

/-- Change every stored context. -/
def State.modStored (s : State) (f : Context → Context) : State :=
  { s with
    images := s.images.map fun (e : Nat × Context) => (e.1, f e.2),
    parts := s.parts.map fun (e : Nat × Part) => (e.1, { e.2 with cellar := e.2.cellar.map f }) }

/-- Stored teams that end leave no command at a ring, and no trace of a leaf that a vdel of theirs has unlinked or a vins of
theirs has reused (10 R270, 12 R310). -/
def forgetStored (s : State) (tks ids : List Nat) : State :=
  leaveRings
    { s with ghosts := s.ghosts.filter fun g => !tks.contains g.tk && !(g.reused.any fun r => tks.contains r.1) } ids

/-- The teams of the grids that a test names leave every stored context, with their commands: R313 applies there too
(13 R313, 15 R327, R335). -/
def dropStored (s : State) (which : Nat → Bool) : State :=
  let xs := storedContexts s
  (forgetStored s (xs.flatMap fun x => x.teamsOf which) (xs.flatMap fun x => x.idsOf (x.teamsOf which))).modStored
    fun x => x.withoutGrids which

/-- The cohorts of a grid leave the device with their teams' reservations, wherever their context stands (07 R175,
13 R313). -/
def dropCohorts (s : State) (gid : Nat) : State :=
  let tks := (s.teams.filter fun e => e.2.gid == gid && !e.2.sup).map Prod.fst
  let s := tks.foldl endTeam s
  dropStored
    { s with teams := s.teams.filter fun e => !(e.2.gid == gid && !e.2.sup),
             cohorts := s.cohorts.filter fun e => e.2.gid != gid } fun g => g == gid

/-- End the grids listed, in order, each with its error information (18 R383): its teams stop, its error record is
written and its completion counter raised. -/
def endGrids (s : State) (ids : List Nat) (info : State → Nat → ErrInfo × Nat) : State :=
  let marked := ids.map fun i => (i, info s i)
  let s := ids.foldl dropCohorts s
  marked.foldl
    (fun s m =>
      let s := s.modGrid m.1 fun g => { g with error := some m.2.1, errCount := g.errCount + m.2.2, claiming := [],
                                               unplaced := [] }
      retireGrid s m.1) s

/-- The lane that an error record names for a trap: the lowest of its mask, 0xFFFF when it is empty. -/
def trapLane (t : Team) (m : Mask) : Nat := (lanesOf t.width m).headD 0xFFFF

/-- A trap as an error record tells it (02 R33, 07 R177). -/
def errOfTrap (t : Team) (tr : Trap) : ErrInfo :=
  { cause := tr.cause, cohort := t.cohort, pc := tr.pc, addr := tr.addr, team := t.team,
    lane := trapLane t tr.mask }

/-- FL bits of an access beside precise and resumable: team-level, uniform (18 R381). -/
def Access.fl : Access → BitVec 8
  | .loadU _ _ => 16
  | .waitc _ _ _ => 8
  | .launch => 8
  | _ => 0

/-- The replay entry as a trap: the unfinished lanes, at the lowest one's address; a uniform load has no lane mask
(07 R178, R183). -/
def Replay.asTrap (r : Replay) : Trap :=
  { cause := r.cause, sub := r.sub, pc := r.pc, addr := (r.lanes.head?.map LaneReq.addr).getD 0, path := r.path,
    mask := if r.access.fl = 16 then 0 else maskOf (r.lanes.map LaneReq.lane), fl := r.access.fl ||| 2, code := 0,
    time := r.time, seq := r.seq }

/-- The standing traps of a team among whose partition's commands its own are: of its paths, its replay state, its counts
and its commands (18 R383). -/
def standing (cmds : List Cmd) (tk : Nat) (t : Team) : List Trap :=
  t.paths.filterMap (fun e => e.2.trap) ++ t.replay.map Replay.asTrap ++ t.expired
    ++ (cmds.filter fun c => c.tk == tk).filterMap Cmd.stop

/-- A user team with its standing traps. -/
structure TrapHolder where
  tk : Nat
  t : Team
  traps : List Trap
  deriving DecidableEq, Repr

/-- The user teams among some that belong to a grid and have standing traps. -/
def trappedIn (gid : Nat) (cmds : List Cmd) (teams : List (Nat × Team)) : List TrapHolder :=
  (teams.map fun e => { tk := e.1, t := e.2, traps := standing cmds e.1 e.2 : TrapHolder }).filter fun e =>
    e.t.gid == gid && !e.t.sup && !e.traps.isEmpty

/-- The trap of an expired count stands (15 R333). -/
def Team.hasExpired (t : Team) (cause : Nat) : Bool := t.expired.any fun tr => tr.cause == cause

/-- The oldest of some traps. -/
def oldest (l : List Trap) : Option Trap :=
  l.foldl (fun acc x => match acc with
    | some y => if x.seq < y.seq then some x else some y
    | none => some x) none

/-- The teams of a grid with standing traps, ascending TID, wherever their context stands (15 R327, 18 R383). -/
def trappedTeams (s : State) (gid : Nat) : List TrapHolder :=
  sortBy TrapHolder.tk
    (trappedIn gid s.cmds s.teams ++ (storedContexts s).flatMap fun x => trappedIn gid x.cmds x.teams)

/-- The number of cohorts of a grid that hold a standing trap (18 R383). -/
def trappedCohorts (s : State) (gid : Nat) : Nat := ((trappedTeams s gid).map fun e => e.t.cid).eraseDups.length

/-- What the error record of a grid ended by GEND says: the noted first error, the oldest standing trap of the named
team, that of the lowest TID that has one, or the given cause; and what its COUNT rises by (18 R383). -/
def gendInfo (named : Option Nat) (cause : Nat) (s : State) (gid : Nat) : ErrInfo × Nat :=
  let none' : ErrInfo := { cause := if cause = 0 then 0x1E else cause, cohort := 0xFFFFFFFF, pc := 0, addr := 0,
                           team := 0xFFFF, lane := 0xFFFF }
  let trapped := trappedTeams s gid
  let ofTeam (e : TrapHolder) : Option ErrInfo := (oldest e.traps).map (errOfTrap e.t)
  let noted := match s.grid gid with
    | some g => g.noted
    | none => none
  let byName := (trapped.find? fun e => named == some e.tk).bind ofTeam
  let byTid := trapped.head?.bind ofTeam
  ((noted.orElse fun _ => byName.orElse fun _ => byTid).getD none', max 1 (trappedCohorts s gid))

/-- End a grid and every descendant, deepest first, as a write of GEND does (18 R383). -/
def gend (s : State) (gid : Nat) (named : Option Nat) (cause : Nat) : State :=
  endGrids s (familyOf s gid) (gendInfo named cause)

/-! ### The trap queue (15 R324) -/

/-- TQPTR fields. -/
def tqSizeLog (w : Word) : Nat := let n := nbits w.toNat 24 4; if 4 ≤ n ∧ n ≤ 12 then n else 12
def tqTail (w : Word) : Nat := nbits w.toNat 12 12
def tqHead (w : Word) : Nat := nbits w.toNat 0 12
/-- TQPTR with new TAIL and HEAD. -/
def tqPut (w : Word) (tail head : Nat) : Word :=
  (w &&& 0xFF000000) ||| BitVec.ofNat 32 (tail % 4096 * 4096 + head % 4096)

/-- Records in the queue. -/
def tqCount (w : Word) : Nat := (tqTail w + 2 ^ tqSizeLog w - tqHead w) % 2 ^ tqSizeLog w

/-- One record is written and TAIL advanced, with TAILCOPY: none when there is no room or a write faults (15 R324). A SIZELOG
lowered below indices that HEAD and TAIL hold leaves them as they are, and the next record goes to the slot that TAIL names:
the spec does not say what becomes of them (DESIGN CHOICE, log 55). -/
def tqWrite (s : State) (pn : Nat) (rec : List Byte) : Option State :=
  let p := s.part pn
  let base := p.reg64 0x09
  let w := p.reg 0x0B
  if base = 0 ∨ 2 ^ tqSizeLog w - 1 ≤ tqCount w then none
  else
    let a := supAgent s pn
    match vwrite s a (base + 64 * (tqTail w + 1)) rec with
    | .error _ => none
    | .ok s =>
      let tail := (tqTail w + 1) % 2 ^ tqSizeLog w
      match vwrite s a base (bytesOf 4 tail) with
      | .error _ => none
      | .ok s => some (s.modPart pn fun p => p.setReg 0x0B (tqPut w tail (tqHead w)))

/-- A write of the oldest record would fault: the queue has room and a base, and is not written. -/
def tqStuck (s : State) (pn : Nat) : Bool :=
  let p := s.part pn
  p.reg64 0x09 != 0 && decide (tqCount (p.reg 0x0B) < 2 ^ tqSizeLog (p.reg 0x0B) - 1)

/-- Held records are written in order, as far as there is room: n at most. -/
def tqFlush (s : State) (pn : Nat) : Nat → State
  | 0 => s
  | n + 1 =>
    match (s.part pn).heldRecs with
    | [] => s
    | r :: rest =>
      match tqWrite s pn r with
      | some s' => tqFlush (s'.modPart pn fun p => { p with heldRecs := rest }) pn n
      | none => s.modPart pn fun p => { p with heldStuck := tqStuck s pn }

/-- Write the held records that fit. -/
def tqRelease (s : State) (pn : Nat) : State := tqFlush s pn (s.part pn).heldRecs.length

/-- A record is delivered, or held back with OVF set behind those held before it (15 R324). -/
def tqDeliver (s : State) (pn : Nat) (rec : List Byte) : State :=
  let hold (s : State) : State := s.modPart pn fun p =>
    { p.setReg 0x0B (p.reg 0x0B ||| 0x80000000) with heldRecs := p.heldRecs ++ [rec] }
  if (s.part pn).heldRecs.isEmpty then
    match tqWrite s pn rec with
    | some s => s
    | none => (hold s).modPart pn fun p => { p with heldStuck := tqStuck s pn }
  else hold s

/-! ### Trap records (18 R381) -/

/-- The lowest pass of a mask, 0xFF when it is empty. -/
def passOf (m : Mask) : Nat := (((List.range 32).find? fun j => maskWord m j != 0)).getD 0xFF

/-- The 64 bytes of a record of kind 1 or 3. -/
def trapRecord (kind : Nat) (tk : Nat) (t : Team) (tr : Trap) : List Byte :=
  bytesOf 1 kind ++ bytesOf 1 tr.cause ++ bytesOf 1 tr.sub ++ bytesOf 1 tr.fl.toNat ++ bytesOf 2 (tidOf tk)
    ++ bytesOf 1 tr.path ++ bytesOf 1 (passOf tr.mask) ++ bytesOf 8 tr.pc.toNat ++ bytesOf 8 tr.addr.toNat
    ++ bytesOf 2 (t.gid % 65536) ++ bytesOf 2 t.team ++ bytesOf 4 t.cohort ++ bytesOf 2 (trapLane t tr.mask)
    ++ bytesOf 2 (lanesOf t.width tr.mask).length ++ bytesOf 4 (summary tr.mask).toNat
    ++ bytesOf 4 (if passOf tr.mask = 0xFF then 0 else (maskWord tr.mask (passOf tr.mask)).toNat)
    ++ bytesOf 4 tr.code.toNat ++ bytesOf 8 tr.time.toNat ++ bytesOf 8 0

/-- The causes whose trap marks its grid failed (18 R378, R383). -/
def nonResumable (cause sub : Nat) : Bool :=
  !(cause == 0x04 || cause == 0x07 || cause == 0x0A || cause == 0x0B || cause == 0x13 || cause == 0x14
    || cause == 0x17 || cause == 0x1B || cause == 0x1C || (cause == 0x03 && sub != 2))

/-- The grid of a team is marked failed, with its first error noted (18 R383). -/
def noteFailure (s : State) (t : Team) (tr : Trap) : State :=
  if nonResumable tr.cause tr.sub then
    s.modGrid t.gid fun g =>
      { g with failed := true, noted := g.noted.orElse fun _ => some (errOfTrap t tr) }
  else s

/-! ### The supervisor (15 R318, R321, 18 R384) -/

/-- The key of a partition's supervisor team: TID 0 (15 R320). -/
def supKey (pn : Nat) : Nat := pn * 65536

/-- The engine commands of paths that have merged belong to the path that they have become, and so do the supervisor's traps
of such commands that wait to be taken, whose commands may have completed meanwhile (02 R47, 19 R398). -/
def renameCmds (s : State) (tk : Nat) (old : List Nat) (new : Nat) : State :=
  let s := { s with cmds := s.cmds.map fun c => if c.tk = tk ∧ old.contains c.path then { c with path := new } else c }
  if tk = supKey (pnumOf tk) then
    s.modPart (pnumOf tk) fun p => { p with
      svPending := p.svPending.map fun e => if old.contains e.2.path then (e.1, { e.2 with path := new }) else e }
  else s

/-- The partition has a supervisor that has not failed: only its failure halts it (15 R319, R321). -/
def hasSupervisor (s : State) (pn : Nat) : Bool :=
  match s.team (supKey pn) with
  | some t => t.sup && t.live && !t.halted
  | none => false

/-- A partition left without a supervisor ends every grid that is failed or holds a standing trap (18 R384). -/
def sweepFailed (s : State) (pn : Nat) : State :=
  (s.grids.filter fun e => e.1 / 65536 == pn).foldl
    (fun s e =>
      match s.grid e.1 with
      | some g => if g.failed || !(trappedTeams s e.1).isEmpty then gend s e.1 none 0 else s
      | none => s) s

/-- The supervisor fails: it stops where it stands, and the host is told (15 R321, 20 R404). -/
def failSupervisor (s : State) (pn reason cause : Nat) (pc : Dword) : State :=
  let s := s.modPart pn fun p =>
    { p with svFailed := true, svReason := BitVec.ofNat 3 reason, svCause := BitVec.ofNat 8 cause, svPc := pc }
  let s := s.modTeam (supKey pn) fun t => { t with halted := true }
  sweepFailed (fireVector (setAlert s 4) (1 + pn)) pn

/-- A trap of the supervisor enters its handler, or fails it (15 R321): EPC, ECAUSE, EADDR and INH are written, the
path goes on at TVEC, and every other path is held until tret. -/
def supervisorTrap (s : State) (tk pi cause sub : Nat) (epc addr : Dword) : State :=
  let pn := pnumOf tk
  let p := s.part pn
  if p.reg 0x01 &&& 1 = 0 ∧ p.reg64 0x02 ≠ 0 then
    let s := s.modPart pn fun p =>
      (((p.setReg64 0x04 epc).setReg 0x06 (BitVec.ofNat 32 (sub % 256 * 256 + cause % 64))).setReg64 0x07 addr).setReg
        0x01 1
    s.modTeam tk fun t =>
      { t with paths := t.paths.map fun (e : Nat × Path) =>
          if e.1 = pi then (e.1, { e.2 with pc := BitVec.ofNat 64 (p.reg64 0x02), st := .ready, mark := false })
          else (e.1, { e.2 with hold := true }) }
  else failSupervisor s pn 1 (cause % 64) epc

/-- The return from a supervisor trap (15 R336): INH is cleared, the held paths return to ready, and the path goes on
at EPC. An EPC that software has made odd is taken as it is, and the fetch begins at that byte: R61 puts every
instruction at an even address and names no outcome for an odd one, which is the model's choice (log 47). -/
def supervisorReturn (s : State) (tk pi : Nat) : State :=
  let pn := pnumOf tk
  let epc := BitVec.ofNat 64 ((s.part pn).reg64 0x04)
  let s := s.modPart pn fun p => p.setReg 0x01 0
  s.modTeam tk fun t =>
    { t with paths := t.paths.map fun (e : Nat × Path) =>
        if e.1 = pi then (e.1, { e.2 with pc := epc, st := .ready })
        else (e.1, { e.2 with hold := false }) }

/-! ### Taking a trap (18 R379-R384) -/

/-- The compute die of a team. -/
def Team.die (t : Team) : Nat := t.core / 512

/-- A trap of a team with the next order number and the present time on its die. -/
def mkTrap (s : State) (t : Team) (cause sub : Nat) (pc addr : Dword) (path : Nat) (mask : Mask) (fl : BitVec 8)
    (code : Word) : Trap :=
  { cause := cause, sub := sub, pc := pc, addr := addr, path := path, mask := mask, fl := fl, code := code,
    time := s.now t.die, seq := s.nextTrap }

/-- A user team's trap is recorded: the record is delivered, the grid marked, and without a supervisor ended
(18 R381, R383, R384). -/
def recordTrap (s : State) (tk : Nat) (t : Team) (tr : Trap) : State :=
  let pn := pnumOf tk
  let s := noteFailure { s with nextTrap := s.nextTrap + 1 } t tr
  let s := tqDeliver s pn (trapRecord 1 tk t tr)
  if hasSupervisor s pn then s else gend s t.gid none 0

/-- TAKING A PRECISE TRAP, for every instruction that raises one: nothing of the instruction is performed; a user
path is faulted with the trap standing and its record delivered; the supervisor enters its handler (18 R379, R381,
15 R321). -/
def takeTrap (s : State) (x : Issuer) (cause sub : Nat) (addr : Dword) (mask : Mask) (fl : BitVec 8) (code : Word) :
    State :=
  if x.t.sup then supervisorTrap s x.tk x.pi cause sub x.path.pc addr
  else
    let res : BitVec 8 := if nonResumable cause sub then 0 else 2
    let tr := mkTrap s x.t cause sub x.path.pc addr x.pi mask (fl ||| 1 ||| res) code
    let s := s.modPath x.tk x.pi fun p => { p with st := .faulted, trap := some tr }
    recordTrap s x.tk x.t tr

/-- A precise trap that concerns no lane (log 13). -/
def trapNone (s : State) (x : Issuer) (cause sub : Nat) (addr : Dword) : State := takeTrap s x cause sub addr 0 0 0

/-- A precise trap of failing lanes (07 R177). -/
def trapLanes (s : State) (x : Issuer) (cause sub : Nat) (addr : Dword) (ls : List Nat) : State :=
  takeTrap s x cause sub addr (maskOf ls) 0 0

/-- A precise trap of a team-level instruction, with its elected lane (18 R381). -/
def trapElected (s : State) (x : Issuer) (cause sub : Nat) (addr : Dword) (lane : Nat) : State :=
  takeTrap s x cause sub addr (maskOf [lane]) 8 0

/-- A precise trap of a uniform instruction (18 R381). -/
def trapUniform (s : State) (x : Issuer) (cause sub : Nat) (addr : Dword) : State :=
  takeTrap s x cause sub addr 0 16 0

/-! ### Engine commands -/

/-- A command by its number. -/
def State.cmd (s : State) (id : Nat) : Option Cmd := s.cmds.find? fun c => c.id == id
/-- Change a command. -/
def State.modCmd (s : State) (id : Nat) (f : Cmd → Cmd) : State :=
  { s with cmds := s.cmds.map fun c => if c.id = id then f c else c }

/-- A token that a command holds goes back (16 R347). -/
def returnToken (s : State) (c : Cmd) : State :=
  if c.token then s.modPart (pnumOf c.tk) fun p => { p with tokenHeld := p.tokenHeld - 1 } else s

/-- A command completes: its flags are ORed into FST, its register writes made, its counter lowered and its token
returned (02 R56, 04 R115, 07 R192). -/
def finishCmd (s : State) (c : Cmd) (ws : List RegWrite) (flags : Word) : State :=
  let s := returnToken { s with cmds := s.cmds.filter fun d => d.id != c.id } c
  s.modTeam c.tk fun t => ((t.writes ws).orFst flags).finishOp c.op

/-- The kind of a command that has ended by a trap: no engine performs it, and only its operation is still counted. -/
def kindEnded : Nat := 0

/-- A trap of the supervisor's engine command waits to be taken (19 R398). -/
def pendTrap (s : State) (pn id : Nat) (tr : Trap) : State :=
  { s with nextTrap := s.nextTrap + 1 }.modPart pn fun p => { p with svPending := p.svPending ++ [(id, tr)] }

/-- An imprecise trap of a command, which ends with its effects as they stand and its counter raised: for a user team
the trap is recorded and stands until the grid ends (18 R380, R383); the supervisor's waits to be taken, and lowers the
counter then (19 R398). -/
def commandTrap (s : State) (c : Cmd) (cause sub : Nat) (addr : Dword) : State :=
  match s.team c.tk with
  | none => s
  | some t =>
    let tr := mkTrap s t cause sub c.pc addr c.path (maskOf [c.lane]) 8 0
    let s := (returnToken s c).modCmd c.id fun d =>
      { d with kind := kindEnded, stop := some tr, lanes := [], token := false, asked := false }
    if t.sup then pendTrap s (pnumOf c.tk) c.id tr else recordTrap s c.tk t tr

/-! ### Fault reports and batches (17 R372, R373) -/

/-- A range of merged reports. -/
structure FaultRange where
  asid : Nat
  cause : Nat
  sub : Nat
  first : Nat
  last : Nat
  acc : BitVec 8
  nrep : Nat
  tids : List Nat
  deriving DecidableEq, Repr

/-- A report as a range of its own. -/
def Report.range (r : Report) : FaultRange :=
  { asid := r.asid, cause := r.cause, sub := r.sub, first := r.page, last := r.page, acc := r.acc, nrep := 1, tids := [r.tid] }

/-- Two ranges of one kind merge when their pages are equal or consecutive, the earlier first. -/
def FaultRange.joins (a b : FaultRange) : Bool :=
  a.asid == b.asid && a.cause == b.cause && a.sub == b.sub && decide (b.first ≤ a.last + 1)

/-- Reports in the order of their delivery: ascending (ASID, cause, subcode, page). -/
def reportKey (r : Report) : Nat := ((r.asid * 256 + r.cause) * 256 + r.sub) * 2 ^ 48 + r.page

/-- The order of the records: ascending (ASID, VALO, cause, subcode). -/
def rangeKey (r : FaultRange) : Nat := ((r.asid * 2 ^ 48 + r.first) * 256 + r.cause) * 256 + r.sub

/-- Sorted reports merged into ranges. -/
def mergeReports : List Report → List FaultRange
  | [] => []
  | r :: rest =>
    match mergeReports rest with
    | b :: more =>
      if (r.range).joins b then
        { b with first := r.page, acc := b.acc ||| r.acc, nrep := b.nrep + 1, tids := r.tid :: b.tids } :: more
      else r.range :: b :: more
    | [] => [r.range]

/-- The 64 bytes of a fault-range record (17 R373). -/
def FaultRange.record (r : FaultRange) (now : Dword) : List Byte :=
  bytesOf 1 2 ++ bytesOf 1 r.cause ++ bytesOf 1 r.sub ++ bytesOf 1 r.acc.toNat ++ bytesOf 2 r.asid ++ bytesOf 2 (min r.nrep 0xFFFF)
    ++ bytesOf 8 (r.first * 65536) ++ bytesOf 8 ((r.last + 1) * 65536)
    ++ bytesOf 2 (r.tids.foldl min (r.tids.headD 0)) ++ bytesOf 2 (min r.tids.eraseDups.length 0xFFFF) ++ bytesOf 4 0
    ++ bytesOf 8 now.toNat ++ bytesOf 24 0

/-- The batch is delivered: one record for each range (17 R373). TIME is %clock of the compute die of the partition's lowest
half: the spec does not say which die's it is (DESIGN CHOICE, log 53). -/
def deliverBatch (s : State) (pn : Nat) : State :=
  let ranges := sortBy rangeKey (mergeReports (sortBy reportKey (s.part pn).batch))
  let s := s.modPart pn fun p => { p with batch := [] }
  ranges.foldl (fun s r => tqDeliver s pn (r.record (s.now (supAgent s pn).die))) s

/-- The batch holds COUNT reports (17 R371, R372). It is looked at when a report joins: a write that lowers COUNT to or below
the reports already held delivers nothing by itself, and the next report, TIME or hint 2 does (DESIGN CHOICE, log 53). -/
def batchFull (p : Part) : Bool :=
  !p.batch.isEmpty && decide (max 1 (min 256 (nbits (p.reg 0x29).toNat 16 9)) ≤ p.batch.length)

/-- TIME has passed since the first report of the batch (17 R371, R372). -/
def batchTimed (s : State) (pn : Nat) : Bool :=
  let p := s.part pn
  !p.batch.isEmpty && decide (p.batchAt + max 1 (nbits (p.reg 0x29).toNat 0 16) ≤ s.clock)

/-- The batch is due by its count or its timer (17 R371, R372). -/
def batchDue (s : State) (pn : Nat) : Bool := batchFull (s.part pn) || batchTimed s pn

/-- Every batch whose TIME has run out is delivered (17 R372). -/
def deliverTimed (s : State) : State :=
  (s.parts.map Prod.fst).foldl (fun s pn => if batchTimed s pn then deliverBatch s pn else s) s

/-- A replayable fault's report joins the partition's batch, which is delivered once it holds COUNT (17 R372). -/
def report (s : State) (tk : Nat) (t : Team) (cause sub : Nat) (addr : Nat) (acc : BitVec 8) : State :=
  let r : Report := { asid := s.asidOf tk t,
                      page := addr / 65536, cause := cause, sub := sub, acc := acc, tid := tidOf tk }
  let s := s.modPart (pnumOf tk) fun p =>
    { p with batch := p.batch ++ [r], batchAt := if p.batch.isEmpty then s.clock else p.batchAt }
  if batchFull (s.part (pnumOf tk)) then deliverBatch s (pnumOf tk) else s

/-- A command stops at its progress point by a replayable fault (07 R204): a user command keeps its counter and its
report joins the batch, or its trap is recorded for a cause outside the batches; the supervisor's trap waits to be
taken (19 R398). Without a supervisor the grid is then ended (18 R384). -/
def stopCmd (s : State) (c : Cmd) (prog cause sub : Nat) (addr : Dword) (acc : BitVec 8) : State :=
  match s.team c.tk with
  | none => s
  | some t =>
    let tr := mkTrap s t cause sub c.pc addr c.path (maskOf [c.lane]) 10 0
    let s := s.modCmd c.id fun c => { c with prog := prog, stop := some tr }
    if t.sup then pendTrap s (pnumOf c.tk) c.id tr
    else
      let s := { s with nextTrap := s.nextTrap + 1 }
      let s := if cause = 0x0A ∨ cause = 0x0B then report s c.tk t cause sub addr.toNat (acc ||| 8)
        else tqDeliver s (pnumOf c.tk) (trapRecord 1 c.tk t tr)
      if hasSupervisor s (pnumOf c.tk) then s else gend s t.gid none 0

/-! ### Replay state (07 R178) -/

/-- The report's ACC bits of an access (17 R373). -/
def Access.acc : Access → BitVec 8
  | .load _ _ => 1
  | .store _ => 2
  | .atomic op _ _ _ _ => if op = 14 then 1 else if op = 15 then 2 else 4
  | .loadU _ _ => 17
  | .waitc _ _ _ => 1
  | .launch => 1
  | .fetch => 32
  | .walker fn _ _ _ => if fn = 2 then 9 else if fn = 3 ∨ fn = 4 then 4 else if fn = 6 ∨ fn = 7 then 12 else 1
  | .list _ _ _ _ => 4

/-- The entry of an instruction's unfinished lanes before its cause and its lanes are known: every later access of the
issuing path follows it (08 R208). -/
def newReplay (s : State) (t : Team) (pi : Nat) (pc : Dword) (access : Access) (op : Option Nat) (uniform : Bool) : Replay :=
  { seq := 0, path := pi, pc := pc, time := s.now t.die, cause := 0, sub := 0, access := access, lanes := [], op := op,
    owners := [pi], before := [pi], issued := s.nextTrap, merged := false, uniform := uniform, reported := false }

/-- A cause whose replay entry has a trap record of its own; the others are reported in batches (18 R381). -/
def recordedCause (cause : Nat) : Bool := cause == 0x13 || cause == 0x14 || cause == 0x17 || cause == 0x07

/-- An entry joins the replay state, with its trap record when its cause has one; `code` is that record's CODE. -/
def addEntry (s : State) (tk : Nat) (t : Team) (r : Replay) (cause sub : Nat) (lanes : List LaneReq) (code : Word) : State :=
  let r := { r with seq := s.nextTrap, cause := cause, sub := sub, lanes := lanes }
  let s := { s with nextTrap := s.nextTrap + 1 }.modTeam tk fun t => { t with replay := t.replay ++ [r] }
  if recordedCause cause then tqDeliver s (pnumOf tk) (trapRecord 1 tk t { r.asTrap with code := code }) else s

/-- The faulted lanes of a user instruction join the team's replay state: one entry for each cause and subcode met, one
report for each page of a batched cause, and without a supervisor the end of the grid (07 R178, 17 R372, 18 R384). A
fault is a lane's request with its cause, subcode and address. -/
def addReplay (s : State) (tk : Nat) (r : Replay) (failed : List (LaneReq × Nat × Nat × Nat)) : State :=
  match s.team tk with
  | none => s
  | some t =>
    let s := ((failed.map fun f => (f.2.1, f.2.2.1)).eraseDups).foldl
      (fun s k => addEntry s tk t r k.1 k.2 ((failed.filter fun f => (f.2.1, f.2.2.1) == k).map Prod.fst) 0) s
    let keys := (failed.filter fun f => !recordedCause f.2.1).map fun f => (f.2.1, f.2.2.1, f.2.2.2 / 65536)
    let s := keys.eraseDups.foldl (fun s k => report s tk t k.1 k.2.1 (k.2.2 * 65536) r.access.acc) s
    if failed.isEmpty || hasSupervisor s (pnumOf tk) then s else gend s t.gid none 0

/-- A path has a faulted access whose report has reached the core (07 R178). -/
def Team.hasReported (t : Team) (pi : Nat) (m : Mask) : Bool :=
  t.replay.any fun r => r.reported &&
    (if r.uniform then r.owners.contains pi else r.lanes.any fun q => m.getLsbD q.lane)

/-- A path has a faulted access, reported or not. -/
def Team.hasFaulted (t : Team) (pi : Nat) (m : Mask) : Bool :=
  t.replay.any fun r =>
    if r.uniform then r.owners.contains pi else r.lanes.any fun q => m.getLsbD q.lane

/-! ### Branches (02 R45, 03 R77) -/

/-- The distinct next PCs of some lanes, ascending, each with its lanes. -/
def groupPcs (targets : List (Nat × Nat)) : List (Nat × List Nat) :=
  targets.foldl
    (fun acc e => kput acc e.2 (((klook acc e.2).getD []) ++ [e.1])) []

/-- The split of a path into entries by next PC: the lowest keeps the index, the others take the lowest free indices in
ascending order of target; each starts ready with the parent's current FMT. -/
def Team.split (t : Team) (pi : Nat) (p : Path) (mark : Bool) (gs : List (Nat × List Nat)) : Team :=
  (gs.foldl
    (fun (acc : Team × Bool) g =>
      let t := acc.1
      let idx := if acc.2 then pi else t.freeIndex
      let m := maskOf g.2
      let new : Path := { pc := BitVec.ofNat 64 g.1, mask := m, fmt := p.fmt, entryFmt := p.fmt, st := .ready,
                          mark := false, hold := p.hold, skipBp := 0, trap := none }
      let own (l : List Nat) : List Nat := if idx ≠ pi ∧ l.contains pi then l ++ [idx] else l
      let t := { t with
        long := t.long.map fun (r : LongRes) => { r with owners := own r.owners },
        replay := t.replay.map fun (r : Replay) => { r with owners := own r.owners, before := own r.before },
        paths := kput t.paths idx new }
      let t := t.modPath idx fun q => if mark && t.outstanding idx m then { q with st := .parked } else q
      (t, false)) (t, true)).1

/-- The lanes of the issuing path go to their next PCs, with the register writes ws of the branch: the path moves whole
when they agree, splits otherwise, and overflows its table precisely, writing nothing, when entries are lacking
(02 R45). -/
def branchLanes (s : State) (x : Issuer) (mark : Bool) (ws : List RegWrite) (targets : List (Nat × Nat)) : State :=
  match groupPcs targets with
  | [] => s
  | [(pc, _)] =>
    s.modTeam x.tk fun t =>
      ((t.writes ws).modPath x.pi fun p => { p with pc := BitVec.ofNat 64 pc }).pass x.pi 0 mark
  | gs =>
    if x.t.npaths < x.t.paths.length + gs.length - 1 then trapNone s x 0x05 0 0
    else s.modTeam x.tk fun t => (t.writes ws).split x.pi x.path mark gs

end Sys2Proof.Machine
end

