-- ==== Sys2Proof/Machine/Operands.lean ====
section
/-!
DEFINITION. The operand forms shared by the instructions: immediates, lane and uniform results, short and long
(02 R52, R53; 03 R62, R64, R65; 05 R125).
-/
namespace Sys2Proof.Machine

/-- The header of a 16-bit instruction: every active lane (03 R62). -/
def cHdr (s : Bool) : Hdr := { s := s, p := 7, n := false }

/-- A 6-bit immediate read as signed (05 R132). -/
def imm6 (i : BitVec 6) : Word := i.signExtend 32

/-- The target of a branch offset in halfwords from a PC (03 R76). -/
def branchTarget {n : Nat} (pc : Dword) (off : BitVec n) : Dword := pc + off.signExtend 64 * 2

/-- Writes of a short lane instruction: each acting lane's, from the registers as read at issue (05 R125). -/
def Issuer.laneWrites (x : Issuer) (h : Hdr) (ws : Team → Nat → List RegWrite) : List RegWrite :=
  (x.lanes h).flatMap (ws x.t)

/-- A short instruction: its writes and flags take effect at once, and the path moves on (02 R52). -/
def shortOp (s : State) (h : Hdr) (len : Nat) (f : Issuer → List RegWrite × Word) : Out :=
  withIssuer s fun x =>
    let r := f x
    (s.modTeam x.tk fun t => (t.writes r.1).orFst r.2).pass x len h.s

/-- A long instruction counted on no asynchronous path: its writes and flags are in flight (02 R53). -/
def longOp (s : State) (h : Hdr) (f : Issuer → List RegWrite × Word) : Out :=
  withIssuer s fun x =>
    let r := f x
    (s.modTeam x.tk fun t => t.addLong none [x.pi] r.1 r.2).pass x 4 h.s

/-- A short lane instruction of len bytes without flags. -/
def laneShort (s : State) (h : Hdr) (len : Nat) (ws : Team → Nat → List RegWrite) : Out :=
  shortOp s h len fun x => (x.laneWrites h ws, 0)

/-- A short uniform instruction: its writes when it acts (03 R65). -/
def uniShort (s : State) (h : Hdr) (ws : Team → List RegWrite) : Out :=
  shortOp s h 4 fun x => (if x.uacts h then ws x.t else [], 0)

/-- A lane-cross instruction: short when the team is one pass wide, long otherwise (05 R145). -/
def crossOp (s : State) (h : Hdr) (f : Issuer → List RegWrite × Word) : Out :=
  match s.issuer with
  | none => .fault .noIssuer
  | some x => if x.t.width = 32 then shortOp s h 4 f else longOp s h f

/-- One lane register from two. -/
def lane2 (s : State) (h : Hdr) (len : Nat) (d a b : BitVec 6) (g : Word → Word → Word) : Out :=
  laneShort s h len fun t l => [.v d.toNat l (g (t.vr a.toNat l) (t.vr b.toNat l))]

/-- One lane register from two and its old value. -/
def lane3 (s : State) (f : RR) (g : Word → Word → Word → Word) : Out :=
  laneShort s f.h 4 fun t l =>
    [.v f.d.toNat l (g (t.vr f.a.toNat l) (t.vr f.b.toNat l) (t.vr f.d.toNat l))]

/-- The 16-bit form vd := g vd vb in every active lane (03 R62). -/
def laneC (s : State) (f : C16) (g : Word → Word → Word) : Out :=
  lane2 s (cHdr f.s) 2 (f.d.setWidth 6) (f.d.setWidth 6) (f.b.setWidth 6) g

/-- Format RR on lane registers. -/
def laneRR (s : State) (f : RR) (g : Word → Word → Word) : Out := lane2 s f.h 4 f.d f.a f.b g

/-- Format RR with a lane pair for its result (05 R127). -/
def laneRRW (s : State) (f : RR) (g : Word → Word → Dword) : Out :=
  laneShort s f.h 4 fun t l => wWrites f.d.toNat l (g (t.vr f.a.toNat l) (t.vr f.b.toNat l))

/-- Format RR on lane pairs (05 R131). -/
def laneWWW (s : State) (f : RR) (g : Dword → Dword → Dword) : Out :=
  laneShort s f.h 4 fun t l => wWrites f.d.toNat l (g (t.wr f.a.toNat l) (t.wr f.b.toNat l))

/-- Format RR with a lane pair and a single register (05 R131). -/
def laneWWV (s : State) (f : RR) (g : Dword → Word → Dword) : Out :=
  laneShort s f.h 4 fun t l => wWrites f.d.toNat l (g (t.wr f.a.toNat l) (t.vr f.b.toNat l))

/-- Format RI on lane registers (05 R132). -/
def laneRI (s : State) (f : RI) (g : Word → BitVec 6 → Word) : Out :=
  laneShort s f.h 4 fun t l => [.v f.d.toNat l (g (t.vr f.a.toNat l) f.i)]

/-- Format UN on lane registers (05 R133). -/
def laneUN (s : State) (f : UN) (g : Word → Word) : Out :=
  laneShort s f.h 4 fun t l => [.v f.d.toNat l (g (t.vr f.a.toNat l))]

/-- Format UN from a lane pair to one register (05 R133). -/
def laneUNW (s : State) (f : UN) (g : Dword → Word) : Out :=
  laneShort s f.h 4 fun t l => [.v f.d.toNat l (g (t.wr f.a.toNat l))]

/-- Format UN on lane pairs (05 R133). -/
def laneUNWW (s : State) (f : UN) (g : Dword → Dword) : Out :=
  laneShort s f.h 4 fun t l => wWrites f.d.toNat l (g (t.wr f.a.toNat l))

/-- Format RR on uniform registers (05 R134). -/
def uniRR (s : State) (f : RR) (g : Word → Word → Word) : Out :=
  uniShort s f.h fun t => [.s f.d.toNat (g (t.sr f.a.toNat) (t.sr f.b.toNat))]

/-- Format RI on uniform registers (05 R134). -/
def uniRI (s : State) (f : RI) (g : Word → BitVec 6 → Word) : Out :=
  uniShort s f.h fun t => [.s f.d.toNat (g (t.sr f.a.toNat) f.i)]

/-- Format UN on uniform registers (05 R133). -/
def uniUN (s : State) (f : UN) (g : Word → Word) : Out :=
  uniShort s f.h fun t => [.s f.d.toNat (g (t.sr f.a.toNat))]

/-- Format UN from a uniform pair to one register (05 R133). -/
def uniUNZ (s : State) (f : UN) (g : Dword → Word) : Out :=
  uniShort s f.h fun t => [.s f.d.toNat (g (t.zr f.a.toNat))]

/-- Format UN on uniform pairs (05 R133). -/
def uniUNZZ (s : State) (f : UN) (g : Dword → Dword) : Out :=
  uniShort s f.h fun t => zWrites f.d.toNat (g (t.zr f.a.toNat))

/-- The low w bits of a product of integers, as their high part from bit 32 (05 R127). -/
def mulhiS (a b : Word) : Word := wordOfInt (a.toInt * b.toInt / 2 ^ 32)
def mulhiN (a b : Word) : Word := BitVec.ofNat 32 (a.toNat * b.toNat / 2 ^ 32)
def mulwS (a b : Word) : Dword := dwordOfInt (a.toInt * b.toInt)
def mulwN (a b : Word) : Dword := BitVec.ofNat 64 (a.toNat * b.toNat)

/-- The shifts by the full amount n (05 R128). -/
def shl {w : Nat} (a : BitVec w) (n : Nat) : BitVec w := if w ≤ n then 0 else BitVec.ofNat w (a.toNat * 2 ^ n)
def shr {w : Nat} (a : BitVec w) (n : Nat) : BitVec w := if w ≤ n then 0 else BitVec.ofNat w (a.toNat / 2 ^ n)
def sar {w : Nat} (a : BitVec w) (n : Nat) : BitVec w :=
  if w ≤ n then (if a.msb then BitVec.allOnes w else 0) else BitVec.ofInt w (a.toInt / 2 ^ n)
/-- Rotation left by n mod 32 (05 R128). -/
def rot (a : Word) (n : Nat) : Word := a.rotateLeft (n % 32)

/-- The length of a bit field that bit 31 cuts, 0 when it is empty (05 R129). -/
def bfLen (b : Word) : Nat :=
  let pos := nbits b.toNat 0 8
  if 32 ≤ pos then 0 else min (nbits b.toNat 8 8) (32 - pos)
/-- The bit fields of 05 R129. -/
def bfe (signed : Bool) (a b : Word) : Word :=
  let e := bfLen b
  let x := nbits a.toNat (nbits b.toNat 0 8) e
  if e = 0 then 0 else if signed then wordOfInt (sintN e x) else BitVec.ofNat 32 x
def bfInsert (a b d : Word) : Word :=
  let e := bfLen b
  let pos := nbits b.toNat 0 8
  let mask : Word := BitVec.ofNat 32 ((2 ^ e - 1) * 2 ^ pos)
  if e = 0 then d else (d &&& ~~~mask) ||| (BitVec.ofNat 32 (a.toNat * 2 ^ pos) &&& mask)

end Sys2Proof.Machine
end

