-- ==== Sys2Proof/Machine/Flags.lean ====
section
/-!
DEFINITION. Comparison conditions (03 R75, 05 R136) and the flags of FST (04 R114).
-/
namespace Sys2Proof.Machine

/-- The condition of setp for code cc (05 R136); codes 10 to 15 do not reach it (03 R75). -/
def intCond (cc : Nat) (a b : Word) : Bool :=
  match cc with
  | 0 => a == b
  | 1 => a != b
  | 2 => decide (a.toInt < b.toInt)
  | 3 => decide (a.toInt ≤ b.toInt)
  | 4 => decide (b.toInt < a.toInt)
  | 5 => decide (b.toInt ≤ a.toInt)
  | 6 => decide (a.toNat < b.toNat)
  | 7 => decide (a.toNat ≤ b.toNat)
  | 8 => decide (b.toNat < a.toNat)
  | _ => decide (b.toNat ≤ a.toNat)

/-- The bits of FST (04 R114). -/
def NV : Word := 1
def DZ : Word := 2
def OF : Word := 4
def UF : Word := 8
def NX : Word := 16
def ATRUNC : Word := 32
def ASAT : Word := 64

/-- How the operands of fsetp stand. -/
inductive Order where
  | less | equal | greater | unordered
  deriving DecidableEq, Repr

/-- The condition of fsetp for code cc (03 R75); codes 14 and 15 do not reach it. -/
def floatCond (cc : Nat) (o : Order) : Bool :=
  match cc with
  | 0 => o == .equal
  | 1 => o == .less || o == .greater
  | 2 => o == .less
  | 3 => o == .less || o == .equal
  | 4 => o == .greater
  | 5 => o == .greater || o == .equal
  | 6 => o != .unordered
  | 7 => o == .unordered
  | 8 => o == .equal || o == .unordered
  | 9 => o != .equal
  | 10 => o == .less || o == .unordered
  | 11 => o != .greater
  | 12 => o == .greater || o == .unordered
  | _ => o != .less

end Sys2Proof.Machine
end

