-- ==== Sys2Proof/Machine/Float.lean ====
section
/-!
DEFINITION. Number formats and exact arithmetic (04 R100-R112): every operation forms its exact value and rounds it
once. A result is its bits and the FST flags it sets.
-/
namespace Sys2Proof.Machine

/-! ### Formats (04 R100) -/

/-- What exponent all ones stands for. -/
inductive TopKind where
  /-- infinities and NaNs -/
  | ieee
  /-- finite values but for the fraction of all ones, a NaN -/
  | nanOnly
  /-- finite values -/
  | finite
  deriving DecidableEq, Repr

/-- A floating-point format: exponent and fraction widths, its top exponent, and whether DAZ and FTZ apply (04 R109). -/
structure FFmt where
  eb : Nat
  mb : Nat
  top : TopKind
  flush : Bool
  deriving DecidableEq, Repr

def FFmt.f64 : FFmt := { eb := 11, mb := 52, top := .ieee, flush := false }
def FFmt.f32 : FFmt := { eb := 8, mb := 23, top := .ieee, flush := true }
def FFmt.f16 : FFmt := { eb := 5, mb := 10, top := .ieee, flush := true }
def FFmt.bf16 : FFmt := { eb := 8, mb := 7, top := .ieee, flush := true }
def FFmt.e5m2 : FFmt := { eb := 5, mb := 2, top := .ieee, flush := false }
def FFmt.e4m3 : FFmt := { eb := 4, mb := 3, top := .nanOnly, flush := false }
def FFmt.e2m1 : FFmt := { eb := 2, mb := 1, top := .finite, flush := false }

def FFmt.bias (F : FFmt) : Nat := 2 ^ (F.eb - 1) - 1
/-- The sign bit's place. -/
def FFmt.sbit (F : FFmt) : Nat := F.eb + F.mb
/-- The exponent of the smallest normal. -/
def FFmt.emin (F : FFmt) : Int := 1 - (F.bias : Int)
/-- The largest finite magnitude as bits. -/
def FFmt.maxBits (F : FFmt) : Nat :=
  match F.top with
  | .ieee => (2 ^ F.eb - 1) * 2 ^ F.mb - 1
  | .nanOnly => 2 ^ F.sbit - 2
  | .finite => 2 ^ F.sbit - 1
/-- Infinity as bits. -/
def FFmt.infBits (F : FFmt) : Nat := (2 ^ F.eb - 1) * 2 ^ F.mb
/-- Bits with a sign. -/
def FFmt.signed (F : FFmt) (neg : Bool) (w : Nat) : Nat := w + (if neg then 2 ^ F.sbit else 0)

/-- A value: (-1)^neg x n x 2^e, an infinity, or a NaN with its fraction of mb bits. -/
inductive FVal where
  | num (neg : Bool) (n : Nat) (e : Int)
  | inf (neg : Bool)
  | nan (neg quiet : Bool) (frac mb : Nat)
  deriving DecidableEq, Repr

/-- The value of some bits (04 R100). -/
def FFmt.read (F : FFmt) (w : Nat) : FVal :=
  let neg := nbit w F.sbit
  let e := nbits w F.mb F.eb
  let m := nbits w 0 F.mb
  if e = 2 ^ F.eb - 1 ∧ F.top = .ieee then
    if m = 0 then .inf neg else .nan neg (nbit m (F.mb - 1)) m F.mb
  else if e = 2 ^ F.eb - 1 ∧ F.top = .nanOnly ∧ m = 2 ^ F.mb - 1 then .nan neg true m F.mb
  else if e = 0 then .num neg m (F.emin - F.mb)
  else .num neg (m + 2 ^ F.mb) ((e : Int) - F.bias - F.mb)

/-! ### The floating-point mode (04 R113) -/

def fpmRm (fpm : Word) : Nat := nbits fpm.toNat 0 3
def fpmDaz (fpm : Word) : Bool := fpm.getLsbD 3
def fpmFtz (fpm : Word) : Bool := fpm.getLsbD 4
def fpmCanon (fpm : Word) : Bool := nbits fpm.toNat 5 2 == 1
def fpmDetr (fpm : Word) : Bool := fpm.getLsbD 7

/-- An operand as an operation reads it: a subnormal is a zero of its sign under DAZ (04 R109). -/
def FFmt.operand (F : FFmt) (fpm : Word) (w : Nat) : FVal :=
  match F.read w with
  | .num neg n e => if F.flush && fpmDaz fpm && decide (n < 2 ^ F.mb) then .num neg 0 e else .num neg n e
  | v => v

/-! ### Rounding (04 R106, R107) -/

/-- A rounding mode: 0-4 as FPM.RM, 5 stochastic with its 32 supplied bits. -/
structure Rnd where
  mode : Nat
  u : Nat
  deriving DecidableEq, Repr

def Rnd.ofFpm (fpm : Word) : Rnd := { mode := fpmRm fpm, u := 0 }

/-- Which of the two neighbours a magnitude takes: a fraction rem / 2^sh between lo (odd?) and lo + 1. -/
def Rnd.up (r : Rnd) (neg odd : Bool) (rem sh : Nat) : Bool :=
  if rem = 0 then false
  else
    match r.mode with
    | 0 => decide (2 ^ sh < 2 * rem) || (2 * rem == 2 ^ sh && odd)
    | 1 => false
    | 2 => !neg
    | 3 => neg
    | 4 => decide (2 ^ sh ≤ 2 * rem)
    | _ => decide (2 ^ 32 ≤ rem * 2 ^ 32 / 2 ^ sh + r.u)

/-- The rounding is inexact as NX tells it: in the stochastic mode when D is not zero (04 R107). -/
def Rnd.inexact (r : Rnd) (rem sh : Nat) : Bool :=
  if r.mode = 5 then rem * 2 ^ 32 / 2 ^ sh != 0 else rem != 0

/-- n x 2^e rounded to a multiple of 2^q: the multiple, and whether it is inexact. -/
def Rnd.mag (r : Rnd) (neg : Bool) (n : Nat) (e q : Int) : Nat × Bool :=
  if q ≤ e then (n * 2 ^ (e - q).toNat, false)
  else
    let sh := (q - e).toNat
    let lo := n / 2 ^ sh
    let rem := n % 2 ^ sh
    (lo + (if r.up neg (lo % 2 == 1) rem sh then 1 else 0), r.inexact rem sh)

/-- The floor of log2 of n x 2^e. -/
def ilog2 (n : Nat) (e : Int) : Int := (n.log2 : Int) + e

/-- n x 2^e against a power of two: at least 2^k. -/
def atLeast (n : Nat) (e k : Int) : Bool := n != 0 && decide (k ≤ ilog2 n e)

/-- The bits of m x 2^q, m below 2^(mb+1) and q no lower than the subnormal unit. -/
def FFmt.put (F : FFmt) (neg : Bool) (m : Nat) (q : Int) : Nat :=
  F.signed neg (if m < 2 ^ F.mb then m else (q - (F.emin - F.mb)).toNat * 2 ^ F.mb + m)

/-- The result of an overflow (04 R106, R111): the IEEE result, or the clamp of a saturating or finite target. -/
def FFmt.overflow (F : FFmt) (r : Rnd) (sat canon neg : Bool) : Nat :=
  match F.top with
  | .finite => F.signed neg F.maxBits
  | .nanOnly => if sat then F.signed neg F.maxBits else F.signed (neg && !canon) (F.maxBits + 1)
  | .ieee =>
    let toInf := r.mode == 0 || r.mode == 4 || r.mode == 5 || (r.mode == 2 && !neg) || (r.mode == 3 && neg)
    F.signed neg (if !sat && toInf then F.infBits else F.maxBits)

/-- (-1)^neg x n x 2^e rounded once to a format, with overflow, underflow and FTZ (04 R106-R111). A magnitude above the
largest finite one that rounds to it sets NX, also where D is 0 (04 R107). DESIGN CHOICE (log 47): in the stochastic mode a
tiny result with D = 0 counts as exact, and UF stays clear; 04 R108 does not say. -/
def FFmt.round (F : FFmt) (r : Rnd) (fpm : Word) (sat neg : Bool) (n : Nat) (e : Int) : Nat × Word :=
  if n = 0 then (F.signed neg 0, 0)
  else
    let lg := ilog2 n e
    let free := r.mag neg n e (lg - F.mb)
    let tiny := !atLeast free.1 (lg - F.mb) F.emin
    let q := max lg F.emin - F.mb
    let m := r.mag neg n e q
    let m' := if 2 ^ (F.mb + 1) ≤ m.1 then (m.1 / 2, q + 1) else (m.1, q)
    let bits := F.put false m'.1 m'.2
    let nx : Word := if m.2 || (bits == F.maxBits && decide (m.1 * 2 ^ (q - e).toNat < n)) then NX else 0
    if F.maxBits < bits then (F.overflow r sat (fpmCanon fpm) neg, OF ||| NX)
    else if tiny && F.flush && fpmFtz fpm then (F.signed neg 0, UF ||| NX)
    else (F.signed neg bits, if tiny && m.2 then UF ||| nx else nx)

/-! ### NaN results (04 R110) -/

/-- The default NaN. -/
def FFmt.defaultNan (F : FFmt) : Nat :=
  match F.top with
  | .ieee => F.infBits + 2 ^ (F.mb - 1)
  | .nanOnly => F.maxBits + 1
  | .finite => 0

/-- The NaN result that a first NaN operand gives. -/
def FFmt.carryNan (F : FFmt) (fpm : Word) (neg : Bool) (frac mb : Nat) : Nat :=
  if fpmCanon fpm then F.defaultNan
  else
    match F.top with
    | .ieee =>
      let f := if F.mb ≤ mb then frac / 2 ^ (mb - F.mb) else frac * 2 ^ (F.mb - mb)
      F.signed neg (F.infBits + (if nbit f (F.mb - 1) then f else f + 2 ^ (F.mb - 1)))
    | .nanOnly => F.signed neg (F.maxBits + 1)
    | .finite => 0

def FVal.isNan : FVal → Bool
  | .nan _ _ _ _ => true
  | _ => false
def FVal.isSnan : FVal → Bool
  | .nan _ q _ _ => !q
  | _ => false
def FVal.neg : FVal → Bool
  | .num s _ _ => s
  | .inf s => s
  | .nan s _ _ _ => s
def FVal.isZero : FVal → Bool
  | .num _ n _ => n == 0
  | _ => false

/-- The flag of signalling operands. -/
def snanFlag (ops : List FVal) : Word := if ops.any FVal.isSnan then NV else 0

/-- The NaN result of some operands, or of an invalid operation when none is a NaN. -/
def FFmt.nanOf (F : FFmt) (fpm : Word) (ops : List FVal) : Nat :=
  match ops.find? FVal.isNan with
  | some (.nan s _ f mb) => F.carryNan fpm s f mb
  | _ => F.defaultNan

/-! ### Arithmetic (06 R155-R159) -/

/-- An exact result before rounding: none for an invalid operation. -/
abbrev Exact := Option FVal

/-- The sum of two values that are no NaN; an exact zero of unlike operands is -0 under RM only (06 R155). -/
def exactAdd (r : Rnd) (x y : FVal) : Exact :=
  match x, y with
  | .inf a, .inf b => if a = b then some (.inf a) else none
  | .inf a, _ => some (.inf a)
  | _, .inf b => some (.inf b)
  | .num sa na ea, .num sb nb eb =>
    let e := min ea eb
    let a : Int := (na * 2 ^ (ea - e).toNat : Nat)
    let b : Int := (nb * 2 ^ (eb - e).toNat : Nat)
    let t := (if sa then -a else a) + (if sb then -b else b)
    if t = 0 then some (.num (if sa = sb then sa else r.mode == 3) 0 0) else some (.num (decide (t < 0)) t.natAbs e)
  | _, _ => none

/-- The product of two values that are no NaN. -/
def exactMul (x y : FVal) : Exact :=
  match x, y with
  | .num sa na ea, .num sb nb eb => some (.num (xor sa sb) (na * nb) (ea + eb))
  | _, _ => if x.isZero || y.isZero then none else some (.inf (xor x.neg y.neg))

/-- The value with its sign inverted; a NaN is left alone. -/
def FVal.negate : FVal → FVal
  | .num s n e => .num (!s) n e
  | .inf s => .inf (!s)
  | v => v

/-- A result delivered to a format: rounded, infinite, or the NaN of an invalid operation. -/
def FFmt.deliver (F : FFmt) (fpm : Word) (x : Exact) : Nat × Word :=
  match x with
  | some (.num s n e) => F.round (Rnd.ofFpm fpm) fpm false s n e
  | some (.inf s) => (F.signed s F.infBits, 0)
  | _ => (F.defaultNan, NV)

/-- An operation on operands of one format: a NaN operand gives the NaN result, with the flags of signalling operands. -/
def FFmt.withNans (F : FFmt) (fpm : Word) (ops : List FVal) (k : Nat × Word) : Nat × Word :=
  if ops.any FVal.isNan then (F.nanOf fpm ops, snanFlag ops) else k

/-- fadd, fsub and fmul (06 R155). -/
def FFmt.add (F : FFmt) (fpm : Word) (a b : Nat) : Nat × Word :=
  let x := F.operand fpm a
  let y := F.operand fpm b
  F.withNans fpm [x, y] (F.deliver fpm (exactAdd (Rnd.ofFpm fpm) x y))
def FFmt.sub (F : FFmt) (fpm : Word) (a b : Nat) : Nat × Word :=
  let x := F.operand fpm a
  let y := F.operand fpm b
  F.withNans fpm [x, y] (F.deliver fpm (exactAdd (Rnd.ofFpm fpm) x y.negate))
def FFmt.mul (F : FFmt) (fpm : Word) (a b : Nat) : Nat × Word :=
  let x := F.operand fpm a
  let y := F.operand fpm b
  F.withNans fpm [x, y] (F.deliver fpm (exactMul x y))

/-- ffma: one rounding; 0 x infinity is invalid whatever is added (06 R155). -/
def FFmt.fma (F : FFmt) (fpm : Word) (a b d : Nat) : Nat × Word :=
  let x := F.operand fpm a
  let y := F.operand fpm b
  let c := F.operand fpm d
  let p := if x.isNan || y.isNan then some x else exactMul x y
  if [x, y, c].any FVal.isNan then
    (F.nanOf fpm [x, y, c], if p.isNone then NV else snanFlag [x, y, c])
  else F.deliver fpm (p.bind fun p => exactAdd (Rnd.ofFpm fpm) p c)

/-- The quotient of two values that are no NaN, with a sticky bit below 2 x mb + 8 bits (06 R156). -/
def exactDiv (mb : Nat) (x y : FVal) : Exact :=
  let s := xor x.neg y.neg
  match x, y with
  | .inf _, .inf _ => none
  | .inf _, _ => some (.inf s)
  | .num _ _ _, .inf _ => some (.num s 0 0)
  | .num _ na ea, .num _ nb eb =>
    if nb = 0 then (if na = 0 then none else some (.inf s))
    else
      let k := 2 * mb + 8 + nb.log2
      let q := na * 2 ^ k / nb
      let sticky := if na * 2 ^ k % nb = 0 then 0 else 1
      some (.num s (2 * q + sticky) (ea - eb - k - 1))
  | _, _ => none

/-- fdiv (06 R156). -/
def FFmt.div (F : FFmt) (fpm : Word) (a b : Nat) : Nat × Word :=
  let x := F.operand fpm a
  let y := F.operand fpm b
  let r := F.deliver fpm (exactDiv F.mb x y)
  let finite : Bool := match x with
    | .num _ n _ => n != 0
    | _ => false
  F.withNans fpm [x, y] (r.1, if finite && y.isZero then r.2 ||| DZ else r.2)

/-- The integer square root, bit by bit from 2^k down. -/
def isqrtFrom (n : Nat) : Nat → Nat → Nat
  | 0, r => if (r + 1) * (r + 1) ≤ n then r + 1 else r
  | k + 1, r => isqrtFrom n k (if (r + 2 ^ (k + 1)) * (r + 2 ^ (k + 1)) ≤ n then r + 2 ^ (k + 1) else r)
/-- The floor of the square root. -/
def isqrt (n : Nat) : Nat := isqrtFrom n (n.log2 / 2 + 1) 0

/-- fsqrt (06 R159). -/
def FFmt.sqrt (F : FFmt) (fpm : Word) (a : Nat) : Nat × Word :=
  let x := F.operand fpm a
  F.withNans fpm [x] (match x with
    | .inf false => (F.infBits, 0)
    | .num s n e =>
      if n = 0 then (F.signed s 0, 0)
      else if s then (F.defaultNan, NV)
      else
        let odd := e % 2 != 0
        let n' := (if odd then 2 * n else n) * 4 ^ (F.mb + 8)
        let e' := (if odd then e - 1 else e) / 2 - (F.mb + 8)
        let q := isqrt n'
        F.round (Rnd.ofFpm fpm) fpm false false (2 * q + (if q * q = n' then 0 else 1)) (e' - 1)
    | _ => (F.defaultNan, NV))

/-- frint (06 R159). -/
def FFmt.rint (F : FFmt) (fpm : Word) (a : Nat) : Nat × Word :=
  let x := F.operand fpm a
  F.withNans fpm [x] (match x with
    | .num s n e =>
      let r := Rnd.ofFpm fpm
      let m := r.mag s n e 0
      if n = 0 then (F.signed s 0, 0)
      else
        let w := F.round r fpm false s m.1 0
        (w.1, if m.2 then w.2 ||| NX else w.2)
    | .inf s => (F.signed s F.infBits, 0)
    | _ => (F.defaultNan, 0))

/-- How two values stand; -0 equals +0 (06 R163). -/
def FVal.order (x y : FVal) : Order :=
  let key (v : FVal) (e : Int) : Int := match v with
    | .num s n f => if s then -((n * 2 ^ (f - e).toNat : Nat) : Int) else ((n * 2 ^ (f - e).toNat : Nat) : Int)
    | _ => 0
  match x, y with
  | .nan _ _ _ _, _ | _, .nan _ _ _ _ => .unordered
  | .inf a, .inf b => if a = b then .equal else if a then .less else .greater
  | .inf a, _ => if a then .less else .greater
  | _, .inf b => if b then .greater else .less
  | .num _ _ ea, .num _ _ eb =>
    let e := min ea eb
    if key x e < key y e then .less else if key x e = key y e then .equal else .greater

/-- An operand returned as it was read (06 R157): FTZ flushes a subnormal. -/
def FFmt.returned (F : FFmt) (fpm : Word) (v : FVal) (w : Nat) : Nat × Word :=
  match v with
  | .num s n _ =>
    if n = 0 then (F.signed s 0, 0)
    else if F.flush && fpmFtz fpm && decide (n < 2 ^ F.mb) then (F.signed s 0, UF ||| NX)
    else (w, 0)
  | _ => (w, 0)

/-- fmin and fmax (06 R157): -0 orders below +0. -/
def FFmt.minMax (F : FFmt) (fpm : Word) (isMax : Bool) (a b : Nat) : Nat × Word :=
  let x := F.operand fpm a
  let y := F.operand fpm b
  let flag := snanFlag [x, y]
  let r :=
    if x.isNan && y.isNan then (F.nanOf fpm [x, y], 0)
    else if x.isNan then F.returned fpm y b
    else if y.isNan then F.returned fpm x a
    else
      let less := match x.order y with
        | .less => true
        | .equal => x.neg && !y.neg
        | _ => false
      if xor less isMax then F.returned fpm x a else F.returned fpm y b
  (r.1, r.2 ||| flag)

/-- fsetp: the condition and its flag; the four signalling comparisons set NV for any NaN (06 R163). -/
def FFmt.setp (F : FFmt) (fpm : Word) (cc a b : Nat) : Bool × Word :=
  let x := F.operand fpm a
  let y := F.operand fpm b
  let o := x.order y
  (floatCond cc o, if 2 ≤ cc ∧ cc ≤ 5 ∧ o = .unordered then NV else snanFlag [x, y])

/-- The class mask of fclass, from the stored bits (06 R160). -/
def FFmt.classMask (F : FFmt) (w : Nat) : Nat :=
  2 ^ (match F.read w with
    | .inf s => if s then 0 else 7
    | .nan _ q _ _ => if q then 9 else 8
    | .num s n _ =>
      if n = 0 then (if s then 3 else 4)
      else if n < 2 ^ F.mb then (if s then 2 else 5)
      else (if s then 1 else 6))

/-! ### P2P8, E8M0 and integers (04 R101-R104, R111) -/

/-- A P2P8 term in units of 2^-6 (04 R102). -/
def p2Term (s : Bool) (e : Nat) : Int := if e = 7 then 0 else if s then -((2 ^ (6 - e) : Nat) : Int) else (2 ^ (6 - e) : Nat)
/-- The first term of a byte, which a one-term operand reads alone (04 R103). -/
def p2First (w : Nat) : Int := p2Term (nbit w 7) (nbits w 4 3)
/-- The value of a byte in units of 2^-6. -/
def p2Value (w : Nat) : Int := p2First w + p2Term (nbit w 3) (nbits w 0 3)

/-- The terms of a byte that are not zero. -/
def p2Terms (w : Nat) : Nat := (if nbits w 4 3 = 7 then 0 else 1) + (if nbits w 0 3 = 7 then 0 else 1)

/-- A byte is the canonical encoding of its value (04 R103). -/
def p2Canonical (w : Nat) : Bool :=
  let s1 := nbit w 7
  let e1 := nbits w 4 3
  let s2 := nbit w 3
  let e2 := nbits w 0 3
  let single (v : Int) : Bool := (List.range 7).any fun k => v.natAbs == 2 ^ (6 - k)
  if p2Value w = 0 then w == 0x77
  else if single (p2Value w) then e1 != 7 && e2 == 7 && !s2
  else
    e1 != 7 && e2 != 7 && decide (e1 ≤ e2)
      && (s1 == s2 || !(List.range 64).any fun k =>
            p2Term s1 (k / 8) + p2Term s1 (k % 8) == p2Value w && k / 8 != 7 && k % 8 != 7 && decide (k / 8 ≤ k % 8))

/-- The canonical encoding of a value in units of 2^-6, when it has one. -/
def p2Encode (v : Int) : Option Nat := (List.range 256).find? fun w => p2Canonical w && p2Value w == v

/-- The magnitudes of the value set in units of 2^-6, ascending (04 R102). -/
def p2Mags : List Nat := (List.range 129).filter fun v => (p2Encode v).isSome

/-- The byte of a magnitude and sign. -/
def p2Byte (neg : Bool) (m : Nat) : Nat := (p2Encode (if neg then -(m : Int) else m)).getD 0x77

/-- (-1)^neg x n x 2^e to P2P8 (04 R106, R166; 06 R167). -/
def roundP2 (r : Rnd) (neg : Bool) (n : Nat) (e : Int) : Nat × Word :=
  -- the magnitude as t / 2^sh in units of 2^-6
  let t := n * 2 ^ (e + 6).toNat
  let sh := (-(e + 6)).toNat
  if 128 * 2 ^ sh < t then (if neg then 0x88 else 0x00, OF ||| NX)
  else
    let lo := (p2Mags.filter fun m => m * 2 ^ sh ≤ t).getLastD 0
    let hi := (p2Mags.find? fun m => t ≤ m * 2 ^ sh).getD 128
    if lo = hi then (p2Byte neg lo, 0)
    else
      let num := t - lo * 2 ^ sh
      let den := (hi - lo) * 2 ^ sh
      let d := num * 2 ^ 32 / den
      let terms (m : Nat) := p2Terms (p2Byte neg m)
      let up : Bool := match r.mode with
        | 0 => decide (den < 2 * num) || (2 * num == den && decide (terms hi < terms lo))
        | 1 => false
        | 2 => !neg
        | 3 => neg
        | 4 => decide (den ≤ 2 * num)
        | _ => decide (2 ^ 32 ≤ d + r.u)
      (p2Byte neg (if up then hi else lo), if r.mode = 5 ∧ d = 0 then 0 else NX)

/-- (-1)^neg x n x 2^e to E8M0 (04 R106, R111, R166). -/
def roundE8 (r : Rnd) (sat neg : Bool) (n : Nat) (e : Int) : Nat × Word :=
  if n = 0 then (0x00, UF ||| NX)
  else if neg then (0xFF, NV)
  else
    let lg := ilog2 n e
    let den := 2 ^ n.log2
    let num := n - den
    let d := num * 2 ^ 32 / den
    let up : Bool := match r.mode with
      | 0 => decide (den < 2 * num) || (2 * num == den && decide ((lg + 127) % 2 ≠ 0))
      | 1 => false
      | 2 => num != 0
      | 3 => false
      | 4 => decide (den ≤ 2 * num)
      | _ => decide (2 ^ 32 ≤ d + r.u)
    let nx : Word := if (if r.mode = 5 then d else num) = 0 then 0 else NX
    let code := lg + 127 + (if up then 1 else 0)
    if 254 < code then (if sat then 0xFE else 0xFF, OF ||| NX)
    else if code < 0 then (0x00, UF ||| NX)
    else (code.toNat, nx)

/-- An integer format: its bits and whether it is signed (04 R104). -/
structure IFmt where
  w : Nat
  signed : Bool
  deriving DecidableEq, Repr

def IFmt.lo (F : IFmt) : Int := if F.signed then -((2 ^ (F.w - 1) : Nat) : Int) else 0
def IFmt.hi (F : IFmt) : Int := if F.signed then ((2 ^ (F.w - 1) : Nat) : Int) - 1 else ((2 ^ F.w : Nat) : Int) - 1

/-- An integer beyond the range of its target (04 R111). -/
def IFmt.clamp (F : IFmt) (sat : Bool) (v : Int) : Int := if sat then max F.lo (min F.hi v) else F.lo

/-- n x 2^e lies above the target's largest magnitude of a sign: 0 is an unsigned target's for negative values (04 R107). -/
def IFmt.above (F : IFmt) (neg : Bool) (n : Nat) (e : Int) : Bool :=
  let top := if neg then F.lo.natAbs else F.hi.natAbs
  if 0 ≤ e then decide (top < n * 2 ^ e.toNat) else decide (top * 2 ^ (-e).toNat < n)

/-- (-1)^neg x n x 2^e to an integer (04 R111; log 10 for the stochastic mode). In that mode a magnitude above the largest
one that rounds to it sets NX, also where D is 0 (04 R107). -/
def roundInt (F : IFmt) (r : Rnd) (sat neg : Bool) (n : Nat) (e : Int) : Int × Word :=
  let m := r.mag neg n e 0
  let v : Int := if neg then -(m.1 : Int) else m.1
  if F.lo ≤ v ∧ v ≤ F.hi then (v, if m.2 || (r.mode == 5 && F.above neg n e) then NX else 0) else (F.clamp sat v, NV)

/-! ### Conversions (04 R111, 06 R164-R167) -/

/-- A conversion's target. -/
inductive Target where
  | flt (F : FFmt)
  | int (F : IFmt)
  | p2p8
  | e8m0
  deriving DecidableEq, Repr

/-- A value converted to a target with one rounding (06 R165): its bits, an integer in two's complement of w bits. -/
def convertVal (T : Target) (w : Nat) (r : Rnd) (fpm : Word) (sat : Bool) (x : FVal) : Nat × Word :=
  let intBits (v : Int) : Nat := (v % (2 ^ w : Nat)).toNat
  match T, x with
  | .flt F, .num s n e => F.round r fpm sat s n e
  | .flt F, .inf s =>
    (match F.top with
     | .ieee => F.signed s (if sat then F.maxBits else F.infBits)
     | .nanOnly => if sat then F.signed s F.maxBits else F.signed (s && !fpmCanon fpm) (F.maxBits + 1)
     | .finite => F.signed s F.maxBits, 0)
  | .flt F, .nan s q f mb =>
    if F.top = .finite then (0, NV) else (F.carryNan fpm s f mb, if q then 0 else NV)
  | .int F, .num s n e =>
    let v := roundInt F r sat s n e
    (intBits v.1, v.2)
  | .int F, .inf s => (intBits (F.clamp sat (if s then F.lo - 1 else F.hi + 1)), NV)
  | .int _, .nan _ _ _ _ => (0, NV)
  | .p2p8, .num s n e => roundP2 r s n e
  | .p2p8, .inf s => (if s then 0x88 else 0x00, 0)
  | .p2p8, .nan _ _ _ _ => (0x77, NV)
  | .e8m0, .num s n e => roundE8 r sat s n e
  | .e8m0, .inf s => if s then (0xFF, NV) else (if sat then 0xFE else 0xFF, 0)
  | .e8m0, .nan _ _ _ _ => (0xFF, NV)

/-- A conversion's source. -/
inductive Source where
  | flt (F : FFmt)
  | int (F : IFmt)
  | p2p8
  | e8m0
  deriving DecidableEq, Repr

/-- The value of a source's bits (06 R164, R165); code 0xFF of E8M0 is a NaN that sets NV. -/
def readSource (S : Source) (fpm : Word) (w : Nat) : FVal :=
  match S with
  | .flt F => F.operand fpm (w % 2 ^ (F.sbit + 1))
  | .int F =>
    let v : Int := if F.signed then sintN F.w w else (w % 2 ^ F.w : Nat)
    .num (decide (v < 0)) v.natAbs 0
  | .p2p8 => .num (decide (p2Value w < 0)) (p2Value w).natAbs (-6)
  | .e8m0 => if w % 256 = 255 then .nan false false 0 1 else .num false 1 ((w % 256 : Nat) - 127)

def int32 : IFmt := { w := 32, signed := true }
def uint32 : IFmt := { w := 32, signed := false }
def int64 : IFmt := { w := 64, signed := true }
def int8 : IFmt := { w := 8, signed := true }
def int4 : IFmt := { w := 4, signed := true }
def int16 : IFmt := { w := 16, signed := true }
def uint8 : IFmt := { w := 8, signed := false }

/-- The mode of a CV instruction: rnd 0 is FPM.RM, 1 to 5 the modes, 6 the destination's old value (04 R106, R107). -/
def Rnd.ofCv (rnd : Nat) (fpm : Word) (old : Word) : Rnd :=
  if rnd = 0 then Rnd.ofFpm fpm else if rnd = 6 then { mode := 5, u := old.toNat } else { mode := rnd - 1, u := 0 }

end Sys2Proof.Machine
end

