-- ==== Sys2Proof/Machine/Estimate.lean ====
section
/-!
DEFINITION. The six estimates (06 R161, R162; log 6). The device gives one of the FP32 values within the bound of an
estimate; which one is free (Config.estimate). The function itself is taken to 400 places below the point.
-/
namespace Sys2Proof.Machine

/-- pi and ln 2 in units of 2^-440. -/
def piFix : Int := 0x3243f6a8885a308d313198a2e03707344a4093822299f31d0082efa98ec4e6c89452821e638d01377be5466cf34e90c6cc0ac29b7c97c50
def ln2Fix : Int := 0xb17217f7d1cf79abc9e3b39803f2f6af40f343267298b62d8a0d175b8baafa2be7b876206debac98559552fb4afa1b10ed2eae35c13821

/-- A product in units of 2^-440. -/
def fixMul (a b : Int) : Int := a * b / 2 ^ 440

/-- The sum of a Taylor series: n more terms, each the last one times y / (i (i + 1) ... ) over `step` factors. -/
def taylor (step : Nat) (y : Int) : Nat → Nat → Int → Int → Int
  | 0, _, _, acc => acc
  | n + 1, i, t, acc =>
    let d : Int := if step = 1 then (i : Int) else (i : Int) * ((i : Int) + 1)
    let t' := fixMul t y / d
    taylor step y n (i + step) t' (acc + t')

/-- e^y for 0 ≤ y < 1, in units of 2^-440. -/
def expFix (y : Int) : Int := taylor 1 y 100 1 (2 ^ 440) (2 ^ 440)
/-- sin and cos of y between 0 and 2 pi, in units of 2^-440. -/
def sinFix (y : Int) : Int := taylor 2 (-(fixMul y y)) 90 2 y y
def cosFix (y : Int) : Int := taylor 2 (-(fixMul y y)) 90 1 (2 ^ 440) (2 ^ 440)

/-- The sum of z^(2k+1) / (2k+1) from the term of index i on. -/
def atanhSum (zz : Int) : Nat → Nat → Int → Int → Int
  | 0, _, _, acc => acc
  | n + 1, i, t, acc => atanhSum zz n (i + 2) (fixMul t zz) (acc + t / (i : Int))

/-- n x 2^e in units of 2^-440, truncated. -/
def toFix (n : Nat) (e : Int) : Int := if 0 ≤ e + 440 then (n * 2 ^ (e + 440).toNat : Nat) else (n / 2 ^ (-(e + 440)).toNat : Nat)

/-- The function of an estimate at x = (-1)^neg x n x 2^e, n not 0, in units of 2^-400 (06 R161). -/
def estValue (fn : Nat) (neg : Bool) (n : Nat) (e : Int) : Int :=
  match fn with
  | 2 =>
    let v : Int := (2 ^ (400 - e).toNat / n : Nat)
    if neg then -v else v
  | 3 => (isqrt (2 ^ (800 - e).toNat / n) : Nat)
  | 4 =>
    let x := if neg then -(toFix n e) else toFix n e
    let k := x / 2 ^ 440
    let v := expFix (fixMul (x % 2 ^ 440) ln2Fix)
    if k < -600 then 0 else if 40 ≤ k then v * 2 ^ (k - 40).toNat else v / 2 ^ (40 - k).toNat
  | 5 =>
    let lg := n.log2
    let z : Int := ((n - 2 ^ lg : Nat) : Int) * 2 ^ 440 / ((n + 2 ^ lg : Nat) : Int)
    ((lg : Int) + e) * 2 ^ 400 + 2 * atanhSum (fixMul z z) 145 1 z 0 * 2 ^ 440 / ln2Fix / 2 ^ 40
  | _ =>
    let y := toFix n e % (2 * piFix)
    let v := if fn = 6 then sinFix y / 2 ^ 40 else cosFix y / 2 ^ 40
    if neg && fn == 6 then -v else v

/-- ulp of a value in units of 2^-400 (06 R161). -/
def estUlp (f : Int) : Int := 2 ^ (max (f.natAbs.log2 : Int) 274 - 23).toNat

/-- The bound of fex2, flg2, fsin and fcos at x in units of 2^-400 (06 R161). -/
def estBound (fn : Nat) (n : Nat) (e f : Int) : Int :=
  match fn with
  | 5 =>
    let near := atLeast n e (-1) && (!atLeast n e 1 || (ilog2 n e == 1 && n == 2 ^ n.log2))
    if near then 2 ^ 378 else 2 * estUlp f
  | 6 | 7 => 2 ^ 379
  | _ => 2 * estUlp f

/-- A value v, in units of 2^-400, lies within the bound of an estimate at x: for 1/x and 1/sqrt x by exact comparison of
integers; for the others against the function to 400 places, where the only multiple of 2^-150 that a value can come
nearer to than that, beyond the exact cases, is 0, which 2^x stays above (06 R161; log 6). -/
def estWithin (fn : Nat) (neg : Bool) (n : Nat) (e f v : Int) : Bool :=
  match fn with
  | 2 => decide ((v * n - (if neg then -1 else 1) * 2 ^ (400 - e).toNat).natAbs < (estUlp f * n).natAbs)
  | 3 =>
    let one : Int := 2 ^ (800 - e).toNat
    let hi := v + 2 * estUlp f
    let lo := v - 2 * estUlp f
    decide (0 ≤ hi) && decide (one ≤ n * hi * hi) && (decide (lo ≤ 0) || decide (n * lo * lo ≤ one))
  | 4 =>
    let b := estBound fn n e f
    decide (0 < v + b) && decide (f ≤ v + b) && (decide (v - b ≤ 0) || decide (v - b ≤ f))
  | _ => decide (((v - f).natAbs : Int) ≤ estBound fn n e f)

/-- A finite FP32 value in units of 2^-400. -/
def fixOfWord (w : Word) : Option Int :=
  match FFmt.f32.read w.toNat with
  | .num s n e =>
    let v : Int := (n * 2 ^ (e + 400).toNat : Nat)
    some (if s then -v else v)
  | _ => none

/-- An FP32 word is a permitted outcome of an estimate (06 R161): sine and cosine beyond 2^15 give any value of [-1, 1]. -/
def estPermits (fn : Nat) (neg : Bool) (n : Nat) (e f : Int) (w : Word) : Bool :=
  match fixOfWord w with
  | none => false
  | some v =>
    if (fn == 6 || fn == 7) && atLeast n e 15 && !(ilog2 n e == 15 && n == 2 ^ n.log2) then decide (v.natAbs ≤ 2 ^ 400)
    else estWithin fn neg n e f v

/-- The value nearest the function, never an infinity. -/
def estNearest (f : Int) : Word :=
  let r := (FFmt.f32.round { mode := 0, u := 0 } 0 true (decide (f < 0)) f.natAbs (-400)).1
  BitVec.ofNat 32 r

/-- The device's choice among the permitted outcomes (log 6). -/
def estChoice (fn : Nat) (fpm a : Word) (neg : Bool) (n : Nat) (e f : Int) : Word :=
  let w : Word := BitVec.ofNat 32 (Config.estimate fn a fpm)
  if estPermits fn neg n e f w then w else estNearest f

/-- The exact cases (06 R161): their value as a sign, an integer and an exponent. -/
def estExact (fn : Nat) (neg : Bool) (n : Nat) (e : Int) : Option FVal :=
  let lg := ilog2 n e
  let pow2 := n == 2 ^ n.log2
  match fn with
  | 2 => if pow2 && decide (-126 ≤ -lg) && decide (-lg ≤ 127) then some (.num neg 1 (-lg)) else none
  | 3 => if pow2 && lg % 2 == 0 then some (.num false 1 (-(lg / 2))) else none
  | 4 =>
    let m := toFix n e
    let x := (if neg then -m else m) / 2 ^ 440
    if m % 2 ^ 440 = 0 ∧ -149 ≤ x ∧ x ≤ 127 then some (.num false 1 x) else none
  | 5 => if pow2 then some (.num (decide (lg < 0)) lg.natAbs 0) else none
  | 6 => if atLeast n e (-12) then none else some (.num neg n e)
  | _ => if atLeast n e (-12) then none else some (.num false 1 0)

/-- A finite operand beyond the range of the function: frcp below 2^-128 and fex2 from 128 give an infinity (06 R161). -/
def estOverflows (fn : Nat) (neg : Bool) (n : Nat) (e : Int) : Bool :=
  (fn == 2 && !atLeast n e (-128)) || (fn == 4 && !neg && atLeast n e 7)

/-- An estimate at a finite operand that is not zero. DESIGN CHOICE (log 47): whether a result is tiny (04 R108, 06 R161) is
judged on the value delivered, and on the function itself only where a zero is delivered. -/
def estFinite (fn : Nat) (fpm a : Word) (neg : Bool) (n : Nat) (e : Int) : Nat × Word :=
  let F := FFmt.f32
  if (fn = 3 ∨ fn = 5) ∧ neg then (F.defaultNan, NV)
  else if estOverflows fn neg n e then (F.signed (neg && fn == 2) F.infBits, OF ||| NX)
  else
    match estExact fn neg n e with
    | some v => F.deliver fpm (some v)
    | none =>
      let f := estValue fn neg n e
      let w := (estChoice fn fpm a neg n e f).toNat
      let s := nbit w 31
      let low := nbits w 23 8 == 0
      let tiny := low && (nbits w 0 23 != 0 || decide (f.natAbs < 2 ^ 274))
      if tiny && fpmFtz fpm then (F.signed s 0, UF ||| NX) else (w, if tiny then UF ||| NX else NX)

/-- An estimate: fn as the function field of major 0x26 (06 R161, R162). -/
def estimate (fn : Nat) (fpm a : Word) : Nat × Word :=
  let F := FFmt.f32
  let x := F.operand fpm a.toNat
  F.withNans fpm [x] (match x with
    | .inf s =>
      match fn with
      | 2 => (F.signed s 0, 0)
      | 3 => if s then (F.defaultNan, NV) else (0, 0)
      | 4 => if s then (0, 0) else (F.infBits, 0)
      | 5 => if s then (F.defaultNan, NV) else (F.infBits, 0)
      | _ => (F.defaultNan, NV)
    | .num s n e =>
      if n = 0 then
        match fn with
        | 2 => (F.signed s F.infBits, DZ)
        | 3 => (F.signed s F.infBits, 0)
        | 5 => (F.signed true F.infBits, DZ)
        | 6 => (F.signed s 0, 0)
        | _ => (0x3F800000, 0)
      else estFinite fn fpm a s n e
    | _ => (F.defaultNan, 0))

end Sys2Proof.Machine
end

