-- ==== Sys2Proof/Machine/FloatOps.lean ====
section
/-!
DEFINITION. Floating-point instructions (06 R152-R163).
-/
namespace Sys2Proof.Machine

/-- The acting lanes' writes, and the OR of their flags. -/
def Issuer.laneResults (x : Issuer) (h : Hdr) (g : Nat → List RegWrite × Word) : List RegWrite × Word :=
  (x.lanes h).foldl (fun acc l => (acc.1 ++ (g l).1, acc.2 ||| (g l).2)) ([], 0)

/-- A lane instruction with flags, short or long (06 R153). -/
def flagOp (long : Bool) (s : State) (h : Hdr) (g : Issuer → Nat → List RegWrite × Word) : Out :=
  if long then longOp s h fun x => x.laneResults h (g x) else shortOp s h 4 fun x => x.laneResults h (g x)

/-- One lane register from two, under FPM. -/
def f32Op2 (long : Bool) (s : State) (f : RR) (g : Word → Nat → Nat → Nat × Word) : Out :=
  flagOp long s f.h fun x l =>
    let r := g x.t.fpm (x.t.vr f.a.toNat l).toNat (x.t.vr f.b.toNat l).toNat
    ([.v f.d.toNat l (BitVec.ofNat 32 r.1)], r.2)

/-- One lane pair from two, under FPM. -/
def f64Op2 (long : Bool) (s : State) (f : RR) (g : Word → Nat → Nat → Nat × Word) : Out :=
  flagOp long s f.h fun x l =>
    let r := g x.t.fpm (x.t.wr f.a.toNat l).toNat (x.t.wr f.b.toNat l).toNat
    (wWrites f.d.toNat l (BitVec.ofNat 64 r.1), r.2)

/-- The 16-bit form of an FP32 instruction (03 R62). -/
def f32OpC (s : State) (f : C16) (g : Word → Nat → Nat → Nat × Word) : Out :=
  shortOp s (cHdr f.s) 2 fun x => x.laneResults (cHdr f.s) fun l =>
    let r := g x.t.fpm (x.t.vr f.d.toNat l).toNat (x.t.vr f.b.toNat l).toNat
    ([.v f.d.toNat l (BitVec.ofNat 32 r.1)], r.2)

/-- Both FP16 elements of a register, each with its own result (06 R154). -/
def halves (g : Nat → Nat → Nat → Nat × Word) (a b d : Word) : Word × Word :=
  let lo := g (nbits a.toNat 0 16) (nbits b.toNat 0 16) (nbits d.toNat 0 16)
  let hi := g (nbits a.toNat 16 16) (nbits b.toNat 16 16) (nbits d.toNat 16 16)
  (BitVec.ofNat 32 (lo.1 + 65536 * hi.1), lo.2 ||| hi.2)

/-- A paired FP16 instruction: long (06 R153, R154). -/
def f16x2Op (s : State) (f : RR) (g : Word → Nat → Nat → Nat → Nat × Word) : Out :=
  flagOp true s f.h fun x l =>
    let r := halves (g x.t.fpm) (x.t.vr f.a.toNat l) (x.t.vr f.b.toNat l) (x.t.vr f.d.toNat l)
    ([.v f.d.toNat l r.1], r.2)

/-- One lane register from one, under FPM. -/
def f32Op1 (long : Bool) (s : State) (f : UN) (g : Word → Word → Nat × Word) : Out :=
  flagOp long s f.h fun x l =>
    let r := g x.t.fpm (x.t.vr f.a.toNat l)
    ([.v f.d.toNat l (BitVec.ofNat 32 r.1)], r.2)

/-- One lane pair from one, under FPM. -/
def f64Op1 (long : Bool) (s : State) (f : UN) (g : Word → Nat → Nat × Word) : Out :=
  flagOp long s f.h fun x l =>
    let r := g x.t.fpm (x.t.wr f.a.toNat l).toNat
    (wWrites f.d.toNat l (BitVec.ofNat 64 r.1), r.2)

/-- fadd.c (03 R62, 06 R155). -/
def execFaddC (f : C16) (s : State) : Out := f32OpC s f FFmt.f32.add

/-- fsub.c (03 R62, 06 R155). -/
def execFsubC (f : C16) (s : State) : Out := f32OpC s f FFmt.f32.sub

/-- fmul.c (03 R62, 06 R155). -/
def execFmulC (f : C16) (s : State) : Out := f32OpC s f FFmt.f32.mul

/-- fmax.c (03 R62, 06 R157). -/
def execFmaxC (f : C16) (s : State) : Out := f32OpC s f (fun m a b => FFmt.f32.minMax m true a b)

/-- fmin.c (03 R62, 06 R157). -/
def execFminC (f : C16) (s : State) : Out := f32OpC s f (fun m a b => FFmt.f32.minMax m false a b)

/-- fadd.f32 (06 R155). -/
def execFaddF32 (f : RR) (s : State) : Out := f32Op2 false s f FFmt.f32.add

/-- fsub.f32 (06 R155). -/
def execFsubF32 (f : RR) (s : State) : Out := f32Op2 false s f FFmt.f32.sub

/-- fmul.f32 (06 R155). -/
def execFmulF32 (f : RR) (s : State) : Out := f32Op2 false s f FFmt.f32.mul

/-- ffma.f32 (06 R155). -/
def execFfmaF32 (f : RR) (s : State) : Out := 
  flagOp false s f.h fun x l =>
    let r := FFmt.f32.fma x.t.fpm (x.t.vr f.a.toNat l).toNat (x.t.vr f.b.toNat l).toNat (x.t.vr f.d.toNat l).toNat
    ([.v f.d.toNat l (BitVec.ofNat 32 r.1)], r.2)

/-- fmin.f32 (06 R157). -/
def execFminF32 (f : RR) (s : State) : Out := f32Op2 false s f (fun m a b => FFmt.f32.minMax m false a b)

/-- fmax.f32 (06 R157). -/
def execFmaxF32 (f : RR) (s : State) : Out := f32Op2 false s f (fun m a b => FFmt.f32.minMax m true a b)

/-- fdiv.f32, long (06 R153, R156). -/
def execFdivF32 (f : RR) (s : State) : Out := f32Op2 true s f FFmt.f32.div

/-- fcpsgn.f32 (06 R158). -/
def execFcpsgnF32 (f : RR) (s : State) : Out := f32Op2 false s f (fun _ a b => (nbits a 0 31 + 2 ^ 31 * nbits b 31 1, 0))

/-- fadd.f64 (06 R155). -/
def execFaddF64 (f : RR) (s : State) : Out := f64Op2 false s f FFmt.f64.add

/-- fsub.f64 (06 R155). -/
def execFsubF64 (f : RR) (s : State) : Out := f64Op2 false s f FFmt.f64.sub

/-- fmul.f64 (06 R155). -/
def execFmulF64 (f : RR) (s : State) : Out := f64Op2 false s f FFmt.f64.mul

/-- ffma.f64 (06 R155). -/
def execFfmaF64 (f : RR) (s : State) : Out := 
  flagOp false s f.h fun x l =>
    let r := FFmt.f64.fma x.t.fpm (x.t.wr f.a.toNat l).toNat (x.t.wr f.b.toNat l).toNat (x.t.wr f.d.toNat l).toNat
    (wWrites f.d.toNat l (BitVec.ofNat 64 r.1), r.2)

/-- fmin.f64 (06 R157). -/
def execFminF64 (f : RR) (s : State) : Out := f64Op2 false s f (fun m a b => FFmt.f64.minMax m false a b)

/-- fmax.f64 (06 R157). -/
def execFmaxF64 (f : RR) (s : State) : Out := f64Op2 false s f (fun m a b => FFmt.f64.minMax m true a b)

/-- fdiv.f64, long (06 R153, R156). -/
def execFdivF64 (f : RR) (s : State) : Out := f64Op2 true s f FFmt.f64.div

/-- fcpsgn.f64 (06 R158). -/
def execFcpsgnF64 (f : RR) (s : State) : Out := f64Op2 false s f (fun _ a b => (nbits a 0 63 + 2 ^ 63 * nbits b 63 1, 0))

/-- fadd.f16x2 (06 R154, R155). -/
def execFaddF16x2 (f : RR) (s : State) : Out := f16x2Op s f (fun m a b _ => FFmt.f16.add m a b)

/-- fsub.f16x2 (06 R154, R155). -/
def execFsubF16x2 (f : RR) (s : State) : Out := f16x2Op s f (fun m a b _ => FFmt.f16.sub m a b)

/-- fmul.f16x2 (06 R154, R155). -/
def execFmulF16x2 (f : RR) (s : State) : Out := f16x2Op s f (fun m a b _ => FFmt.f16.mul m a b)

/-- ffma.f16x2 (06 R154, R155). -/
def execFfmaF16x2 (f : RR) (s : State) : Out := f16x2Op s f (fun m a b d => FFmt.f16.fma m a b d)

/-- fmin.f16x2 (06 R157). -/
def execFminF16x2 (f : RR) (s : State) : Out := f16x2Op s f (fun m a b _ => FFmt.f16.minMax m false a b)

/-- fmax.f16x2 (06 R157). -/
def execFmaxF16x2 (f : RR) (s : State) : Out := f16x2Op s f (fun m a b _ => FFmt.f16.minMax m true a b)

/-- fsqrt.f32, long (06 R159). -/
def execFsqrtF32 (f : UN) (s : State) : Out := f32Op1 true s f (fun m a => FFmt.f32.sqrt m a.toNat)

/-- fsqrt.f64, long (06 R159). -/
def execFsqrtF64 (f : UN) (s : State) : Out := f64Op1 true s f FFmt.f64.sqrt

/-- frcp.f32, an estimate, long (06 R161, log 6). -/
def execFrcpF32 (f : UN) (s : State) : Out := f32Op1 true s f (estimate 2)

/-- frsq.f32, an estimate, long (06 R161, log 6). -/
def execFrsqF32 (f : UN) (s : State) : Out := f32Op1 true s f (estimate 3)

/-- fex2.f32, an estimate, long (06 R161, log 6). -/
def execFex2F32 (f : UN) (s : State) : Out := f32Op1 true s f (estimate 4)

/-- flg2.f32, an estimate, long (06 R161, log 6). -/
def execFlg2F32 (f : UN) (s : State) : Out := f32Op1 true s f (estimate 5)

/-- fsin.f32, an estimate, long (06 R161, log 6). -/
def execFsinF32 (f : UN) (s : State) : Out := f32Op1 true s f (estimate 6)

/-- fcos.f32, an estimate, long (06 R161, log 6). -/
def execFcosF32 (f : UN) (s : State) : Out := f32Op1 true s f (estimate 7)

/-- fabs.f32 (06 R159). -/
def execFabsF32 (f : UN) (s : State) : Out := f32Op1 false s f (fun _ a => (nbits a.toNat 0 31, 0))

/-- fneg.f32 (06 R159). -/
def execFnegF32 (f : UN) (s : State) : Out := f32Op1 false s f (fun _ a => ((a.toNat + 2 ^ 31) % 2 ^ 32, 0))

/-- fclass.f32 (06 R160). -/
def execFclassF32 (f : UN) (s : State) : Out := f32Op1 false s f (fun _ a => (FFmt.f32.classMask a.toNat, 0))

/-- frint.f32, long (06 R153, R159). -/
def execFrintF32 (f : UN) (s : State) : Out := f32Op1 true s f (fun m a => FFmt.f32.rint m a.toNat)

/-- fabs.f64 (06 R159). -/
def execFabsF64 (f : UN) (s : State) : Out := f64Op1 false s f (fun _ a => (nbits a 0 63, 0))

/-- fneg.f64 (06 R159). -/
def execFnegF64 (f : UN) (s : State) : Out := f64Op1 false s f (fun _ a => ((a + 2 ^ 63) % 2 ^ 64, 0))

/-- fclass.f64 (06 R160). -/
def execFclassF64 (f : UN) (s : State) : Out := f64Op1 false s f (fun _ a => (FFmt.f64.classMask a, 0))

/-- frint.f64, long (06 R153, R159). -/
def execFrintF64 (f : UN) (s : State) : Out := f64Op1 true s f (FFmt.f64.rint)

/-- fsetp.f32 (06 R163). -/
def execFsetpF32 (f : PC) (s : State) : Out := 
  flagOp false s f.h fun x l =>
    let r := FFmt.f32.setp x.t.fpm f.cc.toNat (x.t.vr f.a.toNat l).toNat (x.t.vr f.b.toNat l).toNat
    ([.p f.pd.toNat l r.1], r.2)

/-- fsetp.f64 (06 R163). -/
def execFsetpF64 (f : PC) (s : State) : Out := 
  flagOp false s f.h fun x l =>
    let r := FFmt.f64.setp x.t.fpm f.cc.toNat (x.t.wr f.a.toNat l).toNat (x.t.wr f.b.toNat l).toNat
    ([.p f.pd.toNat l r.1], r.2)

end Sys2Proof.Machine
end

