-- ==== Sys2Proof/Machine/Convert.lean ====
section
/-!
DEFINITION. Conversions and MX quantisation (06 R164-R170).
-/
namespace Sys2Proof.Machine

/-- A conversion, long: from a register or pair to a register or pair, in the rounding of rnd, with the destination's old
value as the stochastic bits (06 R153, R164-R166). -/
def cvtOp (s : State) (h : Hdr) (rnd : Nat) (d a : BitVec 6) (fromPair toPair : Bool) (S : Source) (T : Target)
    (sat : Bool) : Out :=
  flagOp true s h fun x l =>
    let w := if fromPair then (x.t.wr a.toNat l).toNat else (x.t.vr a.toNat l).toNat
    let r := convertVal T (if toPair then 64 else 32) (Rnd.ofCv rnd x.t.fpm (x.t.vr d.toNat l)) x.t.fpm sat
      (readSource S x.t.fpm w)
    (if toPair then wWrites d.toNat l (BitVec.ofNat 64 r.1) else [.v d.toNat l (BitVec.ofNat 32 r.1)], r.2)

/-- cvt.f32.f64 (06 R164, R165). -/
def execCvtF32F64 (f : CV) (s : State) : Out := cvtOp s f.h f.rnd.toNat f.d f.a true false (.flt .f64) (.flt .f32) false

/-- cvt.f64.f32 (06 R164, R165). -/
def execCvtF64F32 (f : UN) (s : State) : Out := cvtOp s f.h 0 f.d f.a false true (.flt .f32) (.flt .f64) false

/-- cvt.f16.f32 (06 R164, R165). -/
def execCvtF16F32 (f : CV) (s : State) : Out := cvtOp s f.h f.rnd.toNat f.d f.a false false (.flt .f32) (.flt .f16) false

/-- cvt.f32.f16 (06 R164, R165). -/
def execCvtF32F16 (f : UN) (s : State) : Out := cvtOp s f.h 0 f.d f.a false false (.flt .f16) (.flt .f32) false

/-- cvt.bf16.f32 (06 R164, R165). -/
def execCvtBf16F32 (f : CV) (s : State) : Out := cvtOp s f.h f.rnd.toNat f.d f.a false false (.flt .f32) (.flt .bf16) false

/-- cvt.f32.bf16 (06 R164, R165). -/
def execCvtF32Bf16 (f : UN) (s : State) : Out := cvtOp s f.h 0 f.d f.a false false (.flt .bf16) (.flt .f32) false

/-- cvt.e4m3.f32 (06 R164, R165). -/
def execCvtE4m3F32 (f : CV) (s : State) : Out := cvtOp s f.h f.rnd.toNat f.d f.a false false (.flt .f32) (.flt .e4m3) false

/-- cvt.e5m2.f32 (06 R164, R165). -/
def execCvtE5m2F32 (f : CV) (s : State) : Out := cvtOp s f.h f.rnd.toNat f.d f.a false false (.flt .f32) (.flt .e5m2) false

/-- cvt.f32.e4m3 (06 R164, R165). -/
def execCvtF32E4m3 (f : UN) (s : State) : Out := cvtOp s f.h 0 f.d f.a false false (.flt .e4m3) (.flt .f32) false

/-- cvt.f32.e5m2 (06 R164, R165). -/
def execCvtF32E5m2 (f : UN) (s : State) : Out := cvtOp s f.h 0 f.d f.a false false (.flt .e5m2) (.flt .f32) false

/-- cvt.e2m1.f32 (06 R164, R165). -/
def execCvtE2m1F32 (f : CV) (s : State) : Out := cvtOp s f.h f.rnd.toNat f.d f.a false false (.flt .f32) (.flt .e2m1) false

/-- cvt.f32.e2m1 (06 R164, R165). -/
def execCvtF32E2m1 (f : UN) (s : State) : Out := cvtOp s f.h 0 f.d f.a false false (.flt .e2m1) (.flt .f32) false

/-- cvt.p2p8.f32 (06 R164, R165). -/
def execCvtP2p8F32 (f : CV) (s : State) : Out := cvtOp s f.h f.rnd.toNat f.d f.a false false (.flt .f32) (.p2p8) false

/-- cvt.f32.p2p8 (06 R164, R165). -/
def execCvtF32P2p8 (f : UN) (s : State) : Out := cvtOp s f.h 0 f.d f.a false false (.p2p8) (.flt .f32) false

/-- cvt.s32.f32 (06 R164, R165). -/
def execCvtS32F32 (f : CV) (s : State) : Out := cvtOp s f.h f.rnd.toNat f.d f.a false false (.flt .f32) (.int int32) false

/-- cvt.n32.f32 (06 R164, R165). -/
def execCvtN32F32 (f : CV) (s : State) : Out := cvtOp s f.h f.rnd.toNat f.d f.a false false (.flt .f32) (.int uint32) false

/-- cvt.f32.s32 (06 R164, R165). -/
def execCvtF32S32 (f : CV) (s : State) : Out := cvtOp s f.h f.rnd.toNat f.d f.a false false (.int int32) (.flt .f32) false

/-- cvt.f32.n32 (06 R164, R165). -/
def execCvtF32N32 (f : CV) (s : State) : Out := cvtOp s f.h f.rnd.toNat f.d f.a false false (.int uint32) (.flt .f32) false

/-- cvt.s32.f64 (06 R164, R165). -/
def execCvtS32F64 (f : CV) (s : State) : Out := cvtOp s f.h f.rnd.toNat f.d f.a true false (.flt .f64) (.int int32) false

/-- cvt.f64.s32 (06 R164, R165). -/
def execCvtF64S32 (f : UN) (s : State) : Out := cvtOp s f.h 0 f.d f.a false true (.int int32) (.flt .f64) false

/-- cvt.s64.f64 (06 R164, R165). -/
def execCvtS64F64 (f : CV) (s : State) : Out := cvtOp s f.h f.rnd.toNat f.d f.a true true (.flt .f64) (.int int64) false

/-- cvt.f64.s64 (06 R164, R165). -/
def execCvtF64S64 (f : CV) (s : State) : Out := cvtOp s f.h f.rnd.toNat f.d f.a true true (.int int64) (.flt .f64) false

/-- cvt.s8.f32 (06 R164, R165). -/
def execCvtS8F32 (f : CV) (s : State) : Out := cvtOp s f.h f.rnd.toNat f.d f.a false false (.flt .f32) (.int int8) false

/-- cvt.s4.f32 (06 R164, R165). -/
def execCvtS4F32 (f : CV) (s : State) : Out := cvtOp s f.h f.rnd.toNat f.d f.a false false (.flt .f32) (.int int4) false

/-- cvt.f32.s8 (06 R164, R165). -/
def execCvtF32S8 (f : UN) (s : State) : Out := cvtOp s f.h 0 f.d f.a false false (.int int8) (.flt .f32) false

/-- cvt.f32.s4 (06 R164, R165). -/
def execCvtF32S4 (f : UN) (s : State) : Out := cvtOp s f.h 0 f.d f.a false false (.int int4) (.flt .f32) false

/-- cvt.f16.f64 (06 R164, R165). -/
def execCvtF16F64 (f : CV) (s : State) : Out := cvtOp s f.h f.rnd.toNat f.d f.a true false (.flt .f64) (.flt .f16) false

/-- cvt.e8m0.f32 (06 R164, R165). -/
def execCvtE8m0F32 (f : CV) (s : State) : Out := cvtOp s f.h f.rnd.toNat f.d f.a false false (.flt .f32) (.e8m0) false

/-- cvt.f32.e8m0 (06 R164, R165). -/
def execCvtF32E8m0 (f : UN) (s : State) : Out := cvtOp s f.h 0 f.d f.a false false (.e8m0) (.flt .f32) false

/-- cvt.sat.f32.f64 (06 R164, R165). -/
def execCvtSatF32F64 (f : CV) (s : State) : Out := cvtOp s f.h f.rnd.toNat f.d f.a true false (.flt .f64) (.flt .f32) true

/-- cvt.sat.f16.f32 (06 R164, R165). -/
def execCvtSatF16F32 (f : CV) (s : State) : Out := cvtOp s f.h f.rnd.toNat f.d f.a false false (.flt .f32) (.flt .f16) true

/-- cvt.sat.bf16.f32 (06 R164, R165). -/
def execCvtSatBf16F32 (f : CV) (s : State) : Out := cvtOp s f.h f.rnd.toNat f.d f.a false false (.flt .f32) (.flt .bf16) true

/-- cvt.sat.e4m3.f32 (06 R164, R165). -/
def execCvtSatE4m3F32 (f : CV) (s : State) : Out := cvtOp s f.h f.rnd.toNat f.d f.a false false (.flt .f32) (.flt .e4m3) true

/-- cvt.sat.e5m2.f32 (06 R164, R165). -/
def execCvtSatE5m2F32 (f : CV) (s : State) : Out := cvtOp s f.h f.rnd.toNat f.d f.a false false (.flt .f32) (.flt .e5m2) true

/-- cvt.sat.e2m1.f32 (06 R164, R165). -/
def execCvtSatE2m1F32 (f : CV) (s : State) : Out := cvtOp s f.h f.rnd.toNat f.d f.a false false (.flt .f32) (.flt .e2m1) true

/-- cvt.sat.p2p8.f32 (06 R164, R165). -/
def execCvtSatP2p8F32 (f : CV) (s : State) : Out := cvtOp s f.h f.rnd.toNat f.d f.a false false (.flt .f32) (.p2p8) true

/-- cvt.sat.s32.f32 (06 R164, R165). -/
def execCvtSatS32F32 (f : CV) (s : State) : Out := cvtOp s f.h f.rnd.toNat f.d f.a false false (.flt .f32) (.int int32) true

/-- cvt.sat.n32.f32 (06 R164, R165). -/
def execCvtSatN32F32 (f : CV) (s : State) : Out := cvtOp s f.h f.rnd.toNat f.d f.a false false (.flt .f32) (.int uint32) true

/-- cvt.sat.f32.s32 (06 R164, R165). -/
def execCvtSatF32S32 (f : CV) (s : State) : Out := cvtOp s f.h f.rnd.toNat f.d f.a false false (.int int32) (.flt .f32) true

/-- cvt.sat.f32.n32 (06 R164, R165). -/
def execCvtSatF32N32 (f : CV) (s : State) : Out := cvtOp s f.h f.rnd.toNat f.d f.a false false (.int uint32) (.flt .f32) true

/-- cvt.sat.s32.f64 (06 R164, R165). -/
def execCvtSatS32F64 (f : CV) (s : State) : Out := cvtOp s f.h f.rnd.toNat f.d f.a true false (.flt .f64) (.int int32) true

/-- cvt.sat.s64.f64 (06 R164, R165). -/
def execCvtSatS64F64 (f : CV) (s : State) : Out := cvtOp s f.h f.rnd.toNat f.d f.a true true (.flt .f64) (.int int64) true

/-- cvt.sat.f64.s64 (06 R164, R165). -/
def execCvtSatF64S64 (f : CV) (s : State) : Out := cvtOp s f.h f.rnd.toNat f.d f.a true true (.int int64) (.flt .f64) true

/-- cvt.sat.s8.f32 (06 R164, R165). -/
def execCvtSatS8F32 (f : CV) (s : State) : Out := cvtOp s f.h f.rnd.toNat f.d f.a false false (.flt .f32) (.int int8) true

/-- cvt.sat.s4.f32 (06 R164, R165). -/
def execCvtSatS4F32 (f : CV) (s : State) : Out := cvtOp s f.h f.rnd.toNat f.d f.a false false (.flt .f32) (.int int4) true

/-- cvt.sat.f16.f64 (06 R164, R165). -/
def execCvtSatF16F64 (f : CV) (s : State) : Out := cvtOp s f.h f.rnd.toNat f.d f.a true false (.flt .f64) (.flt .f16) true

/-- cvt.sat.e8m0.f32 (06 R164, R165). -/
def execCvtSatE8m0F32 (f : CV) (s : State) : Out := cvtOp s f.h f.rnd.toNat f.d f.a false false (.flt .f32) (.e8m0) true

/-! ### MX quantisation (06 R168-R170) -/

/-- An element format of a descriptor: code 3, 4 or 5, with its largest exponent (06 R168). -/
def mxFormat (f : Nat) : Option (FFmt × Nat) :=
  match f with
  | 3 => some (.e4m3, 8)
  | 4 => some (.e5m2, 15)
  | 5 => some (.e2m1, 2)
  | _ => none

/-- The scale code of some values for a largest exponent, or none when one is no finite number (06 R168). -/
def mxCode (emax : Nat) (vs : List FVal) : Option Nat :=
  if vs.any fun v => match v with
    | .num _ _ _ => false
    | _ => true
  then none
  else
    let logs := vs.filterMap fun v => match v with
      | .num _ n e => if n = 0 then none else some (ilog2 n e)
      | _ => none
    match logs with
    | [] => some 0
    | k :: ks => some (min (max (ks.foldl max k - emax + 127) 0) 254).toNat

/-- The descriptor that mxscale gives the lanes of one pass, and its flag (06 R168). -/
def mxDescriptor (t : Team) (a b : Nat) (ls : List Nat) : Nat × Word :=
  let f := nbits (t.vr b (ls.headD 0)).toNat 0 8
  let k := (mxFormat f).bind fun F => mxCode F.2 (ls.map fun l => FFmt.f32.operand t.fpm (t.vr a l).toNat)
  match k with
  | some k => (f * 256 + k, 0)
  | none => (f * 256 + 0xFF, NV)

/-- mxscale (06 R168). -/
def execMxscale (f : RR) (s : State) : Out :=
  shortOp s f.h 4 fun x =>
    (List.range 32).foldl
      (fun acc j =>
        let ls := (x.lanes f.h).filter fun l => l / 32 == j
        if ls.isEmpty then acc
        else
          let r := mxDescriptor x.t f.a.toNat f.b.toNat ls
          (acc.1 ++ ls.map fun l => RegWrite.v f.d.toNat l (BitVec.ofNat 32 r.1), acc.2 ||| r.2)) ([], 0)

/-- A value times 2^k. -/
def FVal.scale (v : FVal) (k : Int) : FVal :=
  match v with
  | .num s n e => .num s n (e + k)
  | v => v

/-- The element that mxq gives a value under a descriptor (06 R169). -/
def mxQuantise (fpm : Word) (x : FVal) (desc : Nat) : Nat × Word :=
  match mxFormat (nbits desc 8 8) with
  | none => (0, NV)
  | some (F, _) =>
    if nbits desc 0 8 = 0xFF then (F.defaultNan, NV)
    else convertVal (.flt F) 32 (Rnd.ofFpm fpm) fpm true (x.scale (127 - (nbits desc 0 8 : Nat)))

/-- The FP32 value of an element under a descriptor (06 R170). -/
def mxExpand (fpm : Word) (w desc : Nat) : Nat × Word :=
  match mxFormat (nbits desc 8 8) with
  | none => (FFmt.f32.defaultNan, NV)
  | some (F, _) =>
    if nbits desc 0 8 = 0xFF then (FFmt.f32.defaultNan, NV)
    else convertVal (.flt .f32) 32 (Rnd.ofFpm fpm) fpm false
      ((F.read (w % 2 ^ (F.sbit + 1))).scale ((nbits desc 0 8 : Nat) - 127))

/-- mxq, long (06 R169). -/
def execMxq (f : RR) (s : State) : Out :=
  flagOp true s f.h fun x l =>
    let r := mxQuantise x.t.fpm (FFmt.f32.operand x.t.fpm (x.t.vr f.a.toNat l).toNat) (x.t.vr f.b.toNat l).toNat
    ([.v f.d.toNat l (BitVec.ofNat 32 r.1)], r.2)

/-- mxdq, long (06 R170). -/
def execMxdq (f : RR) (s : State) : Out :=
  flagOp true s f.h fun x l =>
    let r := mxExpand x.t.fpm (x.t.vr f.a.toNat l).toNat (x.t.vr f.b.toNat l).toNat
    ([.v f.d.toNat l (BitVec.ofNat 32 r.1)], r.2)


end Sys2Proof.Machine
end

