-- ==== Sys2Proof/Machine/Debug.lean ====
section
/-!
DEFINITION. Debugging and profiling: the catalogue (18 R390, R391), stops and holds (18 R388, R389), watchpoint ranges
(18 R385), trial counts and progress counters (18 R392).
-/
namespace Sys2Proof.Machine

/-- CATCTL.SIZELOG as it acts. -/
def catSizeLog (w : Word) : Nat := let n := nbits w.toNat 8 5; if 8 ≤ n ∧ n ≤ 24 then n else 8

/-- The compute die whose clock a catalogue record tells: the die of the team that it names (20 R406). -/
def recordDie (s : State) (pn tid : Nat) : Nat := ((s.team (pn * 65536 + tid)).map Team.die).getD (supAgent s pn).die

/-- The 32 bytes of a catalogue record (18 R391). -/
def catRecord (s : State) (pn kind arg tid path gid : Nat) (pc data : Dword) : List Byte :=
  bytesOf 1 kind ++ bytesOf 1 arg ++ bytesOf 2 tid ++ bytesOf 1 path ++ bytesOf 1 0 ++ bytesOf 2 gid
    ++ bytesOf 8 (s.now (recordDie s pn tid)).toNat ++ bytesOf 8 pc.toNat ++ bytesOf 8 data.toNat

/-- A record goes to the catalogue when its kind is enabled: dropped with FULL set when the ring is full and does not
wrap, dropped with ERR set and EN cleared when the write faults (18 R390). -/
def catWrite (s : State) (pn kind arg tid path gid : Nat) (pc data : Dword) : State :=
  let p := s.part pn
  let ctl := p.reg 0x76
  if !nbit ctl.toNat 0 || !nbit ctl.toNat (16 + kind) then s
  else
    let ptr := (p.reg 0x77).toNat
    let size := 2 ^ catSizeLog ctl
    if !nbit ctl.toNat 1 && decide (size ≤ ptr) then s.modPart pn fun p => p.setReg 0x76 (ctl ||| 4)
    else
      match vwrite s (supAgent s pn) (p.reg64 0x74 + 32 * (ptr % size))
          (catRecord s pn kind arg tid path gid pc data) with
      | .error (s, _) => s.modPart pn fun p => p.setReg 0x76 ((ctl ||| 8) &&& ~~~1)
      | .ok s => s.modPart pn fun p => p.setReg 0x77 (p.reg 0x77 + 1)

/-- DATA of the records that tell a path's lanes: the summary word and the lowest non-empty mask word (18 R391). -/
def catMask (m : Mask) : Dword :=
  pairOf (summary m) (if passOf m = 0xFF then 0 else maskWord m (passOf m))

/-- A debug stop: a record of kind 3 in the trap queue and one in the catalogue (18 R381, R388). -/
def debugStop (s : State) (tk : Nat) (t : Team) (pi : Nat) (pc : Dword) (m : Mask) (catKind number : Nat) : State :=
  let tr := mkTrap s t 0 0 pc 0 pi m 0 (BitVec.ofNat 32 (number + if catKind = 2 then 256 else 0))
  let s := { s with nextTrap := s.nextTrap + 1 }
  let s := tqDeliver s (pnumOf tk) (trapRecord 3 tk t tr)
  catWrite s (pnumOf tk) catKind number (tidOf tk) pi (t.gid % 65536) pc (catMask m)

/-- The ASID field and ALLAS of a watchpoint or breakpoint control word cover a local ASID. -/
def ctlCovers (ctl : Word) (asid : Nat) : Bool := nbit ctl.toNat 9 || nbits ctl.toNat 16 13 == asid

/-- PC breakpoint n stops a path of a debug-flagged team at a PC under its ASID, the supervisor's under SVASID (18 R387,
R388, 17 R371). -/
def bpMatches (p : Part) (t : Team) (pc : Dword) (n : Nat) : Bool :=
  let ctl := p.reg (0x70 + 3 * n)
  t.debug && nbit ctl.toNat 0 && ctlCovers ctl (p.asidOf t) && p.reg64 (0x6E + 3 * n) / 2 == pc.toNat / 2

/-- Watchpoint n watches an access of len bytes at an address, by reads or writes (18 R385, R386). -/
def wpMatches (p : Part) (t : Team) (va len : Nat) (reads writes : Bool) (n : Nat) : Bool :=
  let ctl := p.reg (0x64 + 3 * n)
  let lg := min (nbits ctl.toNat 4 5) 20
  let base := p.reg64 (0x62 + 3 * n) / 2 ^ lg * 2 ^ lg
  t.debug && nbit ctl.toNat 0 && ctlCovers ctl t.asid && ((reads && nbit ctl.toNat 1) || (writes && nbit ctl.toNat 2))
    && overlap va len base (2 ^ lg)

/-- The lowest watchpoint that an access hits. -/
def wpHit (p : Part) (t : Team) (va len : Nat) (reads writes : Bool) : Option Nat :=
  (List.range 4).find? fun n => wpMatches p t va len reads writes n

/-- A grid is another or a descendant of it. -/
def inFamily (s : State) (top gid : Nat) : Bool := (withChildren s 10 [top]).contains gid

/-- An instruction of a team that takes part in a causal trial is counted, inside or outside the range (18 R391, R392). -/
def countTrial (s : State) (tk : Nat) (t : Team) (pc : Dword) : State :=
  let pn := pnumOf tk
  let p := s.part pn
  let ctl := p.reg 0x7C
  if !t.sup && nbit ctl.toNat 8 && inFamily s (pn * 65536 + nbits ctl.toNat 16 16) t.gid then
    let sat (w : Word) : Word := if w = 0xFFFFFFFF then w else w + 1
    s.modPart pn fun p =>
      if p.reg64 0x78 ≤ pc.toNat ∧ pc.toNat < p.reg64 0x7A then { p with cxIn := sat p.cxIn }
      else { p with cxOut := sat p.cxOut }
  else s

end Sys2Proof.Machine
end

