-- ==== Sys2Proof/Machine/Access.lean ====
section
/-!
DEFINITION. Memory accesses of lanes: their checks (07 R173-R177), their performance in global memory and in scratchpads
(R180-R188), and what a memory instruction does with the lanes that perform, are held or fault (R178, 15 R321, 18 R386).
-/
namespace Sys2Proof.Machine

/-! ### Widths (03 R79) -/

/-- The bytes of a size code. -/
def szBytes (sz : Nat) : Nat := if sz ≤ 1 then 1 else if sz ≤ 3 then 2 else if sz = 4 then 4 else if sz = 5 then 8 else 16
/-- The registers of a size code's data. -/
def szRegs (sz : Nat) : Nat := if sz = 5 then 2 else if sz = 6 then 4 else 1
/-- The words that a load writes. -/
def loadWords (sz v : Nat) : List Word :=
  match sz with
  | 1 => [wordOfInt (sintN 8 v)]
  | 3 => [wordOfInt (sintN 16 v)]
  | 5 => [BitVec.ofNat 32 v, BitVec.ofNat 32 (v / 2 ^ 32)]
  | 6 => (List.range 4).map fun k => BitVec.ofNat 32 (v / 2 ^ (32 * k))
  | _ => [BitVec.ofNat 32 v]
/-- The writes of a load into registers from d on. -/
def loadWrites (sz d l v : Nat) : List RegWrite := (loadWords sz v).zipIdx.map fun e => RegWrite.v (d + e.2) l e.1
/-- The bytes that a store writes. -/
def storeBytes (sz : Nat) (data : List Word) : List Byte :=
  (data.flatMap fun w => bytesOf 4 w.toNat).take (szBytes sz)

/-! ### Scratchpads (07 R172, R175, R182) -/

/-- The team of a window's team number in a team's cohort, created or not retired alike (07 R175). -/
def windowTeam (s : State) (tk : Nat) (t : Team) (n : Nat) : Option (Nat × Team) :=
  if t.sup then (if n = 0 then some (tk, t) else none)
  else
    match klook s.cohorts t.cid with
    | none => none
    | some c => (c.teams.filterMap fun k => (s.team k).map fun u => (k, u)).find? fun e => e.2.team == n

/-- The team and offset that a window address names (07 R175). -/
def windowTarget (s : State) (tk : Nat) (t : Team) (w : Nat) : Option (Nat × Nat) :=
  if 2 ^ 22 ≤ w then none
  else
    match windowTeam s tk t (w / 2 ^ 18) with
    | some (k, u) => if w % 2 ^ 18 < u.scratch then some (k, w % 2 ^ 18) else none
    | none => none

/-- n bytes of a team's scratchpad. -/
def scrRead (s : State) (tk off n : Nat) : List Byte :=
  match s.team tk with
  | some t => cellsRead t.scr off n
  | none => []

/-- Bytes stored in a team's scratchpad, with the wakes of its monitor (07 R194). -/
def scrWrite (s : State) (tk off : Nat) (bs : List Byte) : State :=
  wakeScratch (s.modTeam tk fun t => { t with scr := cellsWrite t.scr off bs }) tk off bs.length

/-! ### Checks at issue (07 R177) -/

/-- The alignment check (07 R174). -/
def misalignedBy (a : Dword) (width : Nat) : Option Nat := if a.toNat % width = 0 then none else some 0x08

/-- The checks of a global address: form, alignment. -/
def checkGlobal (width : Nat) (a : Dword) : Option Nat := if canonicalVa a then misalignedBy a width else some 0x09

/-- The checks of an own scratchpad offset: range, alignment. -/
def checkLocal (t : Team) (width : Nat) (a : Dword) : Option Nat :=
  if t.scratch < a.toNat + width then some 0x0C else misalignedBy a width

/-- The checks of a window address: range, alignment. -/
def checkWindow (s : State) (tk : Nat) (t : Team) (width : Nat) (a : Dword) : Option Nat :=
  if (windowTarget s tk t a.toNat).isNone then some 0x0D else misalignedBy a width

/-- The checks of an address that may lie in the aperture: form, range, alignment (07 R173). -/
def checkAtomic (s : State) (tk : Nat) (t : Team) (width : Nat) (a : Dword) : Option Nat :=
  if canonicalVa a then misalignedBy a width
  else if !apertureOk a then some 0x09
  else checkWindow s tk t width (BitVec.ofNat 64 (nbits a.toNat 0 22))

/-- The first failing lane's cause with every lane that fails it, its address first; none when all pass. -/
def failingLanes (reqs : List LaneReq) (chk : Dword → Option Nat) : Option (Nat × Dword × List Nat) :=
  match reqs.filterMap fun r => (chk r.addr).map fun c => (c, r) with
  | [] => none
  | (c, r) :: rest => some (c, r.addr, r.lane :: (rest.filter fun e => e.1 == c).map fun e => e.2.lane)

/-! ### Performing one lane's access -/

/-- What an access does with its location (17 R365). -/
def Access.kind : Access → AccKind
  | .store _ => .write
  | .atomic op _ _ _ _ => if op = 14 then .read else if op = 15 then .write else .rmw
  | _ => .read

/-- The bytes of one lane's access. -/
def Access.width : Access → Nat
  | .load sz _ | .store sz => szBytes sz
  | .atomic _ _ wide _ _ | .loadU wide _ => if wide then 8 else 4
  | .waitc _ _ _ => 4
  | _ => 0

/-- An unfinished access comes before a later event of its team by one of the cases of 08 R209: it is an acquire, its
path has merged since, the later event is a release, or they touch an overlapping byte. -/
def Replay.orders (r : Replay) (release meets : Bool) : Bool :=
  !r.access.engine && (r.access.acquire || r.merged || release || meets)

/-- A path's next event must wait for an unfinished access that precedes it; `meets` tells whether they overlap. -/
def Team.mustWait (t : Team) (pi : Nat) (release : Bool) (meets : Replay → Bool) : Bool :=
  t.replay.any fun r => r.before.contains pi && r.orders release (meets r)

/-- A team-wide point, which every earlier event of the team precedes (08 R208), must wait for an unfinished one. -/
def Team.pointWaits (t : Team) (release : Bool) (meets : Replay → Bool) : Bool :=
  t.replay.any fun r => r.orders release (meets r)

/-- An unfinished access overlaps one of some requests of a width. -/
def Replay.meetsAny (r : Replay) (width : Nat) (reqs : List LaneReq) : Bool :=
  reqs.any fun q => r.meets Access.width q.addr.toNat width

/-- A lane access of a path must wait for an unfinished one (08 R209, R211-R218). -/
def laneWaits (t : Team) (pi : Nat) (acc : Access) (width : Nat) (reqs : List LaneReq) : Bool :=
  t.mustWait pi acc.release fun r => r.meetsAny width reqs

/-- A scratchpad access of a path must wait for an unfinished acquire, or for an access made before its path merged. -/
def scratchWaits (t : Team) (pi : Nat) : Bool := t.mustWait pi false fun _ => false

/-- The new value of an atomic's location, by operation 8 x (major - 0x33) + op (07 R187, R188). -/
def atomicNew (op : Nat) (fpm : Word) (old : Nat) (data : List Word) : Nat :=
  let o : Word := BitVec.ofNat 32 old
  let x := data.getD 0 0
  let o64 : Dword := BitVec.ofNat 64 old
  let x64 := pairOf x (data.getD 1 0)
  match op with
  | 0 | 16 => (o + x).toNat
  | 1 | 18 => (if o.toInt ≤ x.toInt then o else x).toNat
  | 2 => (if o.toNat ≤ x.toNat then o else x).toNat
  | 3 | 19 => (if x.toInt ≤ o.toInt then o else x).toNat
  | 4 => (if x.toNat ≤ o.toNat then o else x).toNat
  | 5 | 20 => (o &&& x).toNat
  | 6 | 21 => (o ||| x).toNat
  | 7 | 22 => (o ^^^ x).toNat
  | 8 | 15 => x.toNat
  | 9 => (if o = x then data.getD 1 0 else o).toNat
  | 10 | 17 => (FFmt.f32.add fpm o.toNat x.toNat).1
  | 11 | 23 => (o64 + x64).toNat
  | 12 => x64.toNat
  | 13 => (if o64 = x64 then pairOf (data.getD 2 0) (data.getD 3 0) else o64).toNat
  | _ => old

/-- The register writes of an atomic's old value. -/
def atomicWrites (wide : Bool) (dst : Option Nat) (l old : Nat) : List RegWrite :=
  match dst with
  | none => []
  | some d => if wide then wWrites d l (BitVec.ofNat 64 old) else [.v d l (BitVec.ofNat 32 old)]

/-- One access outcome: the state and register writes, or the state and the fault. -/
abbrev AccOut := Except (State × AccFault) (State × List RegWrite)

/-- One lane's atomic at a global location or in the aperture (07 R185). -/
def atomicAt (s : State) (tk : Nat) (t : Team) (op os : Nat) (wide : Bool) (dst : Option Nat) (fpm : Word) (r : LaneReq) :
    AccOut :=
  let n := if wide then 8 else 4
  if inAperture r.addr then
    match windowTarget s tk t (nbits r.addr.toNat 0 22) with
    | none => .ok (s, [])
    | some (k, off) =>
      let old := natOfBytes (scrRead s k off n)
      let s := if op = 14 then s else scrWrite s k off (bytesOf n (atomicNew op fpm old r.data))
      .ok (s, atomicWrites wide dst r.lane old)
  else
    let a := teamAgent s tk t
    match place s a (Access.atomic op os wide dst fpm).kind r.addr.toNat with
    | .error (s, c, sub) => .error (s, c, sub, r.addr.toNat)
    | .ok (s, p) =>
      let old := natOfBytes (placeRead s p r.addr.toNat n)
      let s := if op = 15 then s else noteRead s a p r.addr.toNat n
      let s := if op = 14 then s else storeAt s a p r.addr.toNat (bytesOf n (atomicNew op fpm old r.data))
      .ok (s, atomicWrites wide dst r.lane old)

/-- One lane's load, store or atomic, or a uniform load (07 R180, R183, R185). -/
def performLane (s : State) (tk : Nat) (t : Team) (acc : Access) (r : LaneReq) : AccOut :=
  let a := teamAgent s tk t
  match acc with
  | .load sz dst =>
    match vnat s a r.addr.toNat (szBytes sz) with
    | .error e => .error e
    | .ok (s, v) => .ok (s, loadWrites sz dst r.lane v)
  | .store sz =>
    match vwrite s a r.addr.toNat (storeBytes sz r.data) with
    | .error e => .error e
    | .ok s => .ok (s, [])
  | .atomic op os wide dst fpm => atomicAt s tk t op os wide dst fpm r
  | .loadU wide dst =>
    match vnat s a r.addr.toNat (if wide then 8 else 4) with
    | .error e => .error e
    | .ok (s, v) => .ok (s, if wide then zWrites dst (BitVec.ofNat 64 v) else [.s dst (BitVec.ofNat 32 v)])
  | _ => .ok (s, [])

/-! ### Performing the lanes of an instruction -/

/-- The lanes of an instruction after the attempt: the state, the register writes, and the failed lanes with their
causes, subcodes and addresses. -/
structure Performed where
  s : State
  ws : List RegWrite
  failed : List (LaneReq × Nat × Nat × Nat)
  deriving DecidableEq, Repr

/-- One request performed for a list of lanes that stand or fall with it. -/
def Performed.step (acc : Access) (tk : Nat) (t : Team) (p : Performed) (r : LaneReq) (lanes : List LaneReq) : Performed :=
  match performLane p.s tk t acc r with
  | .ok (s, ws) => { p with s := s, ws := p.ws ++ ws }
  | .error (s, c, sub, _) =>
    { p with s := s, failed := p.failed ++ lanes.map fun q => (q, c, sub, q.addr.toNat) }

/-- The lanes grouped by address, in order of their first lane. -/
def sameAddress : List LaneReq → List (List LaneReq)
  | [] => []
  | r :: rest =>
    let gs := sameAddress rest
    match gs.find? fun g => match g with
      | q :: _ => q.addr == r.addr
      | [] => false with
    | some g => (r :: g) :: gs.filter fun h => h != g
    | none => [r] :: gs

/-- Pairwise rounded sums of FP32 words until one is left, in a free order (04 R116, log 4). -/
def freeSum (fpm : Word) (s : State) : Nat → List Word → State × Word
  | 0, ws => (s, ws.headD 0)
  | n + 1, ws =>
    match ws with
    | [] => (s, 0)
    | [w] => (s, w)
    | ws =>
      let (s, i) := pick s ws.length
      let x := ws.getD i 0
      let rest := dropAt ws i
      let (s, j) := pick s rest.length
      freeSum fpm s n (BitVec.ofNat 32 (FFmt.f32.add fpm x.toNat (rest.getD j 0).toNat).1 :: dropAt rest j)

/-- The lanes of one location whose outcome the device may choose: one of them stores (07 R181), or their sum is added
in one operation (04 R116). -/
def performGroup (acc : Access) (tk : Nat) (t : Team) (p : Performed) (g : List LaneReq) : Performed :=
  match acc, g with
  | _, [] => p
  | .store _, r :: _ =>
    let (s, i) := pick p.s g.length
    Performed.step acc tk t { p with s := s } (g.getD i r) g
  | .atomic _ _ _ _ fpm, r :: _ =>
    if g.length = 1 then Performed.step acc tk t p r g
    else
      let (s, combine) := pick p.s 2
      if combine = 0 then g.foldl (fun p q => Performed.step acc tk t p q [q]) { p with s := s }
      else
        let (s, sum) := freeSum fpm s g.length (g.map fun q => q.data.headD 0)
        Performed.step acc tk t { p with s := s } { r with data := [sum] } g
  | _, r :: _ => Performed.step acc tk t p r g

/-- The outcome at one location may depend on how the device combines its lanes. -/
def Access.grouped : Access → Bool
  | .store _ => true
  | .atomic op _ _ _ fpm => op == 17 && !fpmDetr fpm
  | _ => false

/-- The lanes of an instruction one after another, as they are listed (07 R178, 18 R386). -/
def performInOrder (s : State) (tk : Nat) (t : Team) (acc : Access) (reqs : List LaneReq) : Performed :=
  reqs.foldl (fun p r => Performed.step acc tk t p r [r]) { s := s, ws := [], failed := [] }

/-- The lanes of an instruction, in ascending order where their order shows (07 R180-R188). -/
def performLanes (s : State) (tk : Nat) (t : Team) (acc : Access) (reqs : List LaneReq) : Performed :=
  if acc.grouped then (sameAddress reqs).foldl (performGroup acc tk t) { s := s, ws := [], failed := [] }
  else performInOrder s tk t acc reqs

/-- An sc instruction with a lane to perform takes one ticket, before any of them: those that a fault or a watchpoint holds
back are performed under it too (07 R186, 08 R217; log 45). -/
def takeTicket (s : State) (acc : Access) (acts : Bool) : State :=
  if acc.sc && acts then { s with ticket := s.ticket + 1 } else s

/-! ### A memory instruction of the issuing path -/

/-- The path stalls: nothing of the instruction happens in this slot (02 R56). It stays ready at its PC, so that while it is
the team's ready path of lowest PC it alone is tried again and its siblings do not issue: the spec does not say whether they
may (DESIGN CHOICE, log 54). -/
def State.stall (s : State) : State := { s with cur := none }

/-- The next operation number, and the state with it used. -/
def nextId (s : State) : State × Nat := ({ s with nextSeq := s.nextSeq + 1 }, s.nextSeq)

/-- Lanes held by a watchpoint join the replay state as a cause 0x07 trap, recorded in the trap queue and the catalogue
(18 R386, R391). -/
def addHeld (s : State) (x : Issuer) (r : Replay) (reqs : List LaneReq) (wp : Nat) : State :=
  if reqs.isEmpty then s
  else
    let pn := pnumOf x.tk
    let s := addEntry s x.tk x.t r 0x07 0 reqs (BitVec.ofNat 32 wp)
    let s := catWrite s pn 3 wp (tidOf x.tk) x.pi (x.t.gid % 65536) x.path.pc
      (catMask ({ r with lanes := reqs } : Replay).asTrap.mask)
    if hasSupervisor s pn then s else gend s x.t.gid none 0

/-- The lanes whose access hits a watchpoint, and the lowest watchpoint hit (18 R386). -/
def watched (s : State) (x : Issuer) (acc : Access) (width : Nat) (reqs : List LaneReq) : List LaneReq × Nat :=
  let p := s.part (pnumOf x.tk)
  let reads := acc.kind == .read || (match acc with
    | .atomic op _ _ _ _ => decide (op < 14)
    | _ => false)
  let writes := acc.kind != .read
  let hits := reqs.filterMap fun r =>
    if inAperture r.addr then none else (wpHit p x.t r.addr.toNat width reads writes).map fun n => (r, n)
  if x.t.sup then ([], 0) else (hits.map Prod.fst, hits.foldl (fun m e => min m e.2) 4)

/-- A counter is full: an operation that would raise it stalls (02 R56). -/
def Team.full (t : Team) (a : Nat) : Bool := decide (63 ≤ t.counter a)

/-- The results of the lanes of one counter class are in flight, counted on its path, if it has one; the operation's
number comes with the state. -/
def addResults (s : State) (x : Issuer) (counter : Option Nat) (ws : List RegWrite) : State × Option Nat :=
  match counter with
  | none => (s.modTeam x.tk fun t => t.addLong none [x.pi] ws 0, none)
  | some a =>
    let (s, id) := nextId s
    (s.modTeam x.tk fun t => (t.addOp id a).addLong (some id) [x.pi] ws 0, some id)

/-- A store, an atomic or a reduction of the team empties its part of the scale cache (09 R237). -/
def Access.dropsScales : Access → Bool
  | .store _ => true
  | .atomic _ _ _ _ _ => true
  | _ => false

/-- A lane access of the issuing path after its checks: held lanes, performed lanes, faulted lanes. A path whose access
must wait for an unfinished one, or whose counter is full, stalls. A user team's results and faults join its state, and
the path moves on; a fault of the supervisor undoes the whole instruction and is taken at once (07 R178, 08 R209, 15 R321,
18 R386). Lanes with an aperture address are counted on `near`, the others on `far` (07 R185). -/
def laneAccess (s : State) (x : Issuer) (acc : Access) (width : Nat) (far near : Option Nat) (reqs : List LaneReq)
    (mark : Bool) : State :=
  let local_ := reqs.filter fun r => inAperture r.addr
  let global := reqs.filter fun r => !inAperture r.addr
  if (!global.isEmpty && far.any x.t.full) || (!local_.isEmpty && near.any x.t.full)
      || (!reqs.isEmpty && laneWaits x.t x.pi acc width reqs) then s.stall
  else
    let held := watched s x acc width reqs
    let now := reqs.filter fun r => !held.1.contains r
    let p := performLanes s x.tk x.t acc now
    match x.t.sup, p.failed with
    | true, (_, c, sub, addr) :: _ => supervisorTrap s x.tk x.pi c sub x.path.pc (BitVec.ofNat 64 addr)
    | _, _ =>
      let s := takeTicket p.s acc (!reqs.isEmpty)
      let s := if acc.dropsScales && !reqs.isEmpty then s.modTeam x.tk Team.dropScales else s
      let m := maskOf (local_.map LaneReq.lane)
      let (s, _) := if local_.isEmpty then (s, none) else addResults s x near (p.ws.filter (writeInLanes m))
      let (s, op) := if global.isEmpty then (s, none)
        else addResults s x far (p.ws.filter fun w => !writeInLanes m w)
      let r := newReplay s x.t x.pi x.path.pc acc op (acc.fl != 0)
      let s := addHeld s x r held.1 held.2
      let s := addReplay s x.tk r p.failed
      s.pass x 4 mark

end Sys2Proof.Machine
end

