-- ==== Sys2Proof/Machine/Cohort.lean ====
section
/-!
DEFINITION. Operations of a whole cohort: barrier slots (07 R190) and the deal of regroup (02 R59, R60, 05 R150, R151).
-/
namespace Sys2Proof.Machine

/-- The cohort's state is on its cores (15 R329); the supervisor belongs to no cohort, and is on its core until its own exit,
which retires it (15 R319, 07 R175). -/
def onCore (s : State) (t : Team) : Bool :=
  if t.sup then t.live
  else match klook s.cohorts t.cid with
    | some c => c.place == .resident
    | none => false

/-- The teams of a team's cohort that have not retired, in ascending team number; the supervisor is alone (15 R318). -/
def cohortLive (s : State) (tk : Nat) (t : Team) : List (Nat × Team) :=
  if t.sup then [(tk, t)]
  else
    match klook s.cohorts t.cid with
    | none => []
    | some c => (c.teams.filterMap fun k => (s.team k).map fun u => (k, u)).filter fun e => e.2.live

/-- A whole-team wait ends, an acquire point at which the team's scale-cache lines go, and its path moves past its
instruction (02 R49, 09 R237). -/
def Team.leaveWait (t : Team) (pi : Nat) : Team := ({ t.dropScales with wait := .none }).resume pi

/-- The slot at which a team has arrived, its earlier accesses performed. -/
def Team.arrived (t : Team) (slot : Nat) : Bool :=
  match t.wait with
  | .bar _ k done => k == slot && !done && t.performed
  | _ => false

/-- What software has added to a slot's arrivals through the on-chip map (15 R330). -/
def barSkewOf (s : State) (t : Team) (slot : Nat) : Nat :=
  match klook s.cohorts t.cid with
  | some c => if t.sup then 0 else dget 0 c.barSkew slot
  | none => 0

/-- The slot at which a team has arrived completes: the team goes on, a halted one when it resumes (07 R190, 15 R325;
log 52). -/
def Team.leaveBar (t : Team) : Team :=
  match t.wait with
  | .bar pi k _ => if t.halted then { t with wait := .bar pi k true } else t.leaveWait pi
  | _ => t

/-- The slot completes for a cohort when its arrivals reach the number of live teams: those that have arrived resume
(07 R190). -/
def barTry (s : State) (tk : Nat) : State :=
  match s.team tk with
  | none => s
  | some t =>
    let live := cohortLive s tk t
    (List.range 16).foldl
      (fun s slot =>
        let here := live.filter fun e => e.2.arrived slot
        if !here.isEmpty && decide (live.length ≤ (here.length + barSkewOf s t slot) % 32) then
          here.foldl
            (fun s e => s.modTeam e.1 Team.leaveBar)
            (if t.sup then s
             else { s with cohorts := kmod s.cohorts t.cid fun c => { c with barSkew := kdel c.barSkew slot } })
        else s) s

/-- A team stands at regroup with its long results and engine commands complete (02 R59). -/
def Team.atRegroup (t : Team) : Bool :=
  match t.wait with
  | .regroup _ _ => t.long.isEmpty && t.performed && t.ops.all fun o => o.apath == LD || o.apath == SP
  | _ => false

/-- A lane on its way through regroup: its key, where it comes from, its registers and its predicates. -/
structure Mover where
  key : Nat
  tk : Nat
  lane : Nat
  regs : List Word
  preds : List Bool
  deriving DecidableEq, Repr

/-- Insertion in ascending key; equal keys keep their order. -/
def insertMover (m : Mover) : List Mover → List Mover
  | [] => [m]
  | x :: t => if m.key < x.key then m :: x :: t else x :: insertMover m t

/-- The lanes that a team sends into the deal, in ascending lane number, with the keys that they had at its regroup. -/
def Team.movers (tk : Nat) (t : Team) : List Mover :=
  match t.wait with
  | .regroup _ keys =>
    keys.map fun (l, key) =>
      { key := key.toNat, tk := tk, lane := l, regs := (List.range t.vregs).map fun r => t.vr r l,
        preds := (List.range 7).map fun k => t.pr k l }
  | _ => []

/-- The writes that put a mover into a lane. -/
def Mover.writes (m : Mover) (l : Nat) : List RegWrite :=
  (m.regs.zipIdx.map fun e => RegWrite.v e.2 l e.1) ++ m.preds.zipIdx.map fun e => RegWrite.p e.2 l e.1

/-- A team after the deal: it resumes with the lanes it was dealt, or has no path left (02 R59). -/
def Team.dealt (t : Team) (ms : List Mover) : Team :=
  match t.wait with
  | .regroup pi _ =>
    let t := { t.dropScales with wait := .none }
    if ms.isEmpty then { t with paths := [] }
    else
      let t := t.writes (ms.zipIdx.flatMap fun e => e.1.writes e.2)
      t.modPath pi fun p => { p with pc := p.pc + 4, mask := fullMask ms.length, entryFmt := p.fmt, st := .ready, mark := false }
  | _ => t

/-- Deal the sorted lanes to teams in ascending team number, W to a team. -/
def dealTo (s : State) : List (Nat × Team) → List Mover → State
  | [], _ => s
  | e :: rest, ms => dealTo (s.modTeam e.1 fun t => t.dealt (ms.take e.2.width)) rest (ms.drop e.2.width)

/-- When every live team of the cohort stands at regroup, its lanes are sorted by key, then old team and lane, and dealt
(02 R59). The arrival of a halted team stands until it resumes, and its lanes with it (15 R325; log 52). -/
def regroupTry (s : State) (tk : Nat) : State :=
  match s.team tk with
  | none => s
  | some t =>
    let live := cohortLive s tk t
    if !live.isEmpty && live.all fun e => e.2.atRegroup && !e.2.halted then
      dealTo s live ((live.flatMap fun e => e.2.movers e.1).foldl (fun acc m => insertMover m acc) [])
    else s

/-- What a cohort can do now that one of its teams has arrived, completed something or retired. -/
def cohortTry (s : State) (tk : Nat) : State := regroupTry (barTry s tk) tk

end Sys2Proof.Machine
end

