-- ==== Sys2Proof/Machine/Engine.lean ====
section
/-!
DEFINITION. What the engines share (02 R56, R58; 07 R192, R204; 16 R347; 17 R372; 19 R398): issuing a command, whether it
may proceed, its completion, and its stop at a progress point.
-/
namespace Sys2Proof.Machine

/-! ### Command kinds -/

def kindCp : Nat := 5
def kindMma : Nat := 128
/-- Accumulator instructions: 192 + function. -/
def kindAcc : Nat := 192
def kindMscl : Nat := 256
def kindTtq : Nat := 257
/-- Walker, Curator and halo commands: 384 + function. -/
def kindVol : Nat := 384
/-- Peuri commands: 448 + function. -/
def kindPeuri : Nat := 448
/-- Layered-target, raster and ring commands: 512 + function. -/
def kindLayer : Nat := 512

/-! ### Issue -/

/-- The team's power token goes back to the partition (16 R347). -/
def returnTeamToken (s : State) (x : Issuer) : State :=
  if x.t.token then
    (s.modTeam x.tk fun t => { t with token := false }).modPart (pnumOf x.tk) fun p => { p with tokenHeld := p.tokenHeld - 1 }
  else s

/-- A command as its issue hands it over. -/
structure NewCmd where
  kind : Nat
  sub : Nat
  lane : Nat
  args : List Nat
  bytes : List Byte
  lanes : List LaneReq
  token : Bool
  deriving DecidableEq, Repr

/-- A command of the issuing path is handed to its engine, counted on an asynchronous path, and the path moves on, its
later accesses behind every unfinished one of the team (08 R208); with the counter full the path stalls (02 R56). -/
def issueCmd (s : State) (x : Issuer) (a : Nat) (n : NewCmd) (mark : Bool) : State :=
  if x.t.full a then s.stall
  else
    let (s, op) := nextId s
    let c : Cmd :=
      { id := s.nextCmd, tk := x.tk, op := op, seq := s.nextCmd, kind := n.kind, sub := n.sub, path := x.pi,
        lane := n.lane, pc := x.path.pc, args := n.args, bytes := n.bytes, fpm := x.t.fpm, fmt := x.path.fmt, flags := 0,
        prog := 0, stop := none, broken := false, started := false, lanes := n.lanes, upTo := s.nextTrap, token := n.token,
        asked := false }
    let s := { s with nextCmd := s.nextCmd + 1, cmds := s.cmds ++ [c] }
    (s.modTeam x.tk fun t => (t.addOp op a).follow x.pi).pass x 4 mark

/-! ### Progress -/

/-- A command without a progress point at which a halt could leave it: a leaf copy, a rasterisation, or a command of the
array set but a sweep, once the set performs it (15 R325; log 52). -/
def Cmd.isWhole (c : Cmd) : Bool :=
  c.kind == kindVol + 2 || c.kind == kindLayer + 3
    || (c.started && decide (kindPeuri ≤ c.kind) && decide (c.kind ≤ kindPeuri + 5) && c.kind != kindPeuri + 3)

/-- The team of a command that may proceed: not stopped by a fault, its team live and not halted unless the command has no
progress point at which to stand (15 R325), and the team's accesses that precede its issue performed (08 R222). -/
def cmdTeam (s : State) (c : Cmd) : Option Team :=
  match s.team c.tk with
  | some t => if c.stop.isNone && t.live && (!t.halted || c.isWhole) && t.performedTo c.upTo then some t else none
  | none => none

/-- A command of an event by its number, with its team, when it may proceed. -/
def eventCmd (s : State) (id : Nat) : Option (Cmd × Team) :=
  match s.cmd id with
  | none => none
  | some c => (cmdTeam s c).map fun t => (c, t)

/-- The agent of a command's accesses: the issuing team (07 R222). -/
def cmdAgent (s : State) (c : Cmd) (t : Team) : Agent := engineAgent s c.tk t

/-- A command completes, and what waited for that goes on (02 R56, R57, R59). -/
def completeCmd (s : State) (c : Cmd) (ws : List RegWrite) (flags : Word) : State :=
  cohortTry (finishCmd s c ws flags) c.tk

/-- The result of performing a command from its progress point: done with its flags, or stopped at a new progress point
by a fault (cause, subcode, address, and the report's ACC bits), or ended by an imprecise trap (cause, subcode, address). -/
inductive EngineRun where
  | done (s : State) (flags : Word)
  | stopped (s : State) (prog : Nat) (flags : Word) (cause sub addr : Nat) (acc : BitVec 8)
  | failed (s : State) (cause sub addr : Nat)
  deriving DecidableEq, Repr

/-- The completion event of a command whose whole effect is a run: it acts when no fault stops the run. -/
def completeRun (s : State) (id : Nat) (run : State → Cmd → Team → EngineRun) : State :=
  match eventCmd s id with
  | none => s
  | some (c, t) =>
    match run s c t with
    | .done s flags => completeCmd s c [] flags
    | .stopped _ _ _ _ _ _ _ => s
    | .failed s cause sub addr => commandTrap s c cause sub (BitVec.ofNat 64 addr)

/-- The fault event of such a command: it acts when a fault stops the run, and the token is given up (07 R204, 09 R240). -/
def stopRun (s : State) (id : Nat) (run : State → Cmd → Team → EngineRun) : State :=
  match eventCmd s id with
  | none => s
  | some (c, t) =>
    match run s c t with
    | .done _ _ => s
    | .failed _ _ _ _ => s
    | .stopped s prog flags cause sub addr acc =>
      let s := returnToken s c
      let s := s.modCmd c.id fun d => { d with flags := flags, token := false, asked := false }
      stopCmd s c prog cause sub (BitVec.ofNat 64 addr) acc

/-- A command's token goes back, and its request leaves the partition's list (16 R347, R348). -/
def dropToken (s : State) (c : Cmd) : State :=
  ((returnToken s c).modCmd c.id fun d => { d with token := false, asked := false }).modPart (pnumOf c.tk) fun p =>
    { p with tokenReqs := p.tokenReqs.filter fun r => r != (true, c.id) }

/-- A halt breaks off a command inside its performance: what a run has done stands, the progress point and the flags are
recorded, and the token goes back (07 R204, 09 R249, 10 R274). -/
def breakOff (s : State) (c : Cmd) (run : EngineRun) (prog : Nat) : State :=
  let note (s : State) (prog : Nat) (flags : Word) : State :=
    (dropToken s c).modCmd c.id fun d => { d with prog := prog, flags := flags, started := false }
  match run with
  | .done s flags => note s prog flags
  | .stopped s prog flags _ _ _ _ => note s prog flags
  | .failed _ _ _ _ => dropToken s c

/-! ### Commands performed lane by lane (10 R258, R267-R269; 12 R299-R305) -/

/-- Lanes of an engine command that cannot proceed stay with it as a command of their own under the same operation:
waiting, or stopped by a trap; `upTo` is Cmd.upTo. -/
def holdLanes (s : State) (tk pi : Nat) (pc : Dword) (op kind : Nat) (args : List Nat) (fpm : Word) (lanes : List LaneReq)
    (stop : Option Trap) (upTo : Nat) : State :=
  let c : Cmd :=
    { id := s.nextCmd, tk := tk, op := op, seq := s.nextCmd, kind := kind, sub := 0, path := pi,
      lane := (lanes.head?.map LaneReq.lane).getD 0xFFFF, pc := pc, args := args, bytes := [], fpm := fpm, fmt := 0,
      flags := 0, prog := 0, stop := stop, broken := false, started := false, lanes := lanes, upTo := upTo, token := false,
      asked := false }
  { s with nextCmd := s.nextCmd + 1, cmds := s.cmds ++ [c] }

/-- An imprecise trap of a lane command, which stands as a command without lanes under the same operation: a user team's
is recorded and its operation stays outstanding (18 R380, R383); the supervisor's waits to be taken (19 R398). -/
def laneTrap (s : State) (tk pi : Nat) (pc : Dword) (op cause sub : Nat) (addr : Dword) (lane : Nat) : State :=
  match s.team tk with
  | none => s
  | some t =>
    let tr := mkTrap s t cause sub pc addr pi (maskOf [lane]) 0 0
    let s' := holdLanes s tk pi pc op kindEnded [] 0 [] (some tr) 0
    if t.sup then pendTrap s' (pnumOf tk) s.nextCmd tr else recordTrap s' tk t tr

/-- A translation or protection fault: the only replayable one that leaves a command of the supervisor outstanding
(19 R398). -/
def pagingFault (cause : Nat) : Bool := cause == 0x0A || cause == 0x0B

/-- Lanes of the supervisor's command that cannot go on (19 R398). A translation or protection fault keeps them with the
command, whose trap waits to be taken; any other cause ends them with its trap. -/
def stopSupervisorLanes (s : State) (tk pi : Nat) (pc : Dword) (op kind : Nat) (args : List Nat) (fpm : Word) (t : Team)
    (failed : List (LaneReq × Nat × Nat × Nat)) : State :=
  match failed.find? fun f => pagingFault f.2.1, failed with
  | _, [] => s
  | some (_, cause, sub, addr), _ =>
    let tr := mkTrap s t cause sub pc (BitVec.ofNat 64 addr) pi (maskOf (failed.map fun f => f.1.lane)) 2 0
    pendTrap (holdLanes s tk pi pc op kind args fpm (failed.map Prod.fst) (some tr) 0) (pnumOf tk) s.nextCmd tr
  | none, (r, cause, sub, addr) :: _ => laneTrap s tk pi pc op cause sub (BitVec.ofNat 64 addr) r.lane

/-- Lanes of a lane command that a fault stops: a user's join its path's replay state (07 R178). -/
def stopLanes (s : State) (tk pi : Nat) (pc : Dword) (op kind : Nat) (args : List Nat) (fpm : Word) (access : Access)
    (failed : List (LaneReq × Nat × Nat × Nat)) : State :=
  match s.team tk with
  | none => s
  | some t =>
    if t.sup then stopSupervisorLanes s tk pi pc op kind args fpm t failed
    else
      addReplay s tk (newReplay s t pi pc access (some op) false)
        (failed.map fun f => ({ f.1 with addr := BitVec.ofNat 64 f.2.2.2 }, f.2))

end Sys2Proof.Machine
end

