-- ==== Sys2Proof/Machine/Shapes.lean ====
section
/-!
DEFINITION. The operands each instruction names (the Files column of R70), which function is privileged (R85), and the
checks of 03 R64-R67, R79-R86 that depend on the encoded values alone. A word that fails one of them decodes to its
instruction, and the illegal-instruction trap with the subcode found here (R86, R87) is raised before it acts.
-/
namespace Sys2Proof

/-- A register operand as its field names it (R67). -/
inductive RegRef where
  /-- lane register v n -/
  | v (n : Nat)
  /-- lane registers v n to v (n + k - 1) -/
  | vs (n k : Nat)
  /-- a 6-bit lane pair field, which must be even -/
  | w (n : Nat)
  /-- a 6-bit lane pair field whose next pair is named too (atom.cas.64) -/
  | ww (n : Nat)
  /-- a 6-bit quad field, which must be a multiple of 4, naming k registers from it -/
  | quad (n k : Nat)
  /-- uniform register s n -/
  | s (n : Nat)
  /-- uniform registers s n to s (n + k - 1) -/
  | ss (n k : Nat)
  /-- a 6-bit uniform pair field, which must be even -/
  | z (n : Nat)
  /-- the first of eleven uniform registers, which must be even (rast) -/
  | even11 (n : Nat)
  /-- the W/32 uniform registers of vote.ballot from s n (05 R147) -/
  | ballot (n : Nat)
  deriving DecidableEq, Repr

/-- The field is a pair or quad field that is misaligned, subcode 3 (R67). -/
def RegRef.misaligned : RegRef → Bool
  | .w n | .ww n | .z n | .even11 n => n % 2 == 1
  | .quad n _ => n % 4 != 0
  | .v _ | .vs _ _ | .s _ | .ss _ _ | .ballot _ => false

/-- One more than the highest lane register named, 0 for none. -/
def RegRef.laneTop : RegRef → Nat
  | .v n => n + 1
  | .vs n k | .quad n k => n + k
  | .w n => n + 2
  | .ww n => n + 4
  | .s _ | .ss _ _ | .z _ | .even11 _ | .ballot _ => 0

/-- One more than the highest uniform register named in a team of width `width`, 0 for none. -/
def RegRef.uniTop (width : Nat) : RegRef → Nat
  | .s n => n + 1
  | .ss n k => n + k
  | .z n => n + 2
  | .even11 n => n + 11
  | .ballot n => n + width / 32
  | .v _ | .vs _ _ | .w _ | .ww _ | .quad _ _ => 0

/-- How an instruction reads its predicate field (R64, R65). -/
inductive PredUse where
  /-- no predicate field: the 16-bit form and regroup -/
  | always
  /-- a lane predicate, a branch condition, a selector or the choice of the elected lane -/
  | lane (h : Hdr)
  /-- a uniform predicate -/
  | uni (h : Hdr)
  deriving DecidableEq, Repr

/-- What the decode checks need to know of an instruction. -/
structure Shape where
  /-- the predicate field -/
  pred : PredUse
  /-- the registers named -/
  refs : List RegRef := []
  /-- the accumulator tile named (09 R241) -/
  acc : Option Nat := none
  /-- every field holds a value that is not reserved -/
  ok : Bool := true
  /-- a function of the privileged range (R85) -/
  priv : Bool := false
  deriving DecidableEq, Repr

/-- The privileged register numbers that a chapter assigns (15 R322, 16 R347, R355, 17 R371, 18 R378-R393). -/
def assignedPrivReg (n : Nat) : Bool :=
  decide (n ≤ 0x12) || (decide (0x20 ≤ n) && decide (n ≤ 0x2D)) || (decide (0x40 ≤ n) && decide (n ≤ 0x44))
    || (decide (0x60 ≤ n) && decide (n ≤ 0x7F))

/-- The registers of a load or store datum by its size code (R79). -/
def dataRef (sz d : Nat) : RegRef :=
  if sz = 5 then .w d else if sz = 6 then .quad d 4 else .v d

/-- A load accepts every size code but 7 (R79). -/
def loadSizeOk (sz : Nat) : Bool := decide (sz ≤ 6)
/-- A store accepts 0, 2, 4, 5 and 6 (R79). -/
def storeSizeOk (sz : Nat) : Bool := sz == 0 || sz == 2 || sz == 4 || sz == 5 || sz == 6

/-- os names an ordering and a scope, and sc only with .dev or .sys (R80, 07 R186). -/
def osOk (os : Nat) : Bool := decide (os < 25) && (os / 5 != 4 || decide (3 ≤ os % 5))
/-- atom.ld takes rlx, acq and sc (07 R186). -/
def osLoadOk (os : Nat) : Bool := osOk os && (os / 5 == 0 || os / 5 == 1 || os / 5 == 4)
/-- atom.st and the reductions take rlx, rel and sc (07 R186). -/
def osStoreOk (os : Nat) : Bool := osOk os && (os / 5 == 0 || os / 5 == 2 || os / 5 == 4)

/-- The number of values that a stencil shape names: S7, S13, S19, S27 (R84, 10 R262). -/
def stencilSize : Nat → Nat
  | 0 => 7
  | 1 => 13
  | 2 => 19
  | _ => 27

/-- The shape of every instruction; an event has none of its own. DESIGN CHOICE (log 47): a predicate field of 4 to 7 in mov qd, sa
and mov sd, qa (03 R72) is illegal with subcode 1, as a bit above those that name a uniform predicate (03 R67). -/
def Instr.shape : Instr → Shape
  | .iaddC f => { pred := .always, refs := [.v f.d.toNat, .v f.b.toNat] }
  | .isubC f => { pred := .always, refs := [.v f.d.toNat, .v f.b.toNat] }
  | .iandC f => { pred := .always, refs := [.v f.d.toNat, .v f.b.toNat] }
  | .iorC f => { pred := .always, refs := [.v f.d.toNat, .v f.b.toNat] }
  | .ixorC f => { pred := .always, refs := [.v f.d.toNat, .v f.b.toNat] }
  | .ishlC f => { pred := .always, refs := [.v f.d.toNat, .v f.b.toNat] }
  | .ishrC f => { pred := .always, refs := [.v f.d.toNat, .v f.b.toNat] }
  | .isarC f => { pred := .always, refs := [.v f.d.toNat, .v f.b.toNat] }
  | .movC f => { pred := .always, refs := [.v f.d.toNat, .v f.b.toNat] }
  | .addiC f => { pred := .always, refs := [.v f.d.toNat] }
  | .imulC f => { pred := .always, refs := [.v f.d.toNat, .v f.b.toNat] }
  | .faddC f => { pred := .always, refs := [.v f.d.toNat, .v f.b.toNat] }
  | .fsubC f => { pred := .always, refs := [.v f.d.toNat, .v f.b.toNat] }
  | .fmulC f => { pred := .always, refs := [.v f.d.toNat, .v f.b.toNat] }
  | .fmaxC f => { pred := .always, refs := [.v f.d.toNat, .v f.b.toNat] }
  | .fminC f => { pred := .always, refs := [.v f.d.toNat, .v f.b.toNat] }
  | .iadd f => { pred := .lane f.h, refs := [.v f.d.toNat, .v f.a.toNat, .v f.b.toNat] }
  | .isub f => { pred := .lane f.h, refs := [.v f.d.toNat, .v f.a.toNat, .v f.b.toNat] }
  | .imul f => { pred := .lane f.h, refs := [.v f.d.toNat, .v f.a.toNat, .v f.b.toNat] }
  | .imad f => { pred := .lane f.h, refs := [.v f.d.toNat, .v f.a.toNat, .v f.b.toNat] }
  | .mulhiS f => { pred := .lane f.h, refs := [.v f.d.toNat, .v f.a.toNat, .v f.b.toNat] }
  | .mulhiN f => { pred := .lane f.h, refs := [.v f.d.toNat, .v f.a.toNat, .v f.b.toNat] }
  | .mulwS f => { pred := .lane f.h, refs := [.w f.d.toNat, .v f.a.toNat, .v f.b.toNat] }
  | .mulwN f => { pred := .lane f.h, refs := [.w f.d.toNat, .v f.a.toNat, .v f.b.toNat] }
  | .iand f => { pred := .lane f.h, refs := [.v f.d.toNat, .v f.a.toNat, .v f.b.toNat] }
  | .ior f => { pred := .lane f.h, refs := [.v f.d.toNat, .v f.a.toNat, .v f.b.toNat] }
  | .ixor f => { pred := .lane f.h, refs := [.v f.d.toNat, .v f.a.toNat, .v f.b.toNat] }
  | .iandn f => { pred := .lane f.h, refs := [.v f.d.toNat, .v f.a.toNat, .v f.b.toNat] }
  | .ishl f => { pred := .lane f.h, refs := [.v f.d.toNat, .v f.a.toNat, .v f.b.toNat] }
  | .ishr f => { pred := .lane f.h, refs := [.v f.d.toNat, .v f.a.toNat, .v f.b.toNat] }
  | .isar f => { pred := .lane f.h, refs := [.v f.d.toNat, .v f.a.toNat, .v f.b.toNat] }
  | .irot f => { pred := .lane f.h, refs := [.v f.d.toNat, .v f.a.toNat, .v f.b.toNat] }
  | .iminS f => { pred := .lane f.h, refs := [.v f.d.toNat, .v f.a.toNat, .v f.b.toNat] }
  | .iminN f => { pred := .lane f.h, refs := [.v f.d.toNat, .v f.a.toNat, .v f.b.toNat] }
  | .imaxS f => { pred := .lane f.h, refs := [.v f.d.toNat, .v f.a.toNat, .v f.b.toNat] }
  | .imaxN f => { pred := .lane f.h, refs := [.v f.d.toNat, .v f.a.toNat, .v f.b.toNat] }
  | .bfeS f => { pred := .lane f.h, refs := [.v f.d.toNat, .v f.a.toNat, .v f.b.toNat] }
  | .bfeN f => { pred := .lane f.h, refs := [.v f.d.toNat, .v f.a.toNat, .v f.b.toNat] }
  | .bfi f => { pred := .lane f.h, refs := [.v f.d.toNat, .v f.a.toNat, .v f.b.toNat] }
  | .sel f => { pred := .lane f.h, refs := [.v f.d.toNat, .v f.a.toNat, .v f.b.toNat] }
  | .iadd64 f => { pred := .lane f.h, refs := [.w f.d.toNat, .w f.a.toNat, .w f.b.toNat] }
  | .isub64 f => { pred := .lane f.h, refs := [.w f.d.toNat, .w f.a.toNat, .w f.b.toNat] }
  | .ishl64 f => { pred := .lane f.h, refs := [.w f.d.toNat, .w f.a.toNat, .v f.b.toNat] }
  | .ishr64 f => { pred := .lane f.h, refs := [.w f.d.toNat, .w f.a.toNat, .v f.b.toNat] }
  | .addi f => { pred := .lane f.h, refs := [.v f.d.toNat, .v f.a.toNat] }
  | .shli f => { pred := .lane f.h, refs := [.v f.d.toNat, .v f.a.toNat] }
  | .shri f => { pred := .lane f.h, refs := [.v f.d.toNat, .v f.a.toNat] }
  | .sari f => { pred := .lane f.h, refs := [.v f.d.toNat, .v f.a.toNat] }
  | .popc f => { pred := .lane f.h, refs := [.v f.d.toNat, .v f.a.toNat] }
  | .clz f => { pred := .lane f.h, refs := [.v f.d.toNat, .v f.a.toNat] }
  | .ctz f => { pred := .lane f.h, refs := [.v f.d.toNat, .v f.a.toNat] }
  | .brev f => { pred := .lane f.h, refs := [.v f.d.toNat, .v f.a.toNat] }
  | .ineg f => { pred := .lane f.h, refs := [.v f.d.toNat, .v f.a.toNat] }
  | .inot f => { pred := .lane f.h, refs := [.v f.d.toNat, .v f.a.toNat] }
  | .iabs f => { pred := .lane f.h, refs := [.v f.d.toNat, .v f.a.toNat] }
  | .sextB8 f => { pred := .lane f.h, refs := [.v f.d.toNat, .v f.a.toNat] }
  | .sextB16 f => { pred := .lane f.h, refs := [.v f.d.toNat, .v f.a.toNat] }
  | .zextB8 f => { pred := .lane f.h, refs := [.v f.d.toNat, .v f.a.toNat] }
  | .zextB16 f => { pred := .lane f.h, refs := [.v f.d.toNat, .v f.a.toNat] }
  | .popc64 f => { pred := .lane f.h, refs := [.v f.d.toNat, .w f.a.toNat] }
  | .clz64 f => { pred := .lane f.h, refs := [.v f.d.toNat, .w f.a.toNat] }
  | .ineg64 f => { pred := .lane f.h, refs := [.w f.d.toNat, .w f.a.toNat] }
  | .popcUniform f => { pred := .uni f.h, refs := [.s f.d.toNat, .s f.a.toNat] }
  | .clzUniform f => { pred := .uni f.h, refs := [.s f.d.toNat, .s f.a.toNat] }
  | .ctzUniform f => { pred := .uni f.h, refs := [.s f.d.toNat, .s f.a.toNat] }
  | .brevUniform f => { pred := .uni f.h, refs := [.s f.d.toNat, .s f.a.toNat] }
  | .inegUniform f => { pred := .uni f.h, refs := [.s f.d.toNat, .s f.a.toNat] }
  | .inotUniform f => { pred := .uni f.h, refs := [.s f.d.toNat, .s f.a.toNat] }
  | .iabsUniform f => { pred := .uni f.h, refs := [.s f.d.toNat, .s f.a.toNat] }
  | .sextB8Uniform f => { pred := .uni f.h, refs := [.s f.d.toNat, .s f.a.toNat] }
  | .sextB16Uniform f => { pred := .uni f.h, refs := [.s f.d.toNat, .s f.a.toNat] }
  | .zextB8Uniform f => { pred := .uni f.h, refs := [.s f.d.toNat, .s f.a.toNat] }
  | .zextB16Uniform f => { pred := .uni f.h, refs := [.s f.d.toNat, .s f.a.toNat] }
  | .popc64Uniform f => { pred := .uni f.h, refs := [.s f.d.toNat, .z f.a.toNat] }
  | .clz64Uniform f => { pred := .uni f.h, refs := [.s f.d.toNat, .z f.a.toNat] }
  | .ineg64Uniform f => { pred := .uni f.h, refs := [.z f.d.toNat, .z f.a.toNat] }
  | .movVV f => { pred := .lane f.h, refs := [.v f.d.toNat, .v f.a.toNat] }
  | .movVS f => { pred := .lane f.h, refs := [.v f.d.toNat, .s f.a.toNat] }
  | .movSS f => { pred := .uni f.h, refs := [.s f.d.toNat, .s f.a.toNat] }
  | .movSV f => { pred := .lane f.h, refs := [.s f.d.toNat, .v f.a.toNat] }
  | .movVSpecial f => { pred := .lane f.h, refs := [if f.a.toNat = 13 then .w f.d.toNat else .v f.d.toNat] }
  | .movSSpecial f => { pred := .uni f.h, refs := [if f.a.toNat = 13 then .z f.d.toNat else .s f.d.toNat], ok := f.a.toNat != 0 }
  | .movWW f => { pred := .lane f.h, refs := [.w f.d.toNat, .w f.a.toNat] }
  | .movZZ f => { pred := .uni f.h, refs := [.z f.d.toNat, .z f.a.toNat] }
  | .movPV f => { pred := .lane f.h, refs := [.v f.a.toNat], ok := decide (f.d.toNat < 8) }
  | .movVP f => { pred := .lane f.h, refs := [.v f.d.toNat], ok := decide (f.a.toNat < 8) }
  | .movQS f => { pred := .uni f.h, refs := [.s f.a.toNat], ok := decide (f.d.toNat < 4) }
  | .movSQ f => { pred := .uni f.h, refs := [.s f.d.toNat], ok := decide (f.a.toNat < 4) }
  | .movWZ f => { pred := .lane f.h, refs := [.w f.d.toNat, .z f.a.toNat] }
  | .movi f => { pred := .lane f.h, refs := [.v f.d.toNat] }
  | .moviH1 f => { pred := .lane f.h, refs := [.v f.d.toNat] }
  | .moviH2 f => { pred := .lane f.h, refs := [.v f.d.toNat] }
  | .moviUniform f => { pred := .uni f.h, refs := [.s f.d.toNat] }
  | .moviH1Uniform f => { pred := .uni f.h, refs := [.s f.d.toNat] }
  | .moviH2Uniform f => { pred := .uni f.h, refs := [.s f.d.toNat] }
  | .iaddUniform f => { pred := .uni f.h, refs := [.s f.d.toNat, .s f.a.toNat, .s f.b.toNat] }
  | .isubUniform f => { pred := .uni f.h, refs := [.s f.d.toNat, .s f.a.toNat, .s f.b.toNat] }
  | .imulUniform f => { pred := .uni f.h, refs := [.s f.d.toNat, .s f.a.toNat, .s f.b.toNat] }
  | .iadd64Uniform f => { pred := .uni f.h, refs := [.z f.d.toNat, .z f.a.toNat, .z f.b.toNat] }
  | .iandUniform f => { pred := .uni f.h, refs := [.s f.d.toNat, .s f.a.toNat, .s f.b.toNat] }
  | .iorUniform f => { pred := .uni f.h, refs := [.s f.d.toNat, .s f.a.toNat, .s f.b.toNat] }
  | .ixorUniform f => { pred := .uni f.h, refs := [.s f.d.toNat, .s f.a.toNat, .s f.b.toNat] }
  | .ishlUniform f => { pred := .uni f.h, refs := [.s f.d.toNat, .s f.a.toNat, .s f.b.toNat] }
  | .addiUniform f => { pred := .uni f.h, refs := [.s f.d.toNat, .s f.a.toNat] }
  | .shliUniform f => { pred := .uni f.h, refs := [.s f.d.toNat, .s f.a.toNat] }
  | .shriUniform f => { pred := .uni f.h, refs := [.s f.d.toNat, .s f.a.toNat] }
  | .addi64Uniform f => { pred := .uni f.h, refs := [.z f.d.toNat, .z f.a.toNat] }
  | .setp f => { pred := .lane f.h, refs := [.v f.a.toNat, .v f.b.toNat] }
  | .setpUniform f => { pred := .uni f.h, refs := [.s f.a.toNat, .s f.b.toNat], ok := decide (f.pd.toNat < 4) }
  | .bra f => { pred := .lane f.h }
  | .braU f => { pred := .uni f.h }
  | .call f => { pred := .lane f.h, refs := [.w (2 * f.w.toNat)] }
  | .jmp f => { pred := .lane f.h, refs := [.w f.a.toNat] }
  | .callr f => { pred := .lane f.h, refs := [.w f.d.toNat, .w f.a.toNat] }
  | .ret f => { pred := .lane f.h, refs := [.w f.a.toNat] }
  | .nop f => { pred := .lane f }
  | .exit f => { pred := .lane f }
  | .trap f => { pred := .lane f.h }
  | .prog f => { pred := .lane f.h }
  | .rand f => { pred := .lane f.h, refs := [.v f.d.toNat] }
  | .randUniform f => { pred := .uni f.h, refs := [.s f.d.toNat] }
  | .brk f => { pred := .lane f.h }
  | .adr f => { pred := .uni f.h, refs := [.z (2 * f.w.toNat)] }
  | .shflIdx f => { pred := .lane f.h, refs := [.v f.d.toNat, .v f.a.toNat, .v f.b.toNat] }
  | .shflXor f => { pred := .lane f.h, refs := [.v f.d.toNat, .v f.a.toNat, .v f.b.toNat] }
  | .shflUp f => { pred := .lane f.h, refs := [.v f.d.toNat, .v f.a.toNat, .v f.b.toNat] }
  | .shflDown f => { pred := .lane f.h, refs := [.v f.d.toNat, .v f.a.toNat, .v f.b.toNat] }
  | .voteAny f => { pred := .lane f.h }
  | .voteAnyUniform f => { pred := .lane f.h, ok := decide (f.pd.toNat < 4) }
  | .voteAll f => { pred := .lane f.h }
  | .voteAllUniform f => { pred := .lane f.h, ok := decide (f.pd.toNat < 4) }
  | .voteCount f => { pred := .lane f.h, refs := [.v f.d.toNat] }
  | .voteCountUniform f => { pred := .lane f.h, refs := [.s f.d.toNat] }
  | .voteBallot f => { pred := .lane f.h, refs := [.v f.d.toNat] }
  | .voteBallotUniform f => { pred := .lane f.h, refs := [.ballot f.d.toNat] }
  | .scanIncI32 f => { pred := .lane f.h, refs := [.v f.d.toNat, .v f.a.toNat] }
  | .scanExcI32 f => { pred := .lane f.h, refs := [.v f.d.toNat, .v f.a.toNat] }
  | .scanIncF32 f => { pred := .lane f.h, refs := [.v f.d.toNat, .v f.a.toNat] }
  | .scanExcF32 f => { pred := .lane f.h, refs := [.v f.d.toNat, .v f.a.toNat] }
  | .matchLead f => { pred := .lane f.h, refs := [.v f.d.toNat, .v f.a.toNat] }
  | .matchRank f => { pred := .lane f.h, refs := [.v f.d.toNat, .v f.a.toNat] }
  | .matchSumI32 f => { pred := .lane f.h, refs := [.v f.d.toNat, .v f.a.toNat] }
  | .matchSumF32 f => { pred := .lane f.h, refs := [.v f.d.toNat, .v f.a.toNat] }
  | .regroup f => { pred := .always, refs := [.v f.a.toNat] }
  | .faddF32 f => { pred := .lane f.h, refs := [.v f.d.toNat, .v f.a.toNat, .v f.b.toNat] }
  | .fsubF32 f => { pred := .lane f.h, refs := [.v f.d.toNat, .v f.a.toNat, .v f.b.toNat] }
  | .fmulF32 f => { pred := .lane f.h, refs := [.v f.d.toNat, .v f.a.toNat, .v f.b.toNat] }
  | .ffmaF32 f => { pred := .lane f.h, refs := [.v f.d.toNat, .v f.a.toNat, .v f.b.toNat] }
  | .fminF32 f => { pred := .lane f.h, refs := [.v f.d.toNat, .v f.a.toNat, .v f.b.toNat] }
  | .fmaxF32 f => { pred := .lane f.h, refs := [.v f.d.toNat, .v f.a.toNat, .v f.b.toNat] }
  | .fdivF32 f => { pred := .lane f.h, refs := [.v f.d.toNat, .v f.a.toNat, .v f.b.toNat] }
  | .fcpsgnF32 f => { pred := .lane f.h, refs := [.v f.d.toNat, .v f.a.toNat, .v f.b.toNat] }
  | .faddF64 f => { pred := .lane f.h, refs := [.w f.d.toNat, .w f.a.toNat, .w f.b.toNat] }
  | .fsubF64 f => { pred := .lane f.h, refs := [.w f.d.toNat, .w f.a.toNat, .w f.b.toNat] }
  | .fmulF64 f => { pred := .lane f.h, refs := [.w f.d.toNat, .w f.a.toNat, .w f.b.toNat] }
  | .ffmaF64 f => { pred := .lane f.h, refs := [.w f.d.toNat, .w f.a.toNat, .w f.b.toNat] }
  | .fminF64 f => { pred := .lane f.h, refs := [.w f.d.toNat, .w f.a.toNat, .w f.b.toNat] }
  | .fmaxF64 f => { pred := .lane f.h, refs := [.w f.d.toNat, .w f.a.toNat, .w f.b.toNat] }
  | .fdivF64 f => { pred := .lane f.h, refs := [.w f.d.toNat, .w f.a.toNat, .w f.b.toNat] }
  | .fcpsgnF64 f => { pred := .lane f.h, refs := [.w f.d.toNat, .w f.a.toNat, .w f.b.toNat] }
  | .faddF16x2 f => { pred := .lane f.h, refs := [.v f.d.toNat, .v f.a.toNat, .v f.b.toNat] }
  | .fsubF16x2 f => { pred := .lane f.h, refs := [.v f.d.toNat, .v f.a.toNat, .v f.b.toNat] }
  | .fmulF16x2 f => { pred := .lane f.h, refs := [.v f.d.toNat, .v f.a.toNat, .v f.b.toNat] }
  | .ffmaF16x2 f => { pred := .lane f.h, refs := [.v f.d.toNat, .v f.a.toNat, .v f.b.toNat] }
  | .fminF16x2 f => { pred := .lane f.h, refs := [.v f.d.toNat, .v f.a.toNat, .v f.b.toNat] }
  | .fmaxF16x2 f => { pred := .lane f.h, refs := [.v f.d.toNat, .v f.a.toNat, .v f.b.toNat] }
  | .fsqrtF32 f => { pred := .lane f.h, refs := [.v f.d.toNat, .v f.a.toNat] }
  | .fsqrtF64 f => { pred := .lane f.h, refs := [.w f.d.toNat, .w f.a.toNat] }
  | .frcpF32 f => { pred := .lane f.h, refs := [.v f.d.toNat, .v f.a.toNat] }
  | .frsqF32 f => { pred := .lane f.h, refs := [.v f.d.toNat, .v f.a.toNat] }
  | .fex2F32 f => { pred := .lane f.h, refs := [.v f.d.toNat, .v f.a.toNat] }
  | .flg2F32 f => { pred := .lane f.h, refs := [.v f.d.toNat, .v f.a.toNat] }
  | .fsinF32 f => { pred := .lane f.h, refs := [.v f.d.toNat, .v f.a.toNat] }
  | .fcosF32 f => { pred := .lane f.h, refs := [.v f.d.toNat, .v f.a.toNat] }
  | .fabsF32 f => { pred := .lane f.h, refs := [.v f.d.toNat, .v f.a.toNat] }
  | .fnegF32 f => { pred := .lane f.h, refs := [.v f.d.toNat, .v f.a.toNat] }
  | .fabsF64 f => { pred := .lane f.h, refs := [.w f.d.toNat, .w f.a.toNat] }
  | .fnegF64 f => { pred := .lane f.h, refs := [.w f.d.toNat, .w f.a.toNat] }
  | .fclassF32 f => { pred := .lane f.h, refs := [.v f.d.toNat, .v f.a.toNat] }
  | .fclassF64 f => { pred := .lane f.h, refs := [.w f.d.toNat, .w f.a.toNat] }
  | .frintF32 f => { pred := .lane f.h, refs := [.v f.d.toNat, .v f.a.toNat] }
  | .frintF64 f => { pred := .lane f.h, refs := [.w f.d.toNat, .w f.a.toNat] }
  | .fsetpF32 f => { pred := .lane f.h, refs := [.v f.a.toNat, .v f.b.toNat] }
  | .fsetpF64 f => { pred := .lane f.h, refs := [.w f.a.toNat, .w f.b.toNat] }
  | .cvtF32F64 f => { pred := .lane f.h, refs := [.v f.d.toNat, .w f.a.toNat], ok := decide (f.rnd.toNat < 7) }
  | .cvtF64F32 f => { pred := .lane f.h, refs := [.w f.d.toNat, .v f.a.toNat] }
  | .cvtF16F32 f => { pred := .lane f.h, refs := [.v f.d.toNat, .v f.a.toNat], ok := decide (f.rnd.toNat < 7) }
  | .cvtF32F16 f => { pred := .lane f.h, refs := [.v f.d.toNat, .v f.a.toNat] }
  | .cvtBf16F32 f => { pred := .lane f.h, refs := [.v f.d.toNat, .v f.a.toNat], ok := decide (f.rnd.toNat < 7) }
  | .cvtF32Bf16 f => { pred := .lane f.h, refs := [.v f.d.toNat, .v f.a.toNat] }
  | .cvtE4m3F32 f => { pred := .lane f.h, refs := [.v f.d.toNat, .v f.a.toNat], ok := decide (f.rnd.toNat < 7) }
  | .cvtE5m2F32 f => { pred := .lane f.h, refs := [.v f.d.toNat, .v f.a.toNat], ok := decide (f.rnd.toNat < 7) }
  | .cvtF32E4m3 f => { pred := .lane f.h, refs := [.v f.d.toNat, .v f.a.toNat] }
  | .cvtF32E5m2 f => { pred := .lane f.h, refs := [.v f.d.toNat, .v f.a.toNat] }
  | .cvtE2m1F32 f => { pred := .lane f.h, refs := [.v f.d.toNat, .v f.a.toNat], ok := decide (f.rnd.toNat < 7) }
  | .cvtF32E2m1 f => { pred := .lane f.h, refs := [.v f.d.toNat, .v f.a.toNat] }
  | .cvtP2p8F32 f => { pred := .lane f.h, refs := [.v f.d.toNat, .v f.a.toNat], ok := decide (f.rnd.toNat < 7) }
  | .cvtF32P2p8 f => { pred := .lane f.h, refs := [.v f.d.toNat, .v f.a.toNat] }
  | .cvtS32F32 f => { pred := .lane f.h, refs := [.v f.d.toNat, .v f.a.toNat], ok := decide (f.rnd.toNat < 7) }
  | .cvtN32F32 f => { pred := .lane f.h, refs := [.v f.d.toNat, .v f.a.toNat], ok := decide (f.rnd.toNat < 7) }
  | .cvtF32S32 f => { pred := .lane f.h, refs := [.v f.d.toNat, .v f.a.toNat], ok := decide (f.rnd.toNat < 7) }
  | .cvtF32N32 f => { pred := .lane f.h, refs := [.v f.d.toNat, .v f.a.toNat], ok := decide (f.rnd.toNat < 7) }
  | .cvtS32F64 f => { pred := .lane f.h, refs := [.v f.d.toNat, .w f.a.toNat], ok := decide (f.rnd.toNat < 7) }
  | .cvtF64S32 f => { pred := .lane f.h, refs := [.w f.d.toNat, .v f.a.toNat] }
  | .cvtS64F64 f => { pred := .lane f.h, refs := [.w f.d.toNat, .w f.a.toNat], ok := decide (f.rnd.toNat < 7) }
  | .cvtF64S64 f => { pred := .lane f.h, refs := [.w f.d.toNat, .w f.a.toNat], ok := decide (f.rnd.toNat < 7) }
  | .cvtS8F32 f => { pred := .lane f.h, refs := [.v f.d.toNat, .v f.a.toNat], ok := decide (f.rnd.toNat < 7) }
  | .cvtS4F32 f => { pred := .lane f.h, refs := [.v f.d.toNat, .v f.a.toNat], ok := decide (f.rnd.toNat < 7) }
  | .cvtF32S8 f => { pred := .lane f.h, refs := [.v f.d.toNat, .v f.a.toNat] }
  | .cvtF32S4 f => { pred := .lane f.h, refs := [.v f.d.toNat, .v f.a.toNat] }
  | .cvtF16F64 f => { pred := .lane f.h, refs := [.v f.d.toNat, .w f.a.toNat], ok := decide (f.rnd.toNat < 7) }
  | .cvtE8m0F32 f => { pred := .lane f.h, refs := [.v f.d.toNat, .v f.a.toNat], ok := decide (f.rnd.toNat < 7) }
  | .cvtF32E8m0 f => { pred := .lane f.h, refs := [.v f.d.toNat, .v f.a.toNat] }
  | .cvtSatF32F64 f => { pred := .lane f.h, refs := [.v f.d.toNat, .w f.a.toNat], ok := decide (f.rnd.toNat < 7) }
  | .cvtSatF16F32 f => { pred := .lane f.h, refs := [.v f.d.toNat, .v f.a.toNat], ok := decide (f.rnd.toNat < 7) }
  | .cvtSatBf16F32 f => { pred := .lane f.h, refs := [.v f.d.toNat, .v f.a.toNat], ok := decide (f.rnd.toNat < 7) }
  | .cvtSatE4m3F32 f => { pred := .lane f.h, refs := [.v f.d.toNat, .v f.a.toNat], ok := decide (f.rnd.toNat < 7) }
  | .cvtSatE5m2F32 f => { pred := .lane f.h, refs := [.v f.d.toNat, .v f.a.toNat], ok := decide (f.rnd.toNat < 7) }
  | .cvtSatE2m1F32 f => { pred := .lane f.h, refs := [.v f.d.toNat, .v f.a.toNat], ok := decide (f.rnd.toNat < 7) }
  | .cvtSatP2p8F32 f => { pred := .lane f.h, refs := [.v f.d.toNat, .v f.a.toNat], ok := decide (f.rnd.toNat < 7) }
  | .cvtSatS32F32 f => { pred := .lane f.h, refs := [.v f.d.toNat, .v f.a.toNat], ok := decide (f.rnd.toNat < 7) }
  | .cvtSatN32F32 f => { pred := .lane f.h, refs := [.v f.d.toNat, .v f.a.toNat], ok := decide (f.rnd.toNat < 7) }
  | .cvtSatF32S32 f => { pred := .lane f.h, refs := [.v f.d.toNat, .v f.a.toNat], ok := decide (f.rnd.toNat < 7) }
  | .cvtSatF32N32 f => { pred := .lane f.h, refs := [.v f.d.toNat, .v f.a.toNat], ok := decide (f.rnd.toNat < 7) }
  | .cvtSatS32F64 f => { pred := .lane f.h, refs := [.v f.d.toNat, .w f.a.toNat], ok := decide (f.rnd.toNat < 7) }
  | .cvtSatS64F64 f => { pred := .lane f.h, refs := [.w f.d.toNat, .w f.a.toNat], ok := decide (f.rnd.toNat < 7) }
  | .cvtSatF64S64 f => { pred := .lane f.h, refs := [.w f.d.toNat, .w f.a.toNat], ok := decide (f.rnd.toNat < 7) }
  | .cvtSatS8F32 f => { pred := .lane f.h, refs := [.v f.d.toNat, .v f.a.toNat], ok := decide (f.rnd.toNat < 7) }
  | .cvtSatS4F32 f => { pred := .lane f.h, refs := [.v f.d.toNat, .v f.a.toNat], ok := decide (f.rnd.toNat < 7) }
  | .cvtSatF16F64 f => { pred := .lane f.h, refs := [.v f.d.toNat, .w f.a.toNat], ok := decide (f.rnd.toNat < 7) }
  | .cvtSatE8m0F32 f => { pred := .lane f.h, refs := [.v f.d.toNat, .v f.a.toNat], ok := decide (f.rnd.toNat < 7) }
  | .mxscale f => { pred := .lane f.h, refs := [.v f.d.toNat, .v f.a.toNat, .v f.b.toNat] }
  | .mxq f => { pred := .lane f.h, refs := [.v f.d.toNat, .v f.a.toNat, .v f.b.toNat] }
  | .mxdq f => { pred := .lane f.h, refs := [.v f.d.toNat, .v f.a.toNat, .v f.b.toNat] }
  | .rdfmt f => { pred := .uni f.h, refs := [.s f.d.toNat] }
  | .wrfmt f => { pred := .uni f.h, refs := [.s f.a.toNat] }
  | .rdfpm f => { pred := .uni f.h, refs := [.s f.d.toNat] }
  | .wrfpm f => { pred := .uni f.h, refs := [.s f.a.toNat] }
  | .rdfst f => { pred := .uni f.h, refs := [.s f.d.toNat] }
  | .wrfst f => { pred := .uni f.h, refs := [.s f.a.toNat] }
  | .clrfst f => { pred := .uni f.h, refs := [.s f.a.toNat] }
  | .ldG f => { pred := .lane f.h, refs := [.z (2 * f.zb.toNat), .v f.i.toNat, dataRef f.sz.toNat f.d.toNat], ok := loadSizeOk f.sz.toNat }
  | .stG f => { pred := .lane f.h, refs := [.z (2 * f.zb.toNat), .v f.i.toNat, dataRef f.sz.toNat f.d.toNat], ok := storeSizeOk f.sz.toNat }
  | .ldS f => { pred := .lane f.h, refs := [.v f.i.toNat, dataRef f.sz.toNat f.d.toNat], ok := loadSizeOk f.sz.toNat }
  | .stS f => { pred := .lane f.h, refs := [.v f.i.toNat, dataRef f.sz.toNat f.d.toNat], ok := storeSizeOk f.sz.toNat }
  | .ldC f => { pred := .lane f.h, refs := [.v f.i.toNat, dataRef f.sz.toNat f.d.toNat], ok := loadSizeOk f.sz.toNat }
  | .stC f => { pred := .lane f.h, refs := [.v f.i.toNat, dataRef f.sz.toNat f.d.toNat], ok := storeSizeOk f.sz.toNat }
  | .atomAdd f => { pred := .lane f.h, refs := [.w f.a.toNat, .v f.d.toNat], ok := osOk f.os.toNat }
  | .atomMinS f => { pred := .lane f.h, refs := [.w f.a.toNat, .v f.d.toNat], ok := osOk f.os.toNat }
  | .atomMinN f => { pred := .lane f.h, refs := [.w f.a.toNat, .v f.d.toNat], ok := osOk f.os.toNat }
  | .atomMaxS f => { pred := .lane f.h, refs := [.w f.a.toNat, .v f.d.toNat], ok := osOk f.os.toNat }
  | .atomMaxN f => { pred := .lane f.h, refs := [.w f.a.toNat, .v f.d.toNat], ok := osOk f.os.toNat }
  | .atomAnd f => { pred := .lane f.h, refs := [.w f.a.toNat, .v f.d.toNat], ok := osOk f.os.toNat }
  | .atomOr f => { pred := .lane f.h, refs := [.w f.a.toNat, .v f.d.toNat], ok := osOk f.os.toNat }
  | .atomXor f => { pred := .lane f.h, refs := [.w f.a.toNat, .v f.d.toNat], ok := osOk f.os.toNat }
  | .atomExch f => { pred := .lane f.h, refs := [.w f.a.toNat, .v f.d.toNat], ok := osOk f.os.toNat }
  | .atomCas f => { pred := .lane f.h, refs := [.w f.a.toNat, .vs f.d.toNat 2], ok := osOk f.os.toNat }
  | .atomAddF32 f => { pred := .lane f.h, refs := [.w f.a.toNat, .v f.d.toNat], ok := osOk f.os.toNat }
  | .atomAdd64 f => { pred := .lane f.h, refs := [.w f.a.toNat, .w f.d.toNat], ok := osOk f.os.toNat }
  | .atomExch64 f => { pred := .lane f.h, refs := [.w f.a.toNat, .w f.d.toNat], ok := osOk f.os.toNat }
  | .atomCas64 f => { pred := .lane f.h, refs := [.w f.a.toNat, .ww f.d.toNat], ok := osOk f.os.toNat }
  | .atomLd f => { pred := .lane f.h, refs := [.w f.a.toNat, .v f.d.toNat], ok := osLoadOk f.os.toNat }
  | .atomSt f => { pred := .lane f.h, refs := [.w f.a.toNat, .v f.d.toNat], ok := osStoreOk f.os.toNat }
  | .redAdd f => { pred := .lane f.h, refs := [.w f.a.toNat, .v f.d.toNat], ok := osStoreOk f.os.toNat }
  | .redAddF32 f => { pred := .lane f.h, refs := [.w f.a.toNat, .v f.d.toNat], ok := osStoreOk f.os.toNat }
  | .redMinS f => { pred := .lane f.h, refs := [.w f.a.toNat, .v f.d.toNat], ok := osStoreOk f.os.toNat }
  | .redMaxS f => { pred := .lane f.h, refs := [.w f.a.toNat, .v f.d.toNat], ok := osStoreOk f.os.toNat }
  | .redAnd f => { pred := .lane f.h, refs := [.w f.a.toNat, .v f.d.toNat], ok := osStoreOk f.os.toNat }
  | .redOr f => { pred := .lane f.h, refs := [.w f.a.toNat, .v f.d.toNat], ok := osStoreOk f.os.toNat }
  | .redXor f => { pred := .lane f.h, refs := [.w f.a.toNat, .v f.d.toNat], ok := osStoreOk f.os.toNat }
  | .redAdd64 f => { pred := .lane f.h, refs := [.w f.a.toNat, .w f.d.toNat], ok := osStoreOk f.os.toNat }
  | .fence f => { pred := .lane f.h, ok := (f.ord.toNat != 0 && decide (f.ord.toNat ≤ 4) && decide (f.scope.toNat ≤ 4) && (f.ord.toNat != 4 || decide (3 ≤ f.scope.toNat))) }
  | .barC f => { pred := .lane f.h }
  | .waitn f => { pred := .lane f.h, refs := [.s f.d.toNat] }
  | .fetchw f => { pred := .lane f }
  | .launch f => { pred := .lane f.h, refs := [.z f.a.toNat] }
  | .cp f => { pred := .lane f.h, refs := [.s f.a.toNat] }
  | .ldUB32 f => { pred := .uni f.h, refs := [.z (2 * f.b.toNat), .s f.d.toNat] }
  | .ldUB64 f => { pred := .uni f.h, refs := [.z (2 * f.b.toNat), .z f.d.toNat] }
  | .waitc f => { pred := .lane f.h, refs := [.z (2 * f.za.toNat), .s f.se.toNat, .s f.sm.toNat], ok := decide (f.cmp.toNat < 6) }
  | .mma f => { pred := .lane f.h, refs := [.s f.a.toNat, .s f.b.toNat, .s f.k.toNat], acc := some f.acc.toNat }
  | .mzero f => { pred := .lane f.h, acc := some f.acc.toNat }
  | .mldaS f => { pred := .lane f.h, refs := [.s f.a.toNat, .z f.b.toNat], acc := some f.acc.toNat }
  | .mldaG f => { pred := .lane f.h, refs := [.z f.a.toNat, .z f.b.toNat], acc := some f.acc.toNat }
  | .mstaS f => { pred := .lane f.h, refs := [.s f.a.toNat, .z f.b.toNat], acc := some f.acc.toNat }
  | .mstaG f => { pred := .lane f.h, refs := [.z f.a.toNat, .z f.b.toNat], acc := some f.acc.toNat }
  | .maddS f => { pred := .lane f.h, refs := [.s f.a.toNat, .z f.b.toNat], acc := some f.acc.toNat }
  | .maddG f => { pred := .lane f.h, refs := [.z f.a.toNat, .z f.b.toNat], acc := some f.acc.toNat }
  | .mrd f => { pred := .lane f.h, refs := [.s f.a.toNat, .s f.b.toNat], acc := some f.acc.toNat }
  | .mscl f => { pred := .lane f.h, refs := [.z f.a.toNat, .s f.d.toNat] }
  | .ttq f => { pred := .lane f.h, refs := [.s f.a.toNat] }
  | .vld f => { pred := .lane f.h, refs := [.quad f.d.toNat 5, .z f.a.toNat] }
  | .vlds f => { pred := .lane f.h, refs := [.quad f.d.toNat (4 + stencilSize f.sub.toNat), .z f.a.toNat] }
  | .vleaf f => { pred := .lane f.h, refs := [.ss f.d.toNat 2, .z f.a.toNat] }
  | .vst f => { pred := .lane f.h, refs := [.quad f.d.toNat 5, .z f.a.toNat] }
  | .vactClr f => { pred := .lane f.h, refs := [.quad f.d.toNat 4, .z f.a.toNat] }
  | .vactSet f => { pred := .lane f.h, refs := [.quad f.d.toNat 4, .z f.a.toNat] }
  | .vmarch f => { pred := .lane f.h, refs := [.quad f.d.toNat 12, .z f.a.toNat] }
  | .vins f => { pred := .lane f.h, refs := [.quad f.d.toNat 4, .z f.a.toNat] }
  | .vdel f => { pred := .lane f.h, refs := [.quad f.d.toNat 3, .z f.a.toNat] }
  | .halo f => { pred := .lane f.h, refs := [.s f.d.toNat] }
  | .pload f => { pred := .lane f.h, refs := [.z f.a.toNat] }
  | .pmode f => { pred := .lane f.h }
  | .pclamp f => { pred := .lane f.h, refs := [.ss f.a.toNat 2] }
  | .psweep f => { pred := .lane f.h, refs := [.ss f.a.toNat 2] }
  | .preadStates f => { pred := .lane f.h, refs := [.z f.a.toNat, .ss f.d.toNat 2] }
  | .preadCounts f => { pred := .lane f.h, refs := [.z f.a.toNat, .ss f.d.toNat 2] }
  | .preset f => { pred := .lane f.h, ok := f.t.toNat != 0 }
  | .fins f => { pred := .lane f.h, refs := [.quad f.d.toNat 5, .z f.a.toNat] }
  | .resolve f => { pred := .lane f.h, refs := [.quad f.d.toNat 8, .z f.a.toNat] }
  | .resolveClr f => { pred := .lane f.h, refs := [.quad f.d.toNat 8, .z f.a.toNat] }
  | .lclear f => { pred := .lane f.h, refs := [.quad f.d.toNat 1, .z f.a.toNat] }
  | .rast f => { pred := .lane f.h, refs := [.quad f.d.toNat 5, .even11 f.a.toNat] }
  | .qpush f => { pred := .lane f.h, refs := [.ss f.a.toNat 2] }
  | .qpushTry f => { pred := .lane f.h, refs := [.ss f.a.toNat 2, .s f.d.toNat] }
  | .qpop f => { pred := .lane f.h, refs := [.ss f.a.toNat 2] }
  | .qpopTry f => { pred := .lane f.h, refs := [.ss f.a.toNat 2, .s f.d.toNat] }
  | .cflush f => { pred := .uni f.h, refs := [.z f.a.toNat] }
  | .cwb f => { pred := .uni f.h, refs := [.z f.a.toNat] }
  | .rdpr f => { pred := .uni f.h, refs := [.s f.a.toNat], ok := assignedPrivReg f.i.toNat, priv := true }
  | .wrpr f => { pred := .uni f.h, refs := [.s f.a.toNat], ok := assignedPrivReg f.i.toNat, priv := true }
  | .tret f => { pred := .uni f, priv := true }
  | .tqpop f => { pred := .uni f.h, refs := [.s f.a.toNat], priv := true }
  | .halt f => { pred := .uni f.h, refs := [.s f.a.toNat], priv := true }
  | .resume f => { pred := .uni f.h, refs := [.s f.a.toNat], priv := true }
  | .cswap f => { pred := .uni f.h, refs := [.s f.a.toNat], priv := true }
  | .tlbinv f => { pred := .uni f.h, refs := [.z f.a.toNat], priv := true }
  | .dbgh f => { pred := .uni f.h, refs := [.s f.a.toNat], priv := true }
  | .dbgr f => { pred := .uni f.h, refs := [.s f.a.toNat], priv := true }
  | .wdog f => { pred := .uni f, priv := true }
  | .hint f => { pred := .uni f.h, refs := [.s f.a.toNat], priv := true }
  | .catw f => { pred := .uni f.h, refs := [.s f.a.toNat], priv := true }
  | .longResultReturn _ _ _ => { pred := .always }
  | .asyncCompletion _ _ => { pred := .always }
  | .powerTokenGrant _ => { pred := .always }
  | .faultReportArrival _ _ => { pred := .always }
  | .faultBatchDelivery _ => { pred := .always }
  | .supervisorEngineFault _ => { pred := .always }
  | .breakpointStop _ => { pred := .always }
  | .waitcReread _ => { pred := .always }
  | .cohortSwapOut _ => { pred := .always }
  | .cohortSwapIn _ => { pred := .always }
  | .cohortDrainComplete _ => { pred := .always }
  | .fetchMailboxWrite _ => { pred := .always }
  | .copyCommandComplete _ => { pred := .always }
  | .copyFaultStop _ => { pred := .always }
  | .rdmaAcknowledgement _ => { pred := .always }
  | .rdmaRetry _ => { pred := .always }
  | .networkTransferFailure _ => { pred := .always }
  | .mmaStepComplete _ => { pred := .always }
  | .mmaStepFaultStop _ => { pred := .always }
  | .accumulatorCommandComplete _ => { pred := .always }
  | .accumulatorFaultStop _ => { pred := .always }
  | .tileTaskStart _ => { pred := .always }
  | .tileTaskComplete _ => { pred := .always }
  | .curatorLaneRetry _ _ => { pred := .always }
  | .haloCommandComplete _ => { pred := .always }
  | .haloFaultStop _ => { pred := .always }
  | .peuriCommandStart _ => { pred := .always }
  | .peuriCommandComplete _ => { pred := .always }
  | .peuriLoadFault _ => { pred := .always }
  | .ringCommandPerform _ => { pred := .always }
  | .migrationMoveComplete _ => { pred := .always }
  | .moveRecordExpiry _ => { pred := .always }
  | .icacheFill _ => { pred := .always }
  | .haltSettle _ => { pred := .always }
  | .cellarExchangeComplete _ => { pred := .always }
  | .cellarDrainComplete _ => { pred := .always }
  | .cellarFillComplete _ => { pred := .always }
  | .tlbinvComplete _ => { pred := .always }
  | .cacheMaintenanceComplete _ _ => { pred := .always }
  | .fenceComplete _ _ => { pred := .always }
  | .launchBlockRead _ _ => { pred := .always }
  | .watchdogExpiry _ => { pred := .always }
  | .faultStallExpiry _ => { pred := .always }
  | .supervisorWatchdogExpiry _ => { pred := .always }
  | .storageUncorrectableError _ _ => { pred := .always }
  | .hbmUncorrectableError _ _ => { pred := .always }
  | .cohortClaim _ _ => { pred := .always }
  | .cohortPlacement _ _ => { pred := .always }
  | .teamRetire _ => { pred := .always }
  | .gridRetire _ => { pred := .always }
  | .gend _ _ => { pred := .always }
  | .presContinue _ _ => { pred := .always }
  | .presPerformHeld _ _ => { pred := .always }
  | .replayAsid _ _ => { pred := .always }
  | .replayAll _ => { pred := .always }
  | .reginvAsid _ _ => { pred := .always }
  | .reginvAll _ => { pred := .always }
  | .trapQueueConfigWrite _ _ _ => { pred := .always }
  | .causalTrialStart _ _ => { pred := .always }
  | .causalTrialEnd _ _ => { pred := .always }
  | .progressCounterClear _ _ => { pred := .always }
  | .clockLockRequest _ _ => { pred := .always }
  | .clockLockRelease _ _ => { pred := .always }
  | .clockLockGrant _ => { pred := .always }
  | .moduleReset => { pred := .always }
  | .hbmTrainingComplete _ _ => { pred := .always }
  | .fullServiceEntry => { pred := .always }
  | .firmwareLoad => { pred := .always }
  | .firmwareVerifyComplete => { pred := .always }
  | .partitionEnable _ => { pred := .always }
  | .partitionReset _ => { pred := .always }
  | .partitionDisable _ => { pred := .always }
  | .queueDoorbell _ _ _ => { pred := .always }
  | .queueEnable _ _ _ => { pred := .always }
  | .queueDisable _ _ _ => { pred := .always }
  | .queueLaunch _ _ => { pred := .always }
  | .queueWait _ _ => { pred := .always }
  | .queueWaitReread _ _ => { pred := .always }
  | .queueSignal _ _ => { pred := .always }
  | .queueNop _ _ => { pred := .always }
  | .allotWrite _ _ => { pred := .always }
  | .migrationPushRequest _ _ => { pred := .always }
  | .pwrcapWrite _ => { pred := .always }
  | .pscmdWrite _ _ => { pred := .always }
  | .linkcmdWrite _ _ => { pred := .always }
  | .sequencerLinkApply => { pred := .always }
  | .sequencerFrequencyApply => { pred := .always }
  | .linkRetrainComplete => { pred := .always }
  | .clockChangeComplete => { pred := .always }
  | .thermalAlert _ => { pred := .always }
  | .thermalExamination => { pred := .always }
  | .fallbackExit _ => { pred := .always }
  | .portLinkChange _ _ => { pred := .always }
  | .inboundRdmaWrite _ _ _ _ _ => { pred := .always }
  | .hostMemoryAccess _ _ _ => { pred := .always }
  | .spdmGetVersion => { pred := .always }
  | .spdmGetCapabilities => { pred := .always }
  | .spdmNegotiateAlgorithms _ => { pred := .always }
  | .spdmGetDigests => { pred := .always }
  | .spdmGetCertificate _ _ _ => { pred := .always }
  | .spdmChallenge _ _ => { pred := .always }
  | .spdmGetMeasurements _ _ => { pred := .always }
  | .registerWrite _ _ => { pred := .always }
  | .retiredWrite _ _ => { pred := .always }
  | .hostLinkTraining _ _ => { pred := .always }

/-- The switch marker S (02 R54); an event has none. -/
def Instr.marker : Instr → Bool
  | .iaddC f => f.s
  | .isubC f => f.s
  | .iandC f => f.s
  | .iorC f => f.s
  | .ixorC f => f.s
  | .ishlC f => f.s
  | .ishrC f => f.s
  | .isarC f => f.s
  | .movC f => f.s
  | .addiC f => f.s
  | .imulC f => f.s
  | .faddC f => f.s
  | .fsubC f => f.s
  | .fmulC f => f.s
  | .fmaxC f => f.s
  | .fminC f => f.s
  | .iadd f => f.h.s
  | .isub f => f.h.s
  | .imul f => f.h.s
  | .imad f => f.h.s
  | .mulhiS f => f.h.s
  | .mulhiN f => f.h.s
  | .mulwS f => f.h.s
  | .mulwN f => f.h.s
  | .iand f => f.h.s
  | .ior f => f.h.s
  | .ixor f => f.h.s
  | .iandn f => f.h.s
  | .ishl f => f.h.s
  | .ishr f => f.h.s
  | .isar f => f.h.s
  | .irot f => f.h.s
  | .iminS f => f.h.s
  | .iminN f => f.h.s
  | .imaxS f => f.h.s
  | .imaxN f => f.h.s
  | .bfeS f => f.h.s
  | .bfeN f => f.h.s
  | .bfi f => f.h.s
  | .sel f => f.h.s
  | .iadd64 f => f.h.s
  | .isub64 f => f.h.s
  | .ishl64 f => f.h.s
  | .ishr64 f => f.h.s
  | .addi f => f.h.s
  | .shli f => f.h.s
  | .shri f => f.h.s
  | .sari f => f.h.s
  | .popc f => f.h.s
  | .clz f => f.h.s
  | .ctz f => f.h.s
  | .brev f => f.h.s
  | .ineg f => f.h.s
  | .inot f => f.h.s
  | .iabs f => f.h.s
  | .sextB8 f => f.h.s
  | .sextB16 f => f.h.s
  | .zextB8 f => f.h.s
  | .zextB16 f => f.h.s
  | .popc64 f => f.h.s
  | .clz64 f => f.h.s
  | .ineg64 f => f.h.s
  | .popcUniform f => f.h.s
  | .clzUniform f => f.h.s
  | .ctzUniform f => f.h.s
  | .brevUniform f => f.h.s
  | .inegUniform f => f.h.s
  | .inotUniform f => f.h.s
  | .iabsUniform f => f.h.s
  | .sextB8Uniform f => f.h.s
  | .sextB16Uniform f => f.h.s
  | .zextB8Uniform f => f.h.s
  | .zextB16Uniform f => f.h.s
  | .popc64Uniform f => f.h.s
  | .clz64Uniform f => f.h.s
  | .ineg64Uniform f => f.h.s
  | .movVV f => f.h.s
  | .movVS f => f.h.s
  | .movSS f => f.h.s
  | .movSV f => f.h.s
  | .movVSpecial f => f.h.s
  | .movSSpecial f => f.h.s
  | .movWW f => f.h.s
  | .movZZ f => f.h.s
  | .movPV f => f.h.s
  | .movVP f => f.h.s
  | .movQS f => f.h.s
  | .movSQ f => f.h.s
  | .movWZ f => f.h.s
  | .movi f => f.h.s
  | .moviH1 f => f.h.s
  | .moviH2 f => f.h.s
  | .moviUniform f => f.h.s
  | .moviH1Uniform f => f.h.s
  | .moviH2Uniform f => f.h.s
  | .iaddUniform f => f.h.s
  | .isubUniform f => f.h.s
  | .imulUniform f => f.h.s
  | .iadd64Uniform f => f.h.s
  | .iandUniform f => f.h.s
  | .iorUniform f => f.h.s
  | .ixorUniform f => f.h.s
  | .ishlUniform f => f.h.s
  | .addiUniform f => f.h.s
  | .shliUniform f => f.h.s
  | .shriUniform f => f.h.s
  | .addi64Uniform f => f.h.s
  | .setp f => f.h.s
  | .setpUniform f => f.h.s
  | .bra f => f.h.s
  | .braU f => f.h.s
  | .call f => f.h.s
  | .jmp f => f.h.s
  | .callr f => f.h.s
  | .ret f => f.h.s
  | .nop f => f.s
  | .exit f => f.s
  | .trap f => f.h.s
  | .prog f => f.h.s
  | .rand f => f.h.s
  | .randUniform f => f.h.s
  | .brk f => f.h.s
  | .adr f => f.h.s
  | .shflIdx f => f.h.s
  | .shflXor f => f.h.s
  | .shflUp f => f.h.s
  | .shflDown f => f.h.s
  | .voteAny f => f.h.s
  | .voteAnyUniform f => f.h.s
  | .voteAll f => f.h.s
  | .voteAllUniform f => f.h.s
  | .voteCount f => f.h.s
  | .voteCountUniform f => f.h.s
  | .voteBallot f => f.h.s
  | .voteBallotUniform f => f.h.s
  | .scanIncI32 f => f.h.s
  | .scanExcI32 f => f.h.s
  | .scanIncF32 f => f.h.s
  | .scanExcF32 f => f.h.s
  | .matchLead f => f.h.s
  | .matchRank f => f.h.s
  | .matchSumI32 f => f.h.s
  | .matchSumF32 f => f.h.s
  | .regroup f => f.s
  | .faddF32 f => f.h.s
  | .fsubF32 f => f.h.s
  | .fmulF32 f => f.h.s
  | .ffmaF32 f => f.h.s
  | .fminF32 f => f.h.s
  | .fmaxF32 f => f.h.s
  | .fdivF32 f => f.h.s
  | .fcpsgnF32 f => f.h.s
  | .faddF64 f => f.h.s
  | .fsubF64 f => f.h.s
  | .fmulF64 f => f.h.s
  | .ffmaF64 f => f.h.s
  | .fminF64 f => f.h.s
  | .fmaxF64 f => f.h.s
  | .fdivF64 f => f.h.s
  | .fcpsgnF64 f => f.h.s
  | .faddF16x2 f => f.h.s
  | .fsubF16x2 f => f.h.s
  | .fmulF16x2 f => f.h.s
  | .ffmaF16x2 f => f.h.s
  | .fminF16x2 f => f.h.s
  | .fmaxF16x2 f => f.h.s
  | .fsqrtF32 f => f.h.s
  | .fsqrtF64 f => f.h.s
  | .frcpF32 f => f.h.s
  | .frsqF32 f => f.h.s
  | .fex2F32 f => f.h.s
  | .flg2F32 f => f.h.s
  | .fsinF32 f => f.h.s
  | .fcosF32 f => f.h.s
  | .fabsF32 f => f.h.s
  | .fnegF32 f => f.h.s
  | .fabsF64 f => f.h.s
  | .fnegF64 f => f.h.s
  | .fclassF32 f => f.h.s
  | .fclassF64 f => f.h.s
  | .frintF32 f => f.h.s
  | .frintF64 f => f.h.s
  | .fsetpF32 f => f.h.s
  | .fsetpF64 f => f.h.s
  | .cvtF32F64 f => f.h.s
  | .cvtF64F32 f => f.h.s
  | .cvtF16F32 f => f.h.s
  | .cvtF32F16 f => f.h.s
  | .cvtBf16F32 f => f.h.s
  | .cvtF32Bf16 f => f.h.s
  | .cvtE4m3F32 f => f.h.s
  | .cvtE5m2F32 f => f.h.s
  | .cvtF32E4m3 f => f.h.s
  | .cvtF32E5m2 f => f.h.s
  | .cvtE2m1F32 f => f.h.s
  | .cvtF32E2m1 f => f.h.s
  | .cvtP2p8F32 f => f.h.s
  | .cvtF32P2p8 f => f.h.s
  | .cvtS32F32 f => f.h.s
  | .cvtN32F32 f => f.h.s
  | .cvtF32S32 f => f.h.s
  | .cvtF32N32 f => f.h.s
  | .cvtS32F64 f => f.h.s
  | .cvtF64S32 f => f.h.s
  | .cvtS64F64 f => f.h.s
  | .cvtF64S64 f => f.h.s
  | .cvtS8F32 f => f.h.s
  | .cvtS4F32 f => f.h.s
  | .cvtF32S8 f => f.h.s
  | .cvtF32S4 f => f.h.s
  | .cvtF16F64 f => f.h.s
  | .cvtE8m0F32 f => f.h.s
  | .cvtF32E8m0 f => f.h.s
  | .cvtSatF32F64 f => f.h.s
  | .cvtSatF16F32 f => f.h.s
  | .cvtSatBf16F32 f => f.h.s
  | .cvtSatE4m3F32 f => f.h.s
  | .cvtSatE5m2F32 f => f.h.s
  | .cvtSatE2m1F32 f => f.h.s
  | .cvtSatP2p8F32 f => f.h.s
  | .cvtSatS32F32 f => f.h.s
  | .cvtSatN32F32 f => f.h.s
  | .cvtSatF32S32 f => f.h.s
  | .cvtSatF32N32 f => f.h.s
  | .cvtSatS32F64 f => f.h.s
  | .cvtSatS64F64 f => f.h.s
  | .cvtSatF64S64 f => f.h.s
  | .cvtSatS8F32 f => f.h.s
  | .cvtSatS4F32 f => f.h.s
  | .cvtSatF16F64 f => f.h.s
  | .cvtSatE8m0F32 f => f.h.s
  | .mxscale f => f.h.s
  | .mxq f => f.h.s
  | .mxdq f => f.h.s
  | .rdfmt f => f.h.s
  | .wrfmt f => f.h.s
  | .rdfpm f => f.h.s
  | .wrfpm f => f.h.s
  | .rdfst f => f.h.s
  | .wrfst f => f.h.s
  | .clrfst f => f.h.s
  | .ldG f => f.h.s
  | .stG f => f.h.s
  | .ldS f => f.h.s
  | .stS f => f.h.s
  | .ldC f => f.h.s
  | .stC f => f.h.s
  | .atomAdd f => f.h.s
  | .atomMinS f => f.h.s
  | .atomMinN f => f.h.s
  | .atomMaxS f => f.h.s
  | .atomMaxN f => f.h.s
  | .atomAnd f => f.h.s
  | .atomOr f => f.h.s
  | .atomXor f => f.h.s
  | .atomExch f => f.h.s
  | .atomCas f => f.h.s
  | .atomAddF32 f => f.h.s
  | .atomAdd64 f => f.h.s
  | .atomExch64 f => f.h.s
  | .atomCas64 f => f.h.s
  | .atomLd f => f.h.s
  | .atomSt f => f.h.s
  | .redAdd f => f.h.s
  | .redAddF32 f => f.h.s
  | .redMinS f => f.h.s
  | .redMaxS f => f.h.s
  | .redAnd f => f.h.s
  | .redOr f => f.h.s
  | .redXor f => f.h.s
  | .redAdd64 f => f.h.s
  | .fence f => f.h.s
  | .barC f => f.h.s
  | .waitn f => f.h.s
  | .fetchw f => f.s
  | .launch f => f.h.s
  | .cp f => f.h.s
  | .ldUB32 f => f.h.s
  | .ldUB64 f => f.h.s
  | .waitc f => f.h.s
  | .mma f => f.h.s
  | .mzero f => f.h.s
  | .mldaS f => f.h.s
  | .mldaG f => f.h.s
  | .mstaS f => f.h.s
  | .mstaG f => f.h.s
  | .maddS f => f.h.s
  | .maddG f => f.h.s
  | .mrd f => f.h.s
  | .mscl f => f.h.s
  | .ttq f => f.h.s
  | .vld f => f.h.s
  | .vlds f => f.h.s
  | .vleaf f => f.h.s
  | .vst f => f.h.s
  | .vactClr f => f.h.s
  | .vactSet f => f.h.s
  | .vmarch f => f.h.s
  | .vins f => f.h.s
  | .vdel f => f.h.s
  | .halo f => f.h.s
  | .pload f => f.h.s
  | .pmode f => f.h.s
  | .pclamp f => f.h.s
  | .psweep f => f.h.s
  | .preadStates f => f.h.s
  | .preadCounts f => f.h.s
  | .preset f => f.h.s
  | .fins f => f.h.s
  | .resolve f => f.h.s
  | .resolveClr f => f.h.s
  | .lclear f => f.h.s
  | .rast f => f.h.s
  | .qpush f => f.h.s
  | .qpushTry f => f.h.s
  | .qpop f => f.h.s
  | .qpopTry f => f.h.s
  | .cflush f => f.h.s
  | .cwb f => f.h.s
  | .rdpr f => f.h.s
  | .wrpr f => f.h.s
  | .tret f => f.s
  | .tqpop f => f.h.s
  | .halt f => f.h.s
  | .resume f => f.h.s
  | .cswap f => f.h.s
  | .tlbinv f => f.h.s
  | .dbgh f => f.h.s
  | .dbgr f => f.h.s
  | .wdog f => f.s
  | .hint f => f.h.s
  | .catw f => f.h.s
  | .longResultReturn _ _ _ => false
  | .asyncCompletion _ _ => false
  | .powerTokenGrant _ => false
  | .faultReportArrival _ _ => false
  | .faultBatchDelivery _ => false
  | .supervisorEngineFault _ => false
  | .breakpointStop _ => false
  | .waitcReread _ => false
  | .cohortSwapOut _ => false
  | .cohortSwapIn _ => false
  | .cohortDrainComplete _ => false
  | .fetchMailboxWrite _ => false
  | .copyCommandComplete _ => false
  | .copyFaultStop _ => false
  | .rdmaAcknowledgement _ => false
  | .rdmaRetry _ => false
  | .networkTransferFailure _ => false
  | .mmaStepComplete _ => false
  | .mmaStepFaultStop _ => false
  | .accumulatorCommandComplete _ => false
  | .accumulatorFaultStop _ => false
  | .tileTaskStart _ => false
  | .tileTaskComplete _ => false
  | .curatorLaneRetry _ _ => false
  | .haloCommandComplete _ => false
  | .haloFaultStop _ => false
  | .peuriCommandStart _ => false
  | .peuriCommandComplete _ => false
  | .peuriLoadFault _ => false
  | .ringCommandPerform _ => false
  | .migrationMoveComplete _ => false
  | .moveRecordExpiry _ => false
  | .icacheFill _ => false
  | .haltSettle _ => false
  | .cellarExchangeComplete _ => false
  | .cellarDrainComplete _ => false
  | .cellarFillComplete _ => false
  | .tlbinvComplete _ => false
  | .cacheMaintenanceComplete _ _ => false
  | .fenceComplete _ _ => false
  | .launchBlockRead _ _ => false
  | .watchdogExpiry _ => false
  | .faultStallExpiry _ => false
  | .supervisorWatchdogExpiry _ => false
  | .storageUncorrectableError _ _ => false
  | .hbmUncorrectableError _ _ => false
  | .cohortClaim _ _ => false
  | .cohortPlacement _ _ => false
  | .teamRetire _ => false
  | .gridRetire _ => false
  | .gend _ _ => false
  | .presContinue _ _ => false
  | .presPerformHeld _ _ => false
  | .replayAsid _ _ => false
  | .replayAll _ => false
  | .reginvAsid _ _ => false
  | .reginvAll _ => false
  | .trapQueueConfigWrite _ _ _ => false
  | .causalTrialStart _ _ => false
  | .causalTrialEnd _ _ => false
  | .progressCounterClear _ _ => false
  | .clockLockRequest _ _ => false
  | .clockLockRelease _ _ => false
  | .clockLockGrant _ => false
  | .moduleReset => false
  | .hbmTrainingComplete _ _ => false
  | .fullServiceEntry => false
  | .firmwareLoad => false
  | .firmwareVerifyComplete => false
  | .partitionEnable _ => false
  | .partitionReset _ => false
  | .partitionDisable _ => false
  | .queueDoorbell _ _ _ => false
  | .queueEnable _ _ _ => false
  | .queueDisable _ _ _ => false
  | .queueLaunch _ _ => false
  | .queueWait _ _ => false
  | .queueWaitReread _ _ => false
  | .queueSignal _ _ => false
  | .queueNop _ _ => false
  | .allotWrite _ _ => false
  | .migrationPushRequest _ _ => false
  | .pwrcapWrite _ => false
  | .pscmdWrite _ _ => false
  | .linkcmdWrite _ _ => false
  | .sequencerLinkApply => false
  | .sequencerFrequencyApply => false
  | .linkRetrainComplete => false
  | .clockChangeComplete => false
  | .thermalAlert _ => false
  | .thermalExamination => false
  | .fallbackExit _ => false
  | .portLinkChange _ _ => false
  | .inboundRdmaWrite _ _ _ _ _ => false
  | .hostMemoryAccess _ _ _ => false
  | .spdmGetVersion => false
  | .spdmGetCapabilities => false
  | .spdmNegotiateAlgorithms _ => false
  | .spdmGetDigests => false
  | .spdmGetCertificate _ _ _ => false
  | .spdmChallenge _ _ => false
  | .spdmGetMeasurements _ _ => false
  | .registerWrite _ _ => false
  | .retiredWrite _ _ => false
  | .hostLinkTraining _ _ => false

/-- A privileged function (R85). -/
def Instr.privileged (i : Instr) : Bool := i.shape.priv

/-- The predicate field holds a combination that is not reserved: pred 7 with N 1 is reserved in every instruction, and
in a uniform instruction the values 4 to 6 are (R64, R65). -/
def PredUse.ok : PredUse → Bool
  | .always => true
  | .lane h => !(h.p.toNat == 7 && h.n)
  | .uni h => !(h.p.toNat == 7 && h.n) && (decide (h.p.toNat ≤ 3) || h.p.toNat == 7)

/-- A field holds a reserved value, subcode 1 (R86). -/
def Instr.reservedValue (i : Instr) : Bool := !(i.shape.pred.ok && i.shape.ok)

/-- A pair or quad field is misaligned, subcode 3 (R67). -/
def Instr.misaligned (i : Instr) : Bool := i.shape.refs.any RegRef.misaligned

/-- One more than the highest lane register named. -/
def Instr.laneTop (i : Instr) : Nat := (i.shape.refs.map RegRef.laneTop).foldl max 0

/-- One more than the highest uniform register named in a team of width `width`. -/
def Instr.uniTop (width : Nat) (i : Instr) : Nat := (i.shape.refs.map (RegRef.uniTop width)).foldl max 0

/-- The codes that a field of an assigned function leaves unassigned, subcode 0: the comparison codes of R75 and the
special numbers of R73. -/
def Instr.unassignedCode : Instr → Bool
  | .iaddC _ => false
  | .isubC _ => false
  | .iandC _ => false
  | .iorC _ => false
  | .ixorC _ => false
  | .ishlC _ => false
  | .ishrC _ => false
  | .isarC _ => false
  | .movC _ => false
  | .addiC _ => false
  | .imulC _ => false
  | .faddC _ => false
  | .fsubC _ => false
  | .fmulC _ => false
  | .fmaxC _ => false
  | .fminC _ => false
  | .iadd _ => false
  | .isub _ => false
  | .imul _ => false
  | .imad _ => false
  | .mulhiS _ => false
  | .mulhiN _ => false
  | .mulwS _ => false
  | .mulwN _ => false
  | .iand _ => false
  | .ior _ => false
  | .ixor _ => false
  | .iandn _ => false
  | .ishl _ => false
  | .ishr _ => false
  | .isar _ => false
  | .irot _ => false
  | .iminS _ => false
  | .iminN _ => false
  | .imaxS _ => false
  | .imaxN _ => false
  | .bfeS _ => false
  | .bfeN _ => false
  | .bfi _ => false
  | .sel _ => false
  | .iadd64 _ => false
  | .isub64 _ => false
  | .ishl64 _ => false
  | .ishr64 _ => false
  | .addi _ => false
  | .shli _ => false
  | .shri _ => false
  | .sari _ => false
  | .popc _ => false
  | .clz _ => false
  | .ctz _ => false
  | .brev _ => false
  | .ineg _ => false
  | .inot _ => false
  | .iabs _ => false
  | .sextB8 _ => false
  | .sextB16 _ => false
  | .zextB8 _ => false
  | .zextB16 _ => false
  | .popc64 _ => false
  | .clz64 _ => false
  | .ineg64 _ => false
  | .popcUniform _ => false
  | .clzUniform _ => false
  | .ctzUniform _ => false
  | .brevUniform _ => false
  | .inegUniform _ => false
  | .inotUniform _ => false
  | .iabsUniform _ => false
  | .sextB8Uniform _ => false
  | .sextB16Uniform _ => false
  | .zextB8Uniform _ => false
  | .zextB16Uniform _ => false
  | .popc64Uniform _ => false
  | .clz64Uniform _ => false
  | .ineg64Uniform _ => false
  | .movVV _ => false
  | .movVS _ => false
  | .movSS _ => false
  | .movSV _ => false
  | .movVSpecial f => decide (14 ≤ f.a.toNat)
  | .movSSpecial f => decide (14 ≤ f.a.toNat)
  | .movWW _ => false
  | .movZZ _ => false
  | .movPV _ => false
  | .movVP _ => false
  | .movQS _ => false
  | .movSQ _ => false
  | .movWZ _ => false
  | .movi _ => false
  | .moviH1 _ => false
  | .moviH2 _ => false
  | .moviUniform _ => false
  | .moviH1Uniform _ => false
  | .moviH2Uniform _ => false
  | .iaddUniform _ => false
  | .isubUniform _ => false
  | .imulUniform _ => false
  | .iadd64Uniform _ => false
  | .iandUniform _ => false
  | .iorUniform _ => false
  | .ixorUniform _ => false
  | .ishlUniform _ => false
  | .addiUniform _ => false
  | .shliUniform _ => false
  | .shriUniform _ => false
  | .addi64Uniform _ => false
  | .setp f => decide (10 ≤ f.cc.toNat)
  | .setpUniform f => decide (10 ≤ f.cc.toNat)
  | .bra _ => false
  | .braU _ => false
  | .call _ => false
  | .jmp _ => false
  | .callr _ => false
  | .ret _ => false
  | .nop _ => false
  | .exit _ => false
  | .trap _ => false
  | .prog _ => false
  | .rand _ => false
  | .randUniform _ => false
  | .brk _ => false
  | .adr _ => false
  | .shflIdx _ => false
  | .shflXor _ => false
  | .shflUp _ => false
  | .shflDown _ => false
  | .voteAny _ => false
  | .voteAnyUniform _ => false
  | .voteAll _ => false
  | .voteAllUniform _ => false
  | .voteCount _ => false
  | .voteCountUniform _ => false
  | .voteBallot _ => false
  | .voteBallotUniform _ => false
  | .scanIncI32 _ => false
  | .scanExcI32 _ => false
  | .scanIncF32 _ => false
  | .scanExcF32 _ => false
  | .matchLead _ => false
  | .matchRank _ => false
  | .matchSumI32 _ => false
  | .matchSumF32 _ => false
  | .regroup _ => false
  | .faddF32 _ => false
  | .fsubF32 _ => false
  | .fmulF32 _ => false
  | .ffmaF32 _ => false
  | .fminF32 _ => false
  | .fmaxF32 _ => false
  | .fdivF32 _ => false
  | .fcpsgnF32 _ => false
  | .faddF64 _ => false
  | .fsubF64 _ => false
  | .fmulF64 _ => false
  | .ffmaF64 _ => false
  | .fminF64 _ => false
  | .fmaxF64 _ => false
  | .fdivF64 _ => false
  | .fcpsgnF64 _ => false
  | .faddF16x2 _ => false
  | .fsubF16x2 _ => false
  | .fmulF16x2 _ => false
  | .ffmaF16x2 _ => false
  | .fminF16x2 _ => false
  | .fmaxF16x2 _ => false
  | .fsqrtF32 _ => false
  | .fsqrtF64 _ => false
  | .frcpF32 _ => false
  | .frsqF32 _ => false
  | .fex2F32 _ => false
  | .flg2F32 _ => false
  | .fsinF32 _ => false
  | .fcosF32 _ => false
  | .fabsF32 _ => false
  | .fnegF32 _ => false
  | .fabsF64 _ => false
  | .fnegF64 _ => false
  | .fclassF32 _ => false
  | .fclassF64 _ => false
  | .frintF32 _ => false
  | .frintF64 _ => false
  | .fsetpF32 f => decide (14 ≤ f.cc.toNat)
  | .fsetpF64 f => decide (14 ≤ f.cc.toNat)
  | .cvtF32F64 _ => false
  | .cvtF64F32 _ => false
  | .cvtF16F32 _ => false
  | .cvtF32F16 _ => false
  | .cvtBf16F32 _ => false
  | .cvtF32Bf16 _ => false
  | .cvtE4m3F32 _ => false
  | .cvtE5m2F32 _ => false
  | .cvtF32E4m3 _ => false
  | .cvtF32E5m2 _ => false
  | .cvtE2m1F32 _ => false
  | .cvtF32E2m1 _ => false
  | .cvtP2p8F32 _ => false
  | .cvtF32P2p8 _ => false
  | .cvtS32F32 _ => false
  | .cvtN32F32 _ => false
  | .cvtF32S32 _ => false
  | .cvtF32N32 _ => false
  | .cvtS32F64 _ => false
  | .cvtF64S32 _ => false
  | .cvtS64F64 _ => false
  | .cvtF64S64 _ => false
  | .cvtS8F32 _ => false
  | .cvtS4F32 _ => false
  | .cvtF32S8 _ => false
  | .cvtF32S4 _ => false
  | .cvtF16F64 _ => false
  | .cvtE8m0F32 _ => false
  | .cvtF32E8m0 _ => false
  | .cvtSatF32F64 _ => false
  | .cvtSatF16F32 _ => false
  | .cvtSatBf16F32 _ => false
  | .cvtSatE4m3F32 _ => false
  | .cvtSatE5m2F32 _ => false
  | .cvtSatE2m1F32 _ => false
  | .cvtSatP2p8F32 _ => false
  | .cvtSatS32F32 _ => false
  | .cvtSatN32F32 _ => false
  | .cvtSatF32S32 _ => false
  | .cvtSatF32N32 _ => false
  | .cvtSatS32F64 _ => false
  | .cvtSatS64F64 _ => false
  | .cvtSatF64S64 _ => false
  | .cvtSatS8F32 _ => false
  | .cvtSatS4F32 _ => false
  | .cvtSatF16F64 _ => false
  | .cvtSatE8m0F32 _ => false
  | .mxscale _ => false
  | .mxq _ => false
  | .mxdq _ => false
  | .rdfmt _ => false
  | .wrfmt _ => false
  | .rdfpm _ => false
  | .wrfpm _ => false
  | .rdfst _ => false
  | .wrfst _ => false
  | .clrfst _ => false
  | .ldG _ => false
  | .stG _ => false
  | .ldS _ => false
  | .stS _ => false
  | .ldC _ => false
  | .stC _ => false
  | .atomAdd _ => false
  | .atomMinS _ => false
  | .atomMinN _ => false
  | .atomMaxS _ => false
  | .atomMaxN _ => false
  | .atomAnd _ => false
  | .atomOr _ => false
  | .atomXor _ => false
  | .atomExch _ => false
  | .atomCas _ => false
  | .atomAddF32 _ => false
  | .atomAdd64 _ => false
  | .atomExch64 _ => false
  | .atomCas64 _ => false
  | .atomLd _ => false
  | .atomSt _ => false
  | .redAdd _ => false
  | .redAddF32 _ => false
  | .redMinS _ => false
  | .redMaxS _ => false
  | .redAnd _ => false
  | .redOr _ => false
  | .redXor _ => false
  | .redAdd64 _ => false
  | .fence _ => false
  | .barC _ => false
  | .waitn _ => false
  | .fetchw _ => false
  | .launch _ => false
  | .cp _ => false
  | .ldUB32 _ => false
  | .ldUB64 _ => false
  | .waitc _ => false
  | .mma _ => false
  | .mzero _ => false
  | .mldaS _ => false
  | .mldaG _ => false
  | .mstaS _ => false
  | .mstaG _ => false
  | .maddS _ => false
  | .maddG _ => false
  | .mrd _ => false
  | .mscl _ => false
  | .ttq _ => false
  | .vld _ => false
  | .vlds _ => false
  | .vleaf _ => false
  | .vst _ => false
  | .vactClr _ => false
  | .vactSet _ => false
  | .vmarch _ => false
  | .vins _ => false
  | .vdel _ => false
  | .halo _ => false
  | .pload _ => false
  | .pmode _ => false
  | .pclamp _ => false
  | .psweep _ => false
  | .preadStates _ => false
  | .preadCounts _ => false
  | .preset _ => false
  | .fins _ => false
  | .resolve _ => false
  | .resolveClr _ => false
  | .lclear _ => false
  | .rast _ => false
  | .qpush _ => false
  | .qpushTry _ => false
  | .qpop _ => false
  | .qpopTry _ => false
  | .cflush _ => false
  | .cwb _ => false
  | .rdpr _ => false
  | .wrpr _ => false
  | .tret _ => false
  | .tqpop _ => false
  | .halt _ => false
  | .resume _ => false
  | .cswap _ => false
  | .tlbinv _ => false
  | .dbgh _ => false
  | .dbgr _ => false
  | .wdog _ => false
  | .hint _ => false
  | .catw _ => false
  | .longResultReturn _ _ _ => false
  | .asyncCompletion _ _ => false
  | .powerTokenGrant _ => false
  | .faultReportArrival _ _ => false
  | .faultBatchDelivery _ => false
  | .supervisorEngineFault _ => false
  | .breakpointStop _ => false
  | .waitcReread _ => false
  | .cohortSwapOut _ => false
  | .cohortSwapIn _ => false
  | .cohortDrainComplete _ => false
  | .fetchMailboxWrite _ => false
  | .copyCommandComplete _ => false
  | .copyFaultStop _ => false
  | .rdmaAcknowledgement _ => false
  | .rdmaRetry _ => false
  | .networkTransferFailure _ => false
  | .mmaStepComplete _ => false
  | .mmaStepFaultStop _ => false
  | .accumulatorCommandComplete _ => false
  | .accumulatorFaultStop _ => false
  | .tileTaskStart _ => false
  | .tileTaskComplete _ => false
  | .curatorLaneRetry _ _ => false
  | .haloCommandComplete _ => false
  | .haloFaultStop _ => false
  | .peuriCommandStart _ => false
  | .peuriCommandComplete _ => false
  | .peuriLoadFault _ => false
  | .ringCommandPerform _ => false
  | .migrationMoveComplete _ => false
  | .moveRecordExpiry _ => false
  | .icacheFill _ => false
  | .haltSettle _ => false
  | .cellarExchangeComplete _ => false
  | .cellarDrainComplete _ => false
  | .cellarFillComplete _ => false
  | .tlbinvComplete _ => false
  | .cacheMaintenanceComplete _ _ => false
  | .fenceComplete _ _ => false
  | .launchBlockRead _ _ => false
  | .watchdogExpiry _ => false
  | .faultStallExpiry _ => false
  | .supervisorWatchdogExpiry _ => false
  | .storageUncorrectableError _ _ => false
  | .hbmUncorrectableError _ _ => false
  | .cohortClaim _ _ => false
  | .cohortPlacement _ _ => false
  | .teamRetire _ => false
  | .gridRetire _ => false
  | .gend _ _ => false
  | .presContinue _ _ => false
  | .presPerformHeld _ _ => false
  | .replayAsid _ _ => false
  | .replayAll _ => false
  | .reginvAsid _ _ => false
  | .reginvAll _ => false
  | .trapQueueConfigWrite _ _ _ => false
  | .causalTrialStart _ _ => false
  | .causalTrialEnd _ _ => false
  | .progressCounterClear _ _ => false
  | .clockLockRequest _ _ => false
  | .clockLockRelease _ _ => false
  | .clockLockGrant _ => false
  | .moduleReset => false
  | .hbmTrainingComplete _ _ => false
  | .fullServiceEntry => false
  | .firmwareLoad => false
  | .firmwareVerifyComplete => false
  | .partitionEnable _ => false
  | .partitionReset _ => false
  | .partitionDisable _ => false
  | .queueDoorbell _ _ _ => false
  | .queueEnable _ _ _ => false
  | .queueDisable _ _ _ => false
  | .queueLaunch _ _ => false
  | .queueWait _ _ => false
  | .queueWaitReread _ _ => false
  | .queueSignal _ _ => false
  | .queueNop _ _ => false
  | .allotWrite _ _ => false
  | .migrationPushRequest _ _ => false
  | .pwrcapWrite _ => false
  | .pscmdWrite _ _ => false
  | .linkcmdWrite _ _ => false
  | .sequencerLinkApply => false
  | .sequencerFrequencyApply => false
  | .linkRetrainComplete => false
  | .clockChangeComplete => false
  | .thermalAlert _ => false
  | .thermalExamination => false
  | .fallbackExit _ => false
  | .portLinkChange _ _ => false
  | .inboundRdmaWrite _ _ _ _ _ => false
  | .hostMemoryAccess _ _ _ => false
  | .spdmGetVersion => false
  | .spdmGetCapabilities => false
  | .spdmNegotiateAlgorithms _ => false
  | .spdmGetDigests => false
  | .spdmGetCertificate _ _ _ => false
  | .spdmChallenge _ _ => false
  | .spdmGetMeasurements _ _ => false
  | .registerWrite _ _ => false
  | .retiredWrite _ _ => false
  | .hostLinkTraining _ _ => false

/-- Has the instruction an encoding of its own? The 16-bit iadd.c v0, v0 has none (R63), and an event has none. -/
def Instr.encoded : Instr → Bool
  | .iaddC f => !(f.d.toNat == 0 && f.b.toNat == 0)
  | .isubC _ => true
  | .iandC _ => true
  | .iorC _ => true
  | .ixorC _ => true
  | .ishlC _ => true
  | .ishrC _ => true
  | .isarC _ => true
  | .movC _ => true
  | .addiC _ => true
  | .imulC _ => true
  | .faddC _ => true
  | .fsubC _ => true
  | .fmulC _ => true
  | .fmaxC _ => true
  | .fminC _ => true
  | .iadd _ => true
  | .isub _ => true
  | .imul _ => true
  | .imad _ => true
  | .mulhiS _ => true
  | .mulhiN _ => true
  | .mulwS _ => true
  | .mulwN _ => true
  | .iand _ => true
  | .ior _ => true
  | .ixor _ => true
  | .iandn _ => true
  | .ishl _ => true
  | .ishr _ => true
  | .isar _ => true
  | .irot _ => true
  | .iminS _ => true
  | .iminN _ => true
  | .imaxS _ => true
  | .imaxN _ => true
  | .bfeS _ => true
  | .bfeN _ => true
  | .bfi _ => true
  | .sel _ => true
  | .iadd64 _ => true
  | .isub64 _ => true
  | .ishl64 _ => true
  | .ishr64 _ => true
  | .addi _ => true
  | .shli _ => true
  | .shri _ => true
  | .sari _ => true
  | .popc _ => true
  | .clz _ => true
  | .ctz _ => true
  | .brev _ => true
  | .ineg _ => true
  | .inot _ => true
  | .iabs _ => true
  | .sextB8 _ => true
  | .sextB16 _ => true
  | .zextB8 _ => true
  | .zextB16 _ => true
  | .popc64 _ => true
  | .clz64 _ => true
  | .ineg64 _ => true
  | .popcUniform _ => true
  | .clzUniform _ => true
  | .ctzUniform _ => true
  | .brevUniform _ => true
  | .inegUniform _ => true
  | .inotUniform _ => true
  | .iabsUniform _ => true
  | .sextB8Uniform _ => true
  | .sextB16Uniform _ => true
  | .zextB8Uniform _ => true
  | .zextB16Uniform _ => true
  | .popc64Uniform _ => true
  | .clz64Uniform _ => true
  | .ineg64Uniform _ => true
  | .movVV _ => true
  | .movVS _ => true
  | .movSS _ => true
  | .movSV _ => true
  | .movVSpecial _ => true
  | .movSSpecial _ => true
  | .movWW _ => true
  | .movZZ _ => true
  | .movPV _ => true
  | .movVP _ => true
  | .movQS _ => true
  | .movSQ _ => true
  | .movWZ _ => true
  | .movi _ => true
  | .moviH1 _ => true
  | .moviH2 _ => true
  | .moviUniform _ => true
  | .moviH1Uniform _ => true
  | .moviH2Uniform _ => true
  | .iaddUniform _ => true
  | .isubUniform _ => true
  | .imulUniform _ => true
  | .iadd64Uniform _ => true
  | .iandUniform _ => true
  | .iorUniform _ => true
  | .ixorUniform _ => true
  | .ishlUniform _ => true
  | .addiUniform _ => true
  | .shliUniform _ => true
  | .shriUniform _ => true
  | .addi64Uniform _ => true
  | .setp _ => true
  | .setpUniform _ => true
  | .bra _ => true
  | .braU _ => true
  | .call _ => true
  | .jmp _ => true
  | .callr _ => true
  | .ret _ => true
  | .nop _ => true
  | .exit _ => true
  | .trap _ => true
  | .prog _ => true
  | .rand _ => true
  | .randUniform _ => true
  | .brk _ => true
  | .adr _ => true
  | .shflIdx _ => true
  | .shflXor _ => true
  | .shflUp _ => true
  | .shflDown _ => true
  | .voteAny _ => true
  | .voteAnyUniform _ => true
  | .voteAll _ => true
  | .voteAllUniform _ => true
  | .voteCount _ => true
  | .voteCountUniform _ => true
  | .voteBallot _ => true
  | .voteBallotUniform _ => true
  | .scanIncI32 _ => true
  | .scanExcI32 _ => true
  | .scanIncF32 _ => true
  | .scanExcF32 _ => true
  | .matchLead _ => true
  | .matchRank _ => true
  | .matchSumI32 _ => true
  | .matchSumF32 _ => true
  | .regroup _ => true
  | .faddF32 _ => true
  | .fsubF32 _ => true
  | .fmulF32 _ => true
  | .ffmaF32 _ => true
  | .fminF32 _ => true
  | .fmaxF32 _ => true
  | .fdivF32 _ => true
  | .fcpsgnF32 _ => true
  | .faddF64 _ => true
  | .fsubF64 _ => true
  | .fmulF64 _ => true
  | .ffmaF64 _ => true
  | .fminF64 _ => true
  | .fmaxF64 _ => true
  | .fdivF64 _ => true
  | .fcpsgnF64 _ => true
  | .faddF16x2 _ => true
  | .fsubF16x2 _ => true
  | .fmulF16x2 _ => true
  | .ffmaF16x2 _ => true
  | .fminF16x2 _ => true
  | .fmaxF16x2 _ => true
  | .fsqrtF32 _ => true
  | .fsqrtF64 _ => true
  | .frcpF32 _ => true
  | .frsqF32 _ => true
  | .fex2F32 _ => true
  | .flg2F32 _ => true
  | .fsinF32 _ => true
  | .fcosF32 _ => true
  | .fabsF32 _ => true
  | .fnegF32 _ => true
  | .fabsF64 _ => true
  | .fnegF64 _ => true
  | .fclassF32 _ => true
  | .fclassF64 _ => true
  | .frintF32 _ => true
  | .frintF64 _ => true
  | .fsetpF32 _ => true
  | .fsetpF64 _ => true
  | .cvtF32F64 _ => true
  | .cvtF64F32 _ => true
  | .cvtF16F32 _ => true
  | .cvtF32F16 _ => true
  | .cvtBf16F32 _ => true
  | .cvtF32Bf16 _ => true
  | .cvtE4m3F32 _ => true
  | .cvtE5m2F32 _ => true
  | .cvtF32E4m3 _ => true
  | .cvtF32E5m2 _ => true
  | .cvtE2m1F32 _ => true
  | .cvtF32E2m1 _ => true
  | .cvtP2p8F32 _ => true
  | .cvtF32P2p8 _ => true
  | .cvtS32F32 _ => true
  | .cvtN32F32 _ => true
  | .cvtF32S32 _ => true
  | .cvtF32N32 _ => true
  | .cvtS32F64 _ => true
  | .cvtF64S32 _ => true
  | .cvtS64F64 _ => true
  | .cvtF64S64 _ => true
  | .cvtS8F32 _ => true
  | .cvtS4F32 _ => true
  | .cvtF32S8 _ => true
  | .cvtF32S4 _ => true
  | .cvtF16F64 _ => true
  | .cvtE8m0F32 _ => true
  | .cvtF32E8m0 _ => true
  | .cvtSatF32F64 _ => true
  | .cvtSatF16F32 _ => true
  | .cvtSatBf16F32 _ => true
  | .cvtSatE4m3F32 _ => true
  | .cvtSatE5m2F32 _ => true
  | .cvtSatE2m1F32 _ => true
  | .cvtSatP2p8F32 _ => true
  | .cvtSatS32F32 _ => true
  | .cvtSatN32F32 _ => true
  | .cvtSatF32S32 _ => true
  | .cvtSatF32N32 _ => true
  | .cvtSatS32F64 _ => true
  | .cvtSatS64F64 _ => true
  | .cvtSatF64S64 _ => true
  | .cvtSatS8F32 _ => true
  | .cvtSatS4F32 _ => true
  | .cvtSatF16F64 _ => true
  | .cvtSatE8m0F32 _ => true
  | .mxscale _ => true
  | .mxq _ => true
  | .mxdq _ => true
  | .rdfmt _ => true
  | .wrfmt _ => true
  | .rdfpm _ => true
  | .wrfpm _ => true
  | .rdfst _ => true
  | .wrfst _ => true
  | .clrfst _ => true
  | .ldG _ => true
  | .stG _ => true
  | .ldS _ => true
  | .stS _ => true
  | .ldC _ => true
  | .stC _ => true
  | .atomAdd _ => true
  | .atomMinS _ => true
  | .atomMinN _ => true
  | .atomMaxS _ => true
  | .atomMaxN _ => true
  | .atomAnd _ => true
  | .atomOr _ => true
  | .atomXor _ => true
  | .atomExch _ => true
  | .atomCas _ => true
  | .atomAddF32 _ => true
  | .atomAdd64 _ => true
  | .atomExch64 _ => true
  | .atomCas64 _ => true
  | .atomLd _ => true
  | .atomSt _ => true
  | .redAdd _ => true
  | .redAddF32 _ => true
  | .redMinS _ => true
  | .redMaxS _ => true
  | .redAnd _ => true
  | .redOr _ => true
  | .redXor _ => true
  | .redAdd64 _ => true
  | .fence _ => true
  | .barC _ => true
  | .waitn _ => true
  | .fetchw _ => true
  | .launch _ => true
  | .cp _ => true
  | .ldUB32 _ => true
  | .ldUB64 _ => true
  | .waitc _ => true
  | .mma _ => true
  | .mzero _ => true
  | .mldaS _ => true
  | .mldaG _ => true
  | .mstaS _ => true
  | .mstaG _ => true
  | .maddS _ => true
  | .maddG _ => true
  | .mrd _ => true
  | .mscl _ => true
  | .ttq _ => true
  | .vld _ => true
  | .vlds _ => true
  | .vleaf _ => true
  | .vst _ => true
  | .vactClr _ => true
  | .vactSet _ => true
  | .vmarch _ => true
  | .vins _ => true
  | .vdel _ => true
  | .halo _ => true
  | .pload _ => true
  | .pmode _ => true
  | .pclamp _ => true
  | .psweep _ => true
  | .preadStates _ => true
  | .preadCounts _ => true
  | .preset _ => true
  | .fins _ => true
  | .resolve _ => true
  | .resolveClr _ => true
  | .lclear _ => true
  | .rast _ => true
  | .qpush _ => true
  | .qpushTry _ => true
  | .qpop _ => true
  | .qpopTry _ => true
  | .cflush _ => true
  | .cwb _ => true
  | .rdpr _ => true
  | .wrpr _ => true
  | .tret _ => true
  | .tqpop _ => true
  | .halt _ => true
  | .resume _ => true
  | .cswap _ => true
  | .tlbinv _ => true
  | .dbgh _ => true
  | .dbgr _ => true
  | .wdog _ => true
  | .hint _ => true
  | .catw _ => true
  | .longResultReturn _ _ _ => false
  | .asyncCompletion _ _ => false
  | .powerTokenGrant _ => false
  | .faultReportArrival _ _ => false
  | .faultBatchDelivery _ => false
  | .supervisorEngineFault _ => false
  | .breakpointStop _ => false
  | .waitcReread _ => false
  | .cohortSwapOut _ => false
  | .cohortSwapIn _ => false
  | .cohortDrainComplete _ => false
  | .fetchMailboxWrite _ => false
  | .copyCommandComplete _ => false
  | .copyFaultStop _ => false
  | .rdmaAcknowledgement _ => false
  | .rdmaRetry _ => false
  | .networkTransferFailure _ => false
  | .mmaStepComplete _ => false
  | .mmaStepFaultStop _ => false
  | .accumulatorCommandComplete _ => false
  | .accumulatorFaultStop _ => false
  | .tileTaskStart _ => false
  | .tileTaskComplete _ => false
  | .curatorLaneRetry _ _ => false
  | .haloCommandComplete _ => false
  | .haloFaultStop _ => false
  | .peuriCommandStart _ => false
  | .peuriCommandComplete _ => false
  | .peuriLoadFault _ => false
  | .ringCommandPerform _ => false
  | .migrationMoveComplete _ => false
  | .moveRecordExpiry _ => false
  | .icacheFill _ => false
  | .haltSettle _ => false
  | .cellarExchangeComplete _ => false
  | .cellarDrainComplete _ => false
  | .cellarFillComplete _ => false
  | .tlbinvComplete _ => false
  | .cacheMaintenanceComplete _ _ => false
  | .fenceComplete _ _ => false
  | .launchBlockRead _ _ => false
  | .watchdogExpiry _ => false
  | .faultStallExpiry _ => false
  | .supervisorWatchdogExpiry _ => false
  | .storageUncorrectableError _ _ => false
  | .hbmUncorrectableError _ _ => false
  | .cohortClaim _ _ => false
  | .cohortPlacement _ _ => false
  | .teamRetire _ => false
  | .gridRetire _ => false
  | .gend _ _ => false
  | .presContinue _ _ => false
  | .presPerformHeld _ _ => false
  | .replayAsid _ _ => false
  | .replayAll _ => false
  | .reginvAsid _ _ => false
  | .reginvAll _ => false
  | .trapQueueConfigWrite _ _ _ => false
  | .causalTrialStart _ _ => false
  | .causalTrialEnd _ _ => false
  | .progressCounterClear _ _ => false
  | .clockLockRequest _ _ => false
  | .clockLockRelease _ _ => false
  | .clockLockGrant _ => false
  | .moduleReset => false
  | .hbmTrainingComplete _ _ => false
  | .fullServiceEntry => false
  | .firmwareLoad => false
  | .firmwareVerifyComplete => false
  | .partitionEnable _ => false
  | .partitionReset _ => false
  | .partitionDisable _ => false
  | .queueDoorbell _ _ _ => false
  | .queueEnable _ _ _ => false
  | .queueDisable _ _ _ => false
  | .queueLaunch _ _ => false
  | .queueWait _ _ => false
  | .queueWaitReread _ _ => false
  | .queueSignal _ _ => false
  | .queueNop _ _ => false
  | .allotWrite _ _ => false
  | .migrationPushRequest _ _ => false
  | .pwrcapWrite _ => false
  | .pscmdWrite _ _ => false
  | .linkcmdWrite _ _ => false
  | .sequencerLinkApply => false
  | .sequencerFrequencyApply => false
  | .linkRetrainComplete => false
  | .clockChangeComplete => false
  | .thermalAlert _ => false
  | .thermalExamination => false
  | .fallbackExit _ => false
  | .portLinkChange _ _ => false
  | .inboundRdmaWrite _ _ _ _ _ => false
  | .hostMemoryAccess _ _ _ => false
  | .spdmGetVersion => false
  | .spdmGetCapabilities => false
  | .spdmNegotiateAlgorithms _ => false
  | .spdmGetDigests => false
  | .spdmGetCertificate _ _ _ => false
  | .spdmChallenge _ _ => false
  | .spdmGetMeasurements _ _ => false
  | .registerWrite _ _ => false
  | .retiredWrite _ _ => false
  | .hostLinkTraining _ _ => false

end Sys2Proof
end

