-- ==== Sys2Proof/WellFormed.lean ====
section
/-!
DEFINITION. Well-formedness of instructions as syntax, over the operand tables of Sys2Proof/Machine/Shapes.lean: an
instruction that some word of Icdun encodes and that no check of 03 R64-R67, R79-R86 on encoded values alone refuses.
-/
namespace Sys2Proof

/-- An instruction as Icdun has it: encoded, with no unassigned code, no reserved value and no misaligned field. -/
def WellFormed (i : Instr) : Bool :=
  i.encoded && !i.unassignedCode && !i.reservedValue && !i.misaligned

end Sys2Proof
end

