-- ==== Sys2Proof/Decode.lean ====
section
/-!
DEFINITION. The decoder, total on any bytes and rejecting by name, and the encoder, both written from the formats and
the opcode map of 03_encoding (R61-R85). Words are natural numbers here: bit k of the encoding is bit k of the number,
and a field is a quotient and a remainder by powers of two. A word decodes when the opcode map assigns its function
bits and every reserved bit of its format is zero; reserved VALUES of a field (R86) and register checks (R67) are
found by Instr.reservedValue and its neighbours in Machine/Shapes.lean, which the issue slot consults before it acts.
-/
namespace Sys2Proof

/-- Bits [lo + n - 1 : lo] of a word. -/
def fld (w lo n : Nat) : Nat := w / 2 ^ lo % 2 ^ n

/-- A field as a bit vector. -/
def fbv (w lo n : Nat) : BitVec n := BitVec.ofNat n (w / 2 ^ lo)

/-- One bit of a word. -/
def fbit (w lo : Nat) : Bool := w / 2 ^ lo % 2 == 1

/-! ### The fields of each format, out of a word and into a word (03 R62, R64, R69-R85) -/

/-- The header of a 32-bit instruction (R64). -/
def hdr (w : Nat) : Hdr := { s := fbit w 1, p := fbv w 8 3, n := fbit w 11 }
/-- The header's operand bits in place. -/
def hdrBits (h : Hdr) : Nat := 2 * h.s.toNat + 256 * h.p.toNat + 2048 * h.n.toNat

/-- 16-bit form: vb, vd, S (R62). -/
def c16 (w : Nat) : C16 := { s := fbit w 1, d := fbv w 6 5, b := fbv w 11 5 }
/-- The word of a 16-bit form over its fixed bits. -/
def c16Word (base : Nat) (f : C16) : Nat := base + 2 * f.s.toNat + 64 * f.d.toNat + 2048 * f.b.toNat
/-- 16-bit form with an immediate (R62). -/
def c16i (w : Nat) : C16I := { s := fbit w 1, d := fbv w 6 5, i := fbv w 11 5 }
/-- The word of addi.c over its fixed bits. -/
def c16iWord (base : Nat) (f : C16I) : Nat := base + 2 * f.s.toNat + 64 * f.d.toNat + 2048 * f.i.toNat
/-- regroup: S and the key register (R150). -/
def rg (w : Nat) : RG := { s := fbit w 1, a := fbv w 18 6 }
/-- The word of regroup over its fixed bits. -/
def rgWord (base : Nat) (f : RG) : Nat := base + 2 * f.s.toNat + 2 ^ 18 * f.a.toNat
/-- The word of an instruction with no operands but its header. -/
def hdrWord (base : Nat) (f : Hdr) : Nat := base + hdrBits f
/-- The fields of format RR. -/
def rr (w : Nat) : RR := { h := hdr w, d := fbv w 12 6, a := fbv w 18 6, b := fbv w 24 6 }
/-- The word of format RR over its fixed bits. -/
def rrWord (base : Nat) (f : RR) : Nat :=
  base + hdrBits f.h + 2 ^ 12 * f.d.toNat + 2 ^ 18 * f.a.toNat + 2 ^ 24 * f.b.toNat
/-- The fields of format RI. -/
def ri (w : Nat) : RI := { h := hdr w, d := fbv w 12 6, a := fbv w 18 6, i := fbv w 24 6 }
/-- The word of format RI over its fixed bits. -/
def riWord (base : Nat) (f : RI) : Nat :=
  base + hdrBits f.h + 2 ^ 12 * f.d.toNat + 2 ^ 18 * f.a.toNat + 2 ^ 24 * f.i.toNat
/-- The fields of format UN. -/
def un (w : Nat) : UN := { h := hdr w, d := fbv w 12 6, a := fbv w 18 6 }
/-- The word of format UN over its fixed bits. -/
def unWord (base : Nat) (f : UN) : Nat :=
  base + hdrBits f.h + 2 ^ 12 * f.d.toNat + 2 ^ 18 * f.a.toNat
/-- The fields of format UA. -/
def ua (w : Nat) : UA := { h := hdr w, a := fbv w 18 6 }
/-- The word of format UA over its fixed bits. -/
def uaWord (base : Nat) (f : UA) : Nat :=
  base + hdrBits f.h + 2 ^ 18 * f.a.toNat
/-- The fields of format UD. -/
def ud (w : Nat) : UD := { h := hdr w, d := fbv w 12 6 }
/-- The word of format UD over its fixed bits. -/
def udWord (base : Nat) (f : UD) : Nat :=
  base + hdrBits f.h + 2 ^ 12 * f.d.toNat
/-- The fields of format LI. -/
def li (w : Nat) : LI := { h := hdr w, d := fbv w 12 6, i := fbv w 20 12 }
/-- The word of format LI over its fixed bits. -/
def liWord (base : Nat) (f : LI) : Nat :=
  base + hdrBits f.h + 2 ^ 12 * f.d.toNat + 2 ^ 20 * f.i.toNat
/-- The fields of format LI8. -/
def li8 (w : Nat) : LI8 := { h := hdr w, d := fbv w 12 6, i := fbv w 20 8 }
/-- The word of format LI8 over its fixed bits. -/
def li8Word (base : Nat) (f : LI8) : Nat :=
  base + hdrBits f.h + 2 ^ 12 * f.d.toNat + 2 ^ 20 * f.i.toNat
/-- The fields of format PC. -/
def pc (w : Nat) : PC := { h := hdr w, cc := fbv w 28 4, pd := fbv w 25 3, a := fbv w 18 6, b := fbv w 12 6 }
/-- The word of format PC over its fixed bits. -/
def pcWord (base : Nat) (f : PC) : Nat :=
  base + hdrBits f.h + 2 ^ 12 * f.b.toNat + 2 ^ 18 * f.a.toNat + 2 ^ 25 * f.pd.toNat + 2 ^ 28 * f.cc.toNat
/-- The fields of format BR. -/
def br (w : Nat) : BR := { h := hdr w, off := fbv w 12 20 }
/-- The word of format BR over its fixed bits. -/
def brWord (base : Nat) (f : BR) : Nat :=
  base + hdrBits f.h + 2 ^ 12 * f.off.toNat
/-- The fields of format CL. -/
def cl (w : Nat) : CL := { h := hdr w, off := fbv w 17 15, w := fbv w 12 5 }
/-- The word of format CL over its fixed bits. -/
def clWord (base : Nat) (f : CL) : Nat :=
  base + hdrBits f.h + 2 ^ 12 * f.w.toNat + 2 ^ 17 * f.off.toNat
/-- The fields of format CTI. -/
def cti (w : Nat) : CTI := { h := hdr w, i := fbv w 18 8 }
/-- The word of format CTI over its fixed bits. -/
def ctiWord (base : Nat) (f : CTI) : Nat :=
  base + hdrBits f.h + 2 ^ 18 * f.i.toNat
/-- The fields of format CTP. -/
def ctp (w : Nat) : CTP := { h := hdr w, i := fbv w 18 4 }
/-- The word of format CTP over its fixed bits. -/
def ctpWord (base : Nat) (f : CTP) : Nat :=
  base + hdrBits f.h + 2 ^ 18 * f.i.toNat
/-- The fields of format VTP. -/
def vtp (w : Nat) : VTP := { h := hdr w, ps := fbv w 27 3, pd := fbv w 24 3 }
/-- The word of format VTP over its fixed bits. -/
def vtpWord (base : Nat) (f : VTP) : Nat :=
  base + hdrBits f.h + 2 ^ 24 * f.pd.toNat + 2 ^ 27 * f.ps.toNat
/-- The fields of format VTR. -/
def vtr (w : Nat) : VTR := { h := hdr w, ps := fbv w 27 3, d := fbv w 12 6 }
/-- The word of format VTR over its fixed bits. -/
def vtrWord (base : Nat) (f : VTR) : Nat :=
  base + hdrBits f.h + 2 ^ 12 * f.d.toNat + 2 ^ 27 * f.ps.toNat
/-- The fields of format MT. -/
def mt (w : Nat) : MT := { h := hdr w, pd := fbv w 27 3, d := fbv w 12 6, a := fbv w 18 6 }
/-- The word of format MT over its fixed bits. -/
def mtWord (base : Nat) (f : MT) : Nat :=
  base + hdrBits f.h + 2 ^ 12 * f.d.toNat + 2 ^ 18 * f.a.toNat + 2 ^ 27 * f.pd.toNat
/-- The fields of format CV. -/
def cv (w : Nat) : CV := { h := hdr w, rnd := fbv w 29 3, d := fbv w 12 6, a := fbv w 18 6 }
/-- The word of format CV over its fixed bits. -/
def cvWord (base : Nat) (f : CV) : Nat :=
  base + hdrBits f.h + 2 ^ 12 * f.d.toNat + 2 ^ 18 * f.a.toNat + 2 ^ 29 * f.rnd.toNat
/-- The fields of format M. -/
def mm (w : Nat) : M := { h := hdr w, sz := fbv w 29 3, zb := fbv w 24 5, i := fbv w 18 6, d := fbv w 12 6 }
/-- The word of format M over its fixed bits. -/
def mmWord (base : Nat) (f : M) : Nat :=
  base + hdrBits f.h + 2 ^ 12 * f.d.toNat + 2 ^ 18 * f.i.toNat + 2 ^ 24 * f.zb.toNat + 2 ^ 29 * f.sz.toNat
/-- The fields of format MS. -/
def ms (w : Nat) : MS := { h := hdr w, sz := fbv w 27 3, ofs := fbv w 24 3, i := fbv w 18 6, d := fbv w 12 6 }
/-- The word of format MS over its fixed bits. -/
def msWord (base : Nat) (f : MS) : Nat :=
  base + hdrBits f.h + 2 ^ 12 * f.d.toNat + 2 ^ 18 * f.i.toNat + 2 ^ 24 * f.ofs.toNat + 2 ^ 27 * f.sz.toNat
/-- The fields of format AT. -/
def atf (w : Nat) : AT := { h := hdr w, os := fbv w 27 5, a := fbv w 18 6, d := fbv w 12 6 }
/-- The word of format AT over its fixed bits. -/
def atfWord (base : Nat) (f : AT) : Nat :=
  base + hdrBits f.h + 2 ^ 12 * f.d.toNat + 2 ^ 18 * f.a.toNat + 2 ^ 27 * f.os.toNat
/-- The fields of format FN. -/
def fnc (w : Nat) : FN := { h := hdr w, ord := fbv w 25 3, scope := fbv w 22 3 }
/-- The word of format FN over its fixed bits. -/
def fncWord (base : Nat) (f : FN) : Nat :=
  base + hdrBits f.h + 2 ^ 22 * f.scope.toNat + 2 ^ 25 * f.ord.toNat
/-- The fields of format BAR. -/
def bar (w : Nat) : BAR := { h := hdr w, slot := fbv w 24 4 }
/-- The word of format BAR over its fixed bits. -/
def barWord (base : Nat) (f : BAR) : Nat :=
  base + hdrBits f.h + 2 ^ 24 * f.slot.toNat
/-- The fields of format WN. -/
def wn (w : Nat) : WN := { h := hdr w, path := fbv w 25 3, d := fbv w 12 6 }
/-- The word of format WN over its fixed bits. -/
def wnWord (base : Nat) (f : WN) : Nat :=
  base + hdrBits f.h + 2 ^ 12 * f.d.toNat + 2 ^ 25 * f.path.toNat
/-- The fields of format SA. -/
def sa (w : Nat) : SA := { h := hdr w, a := fbv w 12 6 }
/-- The word of format SA over its fixed bits. -/
def saWord (base : Nat) (f : SA) : Nat :=
  base + hdrBits f.h + 2 ^ 12 * f.a.toNat
/-- The fields of format LDU. -/
def ldu (w : Nat) : LDU := { h := hdr w, i := fbv w 23 5, b := fbv w 18 5, d := fbv w 12 6 }
/-- The word of format LDU over its fixed bits. -/
def lduWord (base : Nat) (f : LDU) : Nat :=
  base + hdrBits f.h + 2 ^ 12 * f.d.toNat + 2 ^ 18 * f.b.toNat + 2 ^ 23 * f.i.toNat
/-- The fields of format WC. -/
def wc (w : Nat) : WC := { h := hdr w, cmp := fbv w 29 3, za := fbv w 24 5, se := fbv w 18 6, sm := fbv w 12 6 }
/-- The word of format WC over its fixed bits. -/
def wcWord (base : Nat) (f : WC) : Nat :=
  base + hdrBits f.h + 2 ^ 12 * f.sm.toNat + 2 ^ 18 * f.se.toNat + 2 ^ 24 * f.za.toNat + 2 ^ 29 * f.cmp.toNat
/-- The fields of format MA. -/
def ma (w : Nat) : MA := { h := hdr w, acc := fbv w 30 2, k := fbv w 24 6, b := fbv w 18 6, a := fbv w 12 6 }
/-- The word of format MA over its fixed bits. -/
def maWord (base : Nat) (f : MA) : Nat :=
  base + hdrBits f.h + 2 ^ 12 * f.a.toNat + 2 ^ 18 * f.b.toNat + 2 ^ 24 * f.k.toNat + 2 ^ 30 * f.acc.toNat
/-- The fields of format AC0. -/
def ac0 (w : Nat) : AC0 := { h := hdr w, acc := fbv w 26 2 }
/-- The word of format AC0 over its fixed bits. -/
def ac0Word (base : Nat) (f : AC0) : Nat :=
  base + hdrBits f.h + 2 ^ 26 * f.acc.toNat
/-- The fields of format AC. -/
def ac (w : Nat) : AC := { h := hdr w, acc := fbv w 26 2, b := fbv w 18 6, a := fbv w 12 6 }
/-- The word of format AC over its fixed bits. -/
def acWord (base : Nat) (f : AC) : Nat :=
  base + hdrBits f.h + 2 ^ 12 * f.a.toNat + 2 ^ 18 * f.b.toNat + 2 ^ 26 * f.acc.toNat
/-- The fields of format SCL. -/
def scl (w : Nat) : SCL := { h := hdr w, u := fbv w 24 1, d := fbv w 12 6, a := fbv w 18 6 }
/-- The word of format SCL over its fixed bits. -/
def sclWord (base : Nat) (f : SCL) : Nat :=
  base + hdrBits f.h + 2 ^ 12 * f.d.toNat + 2 ^ 18 * f.a.toNat + 2 ^ 24 * f.u.toNat
/-- The fields of format VS. -/
def vs (w : Nat) : VS := { h := hdr w, sub := fbv w 24 2, d := fbv w 12 6, a := fbv w 18 6 }
/-- The word of format VS over its fixed bits. -/
def vsWord (base : Nat) (f : VS) : Nat :=
  base + hdrBits f.h + 2 ^ 12 * f.d.toNat + 2 ^ 18 * f.a.toNat + 2 ^ 24 * f.sub.toNat
/-- The fields of format PT. -/
def pt (w : Nat) : PT := { h := hdr w, t := fbv w 24 2 }
/-- The word of format PT over its fixed bits. -/
def ptWord (base : Nat) (f : PT) : Nat :=
  base + hdrBits f.h + 2 ^ 24 * f.t.toNat
/-- The fields of format PR. -/
def pr (w : Nat) : PR := { h := hdr w, i := fbv w 18 8, a := fbv w 12 6 }
/-- The word of format PR over its fixed bits. -/
def prWord (base : Nat) (f : PR) : Nat :=
  base + hdrBits f.h + 2 ^ 12 * f.a.toNat + 2 ^ 18 * f.i.toNat

/-! ### The encoder -/

/-- The length in bytes of an encoded instruction, 0 for an event (R61). -/
def Instr.len : Instr → Nat
  | .iaddC _ => 2
  | .isubC _ => 2
  | .iandC _ => 2
  | .iorC _ => 2
  | .ixorC _ => 2
  | .ishlC _ => 2
  | .ishrC _ => 2
  | .isarC _ => 2
  | .movC _ => 2
  | .addiC _ => 2
  | .imulC _ => 2
  | .faddC _ => 2
  | .fsubC _ => 2
  | .fmulC _ => 2
  | .fmaxC _ => 2
  | .fminC _ => 2
  | .iadd _ => 4
  | .isub _ => 4
  | .imul _ => 4
  | .imad _ => 4
  | .mulhiS _ => 4
  | .mulhiN _ => 4
  | .mulwS _ => 4
  | .mulwN _ => 4
  | .iand _ => 4
  | .ior _ => 4
  | .ixor _ => 4
  | .iandn _ => 4
  | .ishl _ => 4
  | .ishr _ => 4
  | .isar _ => 4
  | .irot _ => 4
  | .iminS _ => 4
  | .iminN _ => 4
  | .imaxS _ => 4
  | .imaxN _ => 4
  | .bfeS _ => 4
  | .bfeN _ => 4
  | .bfi _ => 4
  | .sel _ => 4
  | .iadd64 _ => 4
  | .isub64 _ => 4
  | .ishl64 _ => 4
  | .ishr64 _ => 4
  | .addi _ => 4
  | .shli _ => 4
  | .shri _ => 4
  | .sari _ => 4
  | .popc _ => 4
  | .clz _ => 4
  | .ctz _ => 4
  | .brev _ => 4
  | .ineg _ => 4
  | .inot _ => 4
  | .iabs _ => 4
  | .sextB8 _ => 4
  | .sextB16 _ => 4
  | .zextB8 _ => 4
  | .zextB16 _ => 4
  | .popc64 _ => 4
  | .clz64 _ => 4
  | .ineg64 _ => 4
  | .popcUniform _ => 4
  | .clzUniform _ => 4
  | .ctzUniform _ => 4
  | .brevUniform _ => 4
  | .inegUniform _ => 4
  | .inotUniform _ => 4
  | .iabsUniform _ => 4
  | .sextB8Uniform _ => 4
  | .sextB16Uniform _ => 4
  | .zextB8Uniform _ => 4
  | .zextB16Uniform _ => 4
  | .popc64Uniform _ => 4
  | .clz64Uniform _ => 4
  | .ineg64Uniform _ => 4
  | .movVV _ => 4
  | .movVS _ => 4
  | .movSS _ => 4
  | .movSV _ => 4
  | .movVSpecial _ => 4
  | .movSSpecial _ => 4
  | .movWW _ => 4
  | .movZZ _ => 4
  | .movPV _ => 4
  | .movVP _ => 4
  | .movQS _ => 4
  | .movSQ _ => 4
  | .movWZ _ => 4
  | .movi _ => 4
  | .moviH1 _ => 4
  | .moviH2 _ => 4
  | .moviUniform _ => 4
  | .moviH1Uniform _ => 4
  | .moviH2Uniform _ => 4
  | .iaddUniform _ => 4
  | .isubUniform _ => 4
  | .imulUniform _ => 4
  | .iadd64Uniform _ => 4
  | .iandUniform _ => 4
  | .iorUniform _ => 4
  | .ixorUniform _ => 4
  | .ishlUniform _ => 4
  | .addiUniform _ => 4
  | .shliUniform _ => 4
  | .shriUniform _ => 4
  | .addi64Uniform _ => 4
  | .setp _ => 4
  | .setpUniform _ => 4
  | .bra _ => 4
  | .braU _ => 4
  | .call _ => 4
  | .jmp _ => 4
  | .callr _ => 4
  | .ret _ => 4
  | .nop _ => 4
  | .exit _ => 4
  | .trap _ => 4
  | .prog _ => 4
  | .rand _ => 4
  | .randUniform _ => 4
  | .brk _ => 4
  | .adr _ => 4
  | .shflIdx _ => 4
  | .shflXor _ => 4
  | .shflUp _ => 4
  | .shflDown _ => 4
  | .voteAny _ => 4
  | .voteAnyUniform _ => 4
  | .voteAll _ => 4
  | .voteAllUniform _ => 4
  | .voteCount _ => 4
  | .voteCountUniform _ => 4
  | .voteBallot _ => 4
  | .voteBallotUniform _ => 4
  | .scanIncI32 _ => 4
  | .scanExcI32 _ => 4
  | .scanIncF32 _ => 4
  | .scanExcF32 _ => 4
  | .matchLead _ => 4
  | .matchRank _ => 4
  | .matchSumI32 _ => 4
  | .matchSumF32 _ => 4
  | .regroup _ => 4
  | .faddF32 _ => 4
  | .fsubF32 _ => 4
  | .fmulF32 _ => 4
  | .ffmaF32 _ => 4
  | .fminF32 _ => 4
  | .fmaxF32 _ => 4
  | .fdivF32 _ => 4
  | .fcpsgnF32 _ => 4
  | .faddF64 _ => 4
  | .fsubF64 _ => 4
  | .fmulF64 _ => 4
  | .ffmaF64 _ => 4
  | .fminF64 _ => 4
  | .fmaxF64 _ => 4
  | .fdivF64 _ => 4
  | .fcpsgnF64 _ => 4
  | .faddF16x2 _ => 4
  | .fsubF16x2 _ => 4
  | .fmulF16x2 _ => 4
  | .ffmaF16x2 _ => 4
  | .fminF16x2 _ => 4
  | .fmaxF16x2 _ => 4
  | .fsqrtF32 _ => 4
  | .fsqrtF64 _ => 4
  | .frcpF32 _ => 4
  | .frsqF32 _ => 4
  | .fex2F32 _ => 4
  | .flg2F32 _ => 4
  | .fsinF32 _ => 4
  | .fcosF32 _ => 4
  | .fabsF32 _ => 4
  | .fnegF32 _ => 4
  | .fabsF64 _ => 4
  | .fnegF64 _ => 4
  | .fclassF32 _ => 4
  | .fclassF64 _ => 4
  | .frintF32 _ => 4
  | .frintF64 _ => 4
  | .fsetpF32 _ => 4
  | .fsetpF64 _ => 4
  | .cvtF32F64 _ => 4
  | .cvtF64F32 _ => 4
  | .cvtF16F32 _ => 4
  | .cvtF32F16 _ => 4
  | .cvtBf16F32 _ => 4
  | .cvtF32Bf16 _ => 4
  | .cvtE4m3F32 _ => 4
  | .cvtE5m2F32 _ => 4
  | .cvtF32E4m3 _ => 4
  | .cvtF32E5m2 _ => 4
  | .cvtE2m1F32 _ => 4
  | .cvtF32E2m1 _ => 4
  | .cvtP2p8F32 _ => 4
  | .cvtF32P2p8 _ => 4
  | .cvtS32F32 _ => 4
  | .cvtN32F32 _ => 4
  | .cvtF32S32 _ => 4
  | .cvtF32N32 _ => 4
  | .cvtS32F64 _ => 4
  | .cvtF64S32 _ => 4
  | .cvtS64F64 _ => 4
  | .cvtF64S64 _ => 4
  | .cvtS8F32 _ => 4
  | .cvtS4F32 _ => 4
  | .cvtF32S8 _ => 4
  | .cvtF32S4 _ => 4
  | .cvtF16F64 _ => 4
  | .cvtE8m0F32 _ => 4
  | .cvtF32E8m0 _ => 4
  | .cvtSatF32F64 _ => 4
  | .cvtSatF16F32 _ => 4
  | .cvtSatBf16F32 _ => 4
  | .cvtSatE4m3F32 _ => 4
  | .cvtSatE5m2F32 _ => 4
  | .cvtSatE2m1F32 _ => 4
  | .cvtSatP2p8F32 _ => 4
  | .cvtSatS32F32 _ => 4
  | .cvtSatN32F32 _ => 4
  | .cvtSatF32S32 _ => 4
  | .cvtSatF32N32 _ => 4
  | .cvtSatS32F64 _ => 4
  | .cvtSatS64F64 _ => 4
  | .cvtSatF64S64 _ => 4
  | .cvtSatS8F32 _ => 4
  | .cvtSatS4F32 _ => 4
  | .cvtSatF16F64 _ => 4
  | .cvtSatE8m0F32 _ => 4
  | .mxscale _ => 4
  | .mxq _ => 4
  | .mxdq _ => 4
  | .rdfmt _ => 4
  | .wrfmt _ => 4
  | .rdfpm _ => 4
  | .wrfpm _ => 4
  | .rdfst _ => 4
  | .wrfst _ => 4
  | .clrfst _ => 4
  | .ldG _ => 4
  | .stG _ => 4
  | .ldS _ => 4
  | .stS _ => 4
  | .ldC _ => 4
  | .stC _ => 4
  | .atomAdd _ => 4
  | .atomMinS _ => 4
  | .atomMinN _ => 4
  | .atomMaxS _ => 4
  | .atomMaxN _ => 4
  | .atomAnd _ => 4
  | .atomOr _ => 4
  | .atomXor _ => 4
  | .atomExch _ => 4
  | .atomCas _ => 4
  | .atomAddF32 _ => 4
  | .atomAdd64 _ => 4
  | .atomExch64 _ => 4
  | .atomCas64 _ => 4
  | .atomLd _ => 4
  | .atomSt _ => 4
  | .redAdd _ => 4
  | .redAddF32 _ => 4
  | .redMinS _ => 4
  | .redMaxS _ => 4
  | .redAnd _ => 4
  | .redOr _ => 4
  | .redXor _ => 4
  | .redAdd64 _ => 4
  | .fence _ => 4
  | .barC _ => 4
  | .waitn _ => 4
  | .fetchw _ => 4
  | .launch _ => 4
  | .cp _ => 4
  | .ldUB32 _ => 4
  | .ldUB64 _ => 4
  | .waitc _ => 4
  | .mma _ => 4
  | .mzero _ => 4
  | .mldaS _ => 4
  | .mldaG _ => 4
  | .mstaS _ => 4
  | .mstaG _ => 4
  | .maddS _ => 4
  | .maddG _ => 4
  | .mrd _ => 4
  | .mscl _ => 4
  | .ttq _ => 4
  | .vld _ => 4
  | .vlds _ => 4
  | .vleaf _ => 4
  | .vst _ => 4
  | .vactClr _ => 4
  | .vactSet _ => 4
  | .vmarch _ => 4
  | .vins _ => 4
  | .vdel _ => 4
  | .halo _ => 4
  | .pload _ => 4
  | .pmode _ => 4
  | .pclamp _ => 4
  | .psweep _ => 4
  | .preadStates _ => 4
  | .preadCounts _ => 4
  | .preset _ => 4
  | .fins _ => 4
  | .resolve _ => 4
  | .resolveClr _ => 4
  | .lclear _ => 4
  | .rast _ => 4
  | .qpush _ => 4
  | .qpushTry _ => 4
  | .qpop _ => 4
  | .qpopTry _ => 4
  | .cflush _ => 4
  | .cwb _ => 4
  | .rdpr _ => 4
  | .wrpr _ => 4
  | .tret _ => 4
  | .tqpop _ => 4
  | .halt _ => 4
  | .resume _ => 4
  | .cswap _ => 4
  | .tlbinv _ => 4
  | .dbgh _ => 4
  | .dbgr _ => 4
  | .wdog _ => 4
  | .hint _ => 4
  | .catw _ => 4
  | .longResultReturn _ _ _ => 0
  | .asyncCompletion _ _ => 0
  | .powerTokenGrant _ => 0
  | .faultReportArrival _ _ => 0
  | .faultBatchDelivery _ => 0
  | .supervisorEngineFault _ => 0
  | .breakpointStop _ => 0
  | .waitcReread _ => 0
  | .cohortSwapOut _ => 0
  | .cohortSwapIn _ => 0
  | .cohortDrainComplete _ => 0
  | .fetchMailboxWrite _ => 0
  | .copyCommandComplete _ => 0
  | .copyFaultStop _ => 0
  | .rdmaAcknowledgement _ => 0
  | .rdmaRetry _ => 0
  | .networkTransferFailure _ => 0
  | .mmaStepComplete _ => 0
  | .mmaStepFaultStop _ => 0
  | .accumulatorCommandComplete _ => 0
  | .accumulatorFaultStop _ => 0
  | .tileTaskStart _ => 0
  | .tileTaskComplete _ => 0
  | .curatorLaneRetry _ _ => 0
  | .haloCommandComplete _ => 0
  | .haloFaultStop _ => 0
  | .peuriCommandStart _ => 0
  | .peuriCommandComplete _ => 0
  | .peuriLoadFault _ => 0
  | .ringCommandPerform _ => 0
  | .migrationMoveComplete _ => 0
  | .moveRecordExpiry _ => 0
  | .icacheFill _ => 0
  | .haltSettle _ => 0
  | .cellarExchangeComplete _ => 0
  | .cellarDrainComplete _ => 0
  | .cellarFillComplete _ => 0
  | .tlbinvComplete _ => 0
  | .cacheMaintenanceComplete _ _ => 0
  | .fenceComplete _ _ => 0
  | .launchBlockRead _ _ => 0
  | .watchdogExpiry _ => 0
  | .faultStallExpiry _ => 0
  | .supervisorWatchdogExpiry _ => 0
  | .storageUncorrectableError _ _ => 0
  | .hbmUncorrectableError _ _ => 0
  | .cohortClaim _ _ => 0
  | .cohortPlacement _ _ => 0
  | .teamRetire _ => 0
  | .gridRetire _ => 0
  | .gend _ _ => 0
  | .presContinue _ _ => 0
  | .presPerformHeld _ _ => 0
  | .replayAsid _ _ => 0
  | .replayAll _ => 0
  | .reginvAsid _ _ => 0
  | .reginvAll _ => 0
  | .trapQueueConfigWrite _ _ _ => 0
  | .causalTrialStart _ _ => 0
  | .causalTrialEnd _ _ => 0
  | .progressCounterClear _ _ => 0
  | .clockLockRequest _ _ => 0
  | .clockLockRelease _ _ => 0
  | .clockLockGrant _ => 0
  | .moduleReset => 0
  | .hbmTrainingComplete _ _ => 0
  | .fullServiceEntry => 0
  | .firmwareLoad => 0
  | .firmwareVerifyComplete => 0
  | .partitionEnable _ => 0
  | .partitionReset _ => 0
  | .partitionDisable _ => 0
  | .queueDoorbell _ _ _ => 0
  | .queueEnable _ _ _ => 0
  | .queueDisable _ _ _ => 0
  | .queueLaunch _ _ => 0
  | .queueWait _ _ => 0
  | .queueWaitReread _ _ => 0
  | .queueSignal _ _ => 0
  | .queueNop _ _ => 0
  | .allotWrite _ _ => 0
  | .migrationPushRequest _ _ => 0
  | .pwrcapWrite _ => 0
  | .pscmdWrite _ _ => 0
  | .linkcmdWrite _ _ => 0
  | .sequencerLinkApply => 0
  | .sequencerFrequencyApply => 0
  | .linkRetrainComplete => 0
  | .clockChangeComplete => 0
  | .thermalAlert _ => 0
  | .thermalExamination => 0
  | .fallbackExit _ => 0
  | .portLinkChange _ _ => 0
  | .inboundRdmaWrite _ _ _ _ _ => 0
  | .hostMemoryAccess _ _ _ => 0
  | .spdmGetVersion => 0
  | .spdmGetCapabilities => 0
  | .spdmNegotiateAlgorithms _ => 0
  | .spdmGetDigests => 0
  | .spdmGetCertificate _ _ _ => 0
  | .spdmChallenge _ _ => 0
  | .spdmGetMeasurements _ _ => 0
  | .registerWrite _ _ => 0
  | .retiredWrite _ _ => 0
  | .hostLinkTraining _ _ => 0

/-- The encoding of an instruction as a number, its first halfword in the low bits; 0 for an event. -/
def Instr.word : Instr → Nat
  | .iaddC f => c16Word 0x0000 f
  | .isubC f => c16Word 0x0004 f
  | .iandC f => c16Word 0x0008 f
  | .iorC f => c16Word 0x000C f
  | .ixorC f => c16Word 0x0010 f
  | .ishlC f => c16Word 0x0014 f
  | .ishrC f => c16Word 0x0018 f
  | .isarC f => c16Word 0x001C f
  | .movC f => c16Word 0x0020 f
  | .addiC f => c16iWord 0x0024 f
  | .imulC f => c16Word 0x0028 f
  | .faddC f => c16Word 0x002C f
  | .fsubC f => c16Word 0x0030 f
  | .fmulC f => c16Word 0x0034 f
  | .fmaxC f => c16Word 0x0038 f
  | .fminC f => c16Word 0x003C f
  | .iadd f => rrWord 0x00000001 f
  | .isub f => rrWord 0x40000001 f
  | .imul f => rrWord 0x80000001 f
  | .imad f => rrWord 0xC0000001 f
  | .mulhiS f => rrWord 0x00000005 f
  | .mulhiN f => rrWord 0x40000005 f
  | .mulwS f => rrWord 0x80000005 f
  | .mulwN f => rrWord 0xC0000005 f
  | .iand f => rrWord 0x00000009 f
  | .ior f => rrWord 0x40000009 f
  | .ixor f => rrWord 0x80000009 f
  | .iandn f => rrWord 0xC0000009 f
  | .ishl f => rrWord 0x0000000D f
  | .ishr f => rrWord 0x4000000D f
  | .isar f => rrWord 0x8000000D f
  | .irot f => rrWord 0xC000000D f
  | .iminS f => rrWord 0x00000011 f
  | .iminN f => rrWord 0x40000011 f
  | .imaxS f => rrWord 0x80000011 f
  | .imaxN f => rrWord 0xC0000011 f
  | .bfeS f => rrWord 0x00000015 f
  | .bfeN f => rrWord 0x40000015 f
  | .bfi f => rrWord 0x80000015 f
  | .sel f => rrWord 0xC0000015 f
  | .iadd64 f => rrWord 0x00000019 f
  | .isub64 f => rrWord 0x40000019 f
  | .ishl64 f => rrWord 0x80000019 f
  | .ishr64 f => rrWord 0xC0000019 f
  | .addi f => riWord 0x0000001D f
  | .shli f => riWord 0x4000001D f
  | .shri f => riWord 0x8000001D f
  | .sari f => riWord 0xC000001D f
  | .popc f => unWord 0x00000021 f
  | .clz f => unWord 0x01000021 f
  | .ctz f => unWord 0x02000021 f
  | .brev f => unWord 0x03000021 f
  | .ineg f => unWord 0x04000021 f
  | .inot f => unWord 0x05000021 f
  | .iabs f => unWord 0x06000021 f
  | .sextB8 f => unWord 0x07000021 f
  | .sextB16 f => unWord 0x08000021 f
  | .zextB8 f => unWord 0x09000021 f
  | .zextB16 f => unWord 0x0A000021 f
  | .popc64 f => unWord 0x0B000021 f
  | .clz64 f => unWord 0x0C000021 f
  | .ineg64 f => unWord 0x0D000021 f
  | .popcUniform f => unWord 0x40000021 f
  | .clzUniform f => unWord 0x41000021 f
  | .ctzUniform f => unWord 0x42000021 f
  | .brevUniform f => unWord 0x43000021 f
  | .inegUniform f => unWord 0x44000021 f
  | .inotUniform f => unWord 0x45000021 f
  | .iabsUniform f => unWord 0x46000021 f
  | .sextB8Uniform f => unWord 0x47000021 f
  | .sextB16Uniform f => unWord 0x48000021 f
  | .zextB8Uniform f => unWord 0x49000021 f
  | .zextB16Uniform f => unWord 0x4A000021 f
  | .popc64Uniform f => unWord 0x4B000021 f
  | .clz64Uniform f => unWord 0x4C000021 f
  | .ineg64Uniform f => unWord 0x4D000021 f
  | .movVV f => unWord 0x00000025 f
  | .movVS f => unWord 0x10000025 f
  | .movSS f => unWord 0x20000025 f
  | .movSV f => unWord 0x30000025 f
  | .movVSpecial f => unWord 0x40000025 f
  | .movSSpecial f => unWord 0x50000025 f
  | .movWW f => unWord 0x60000025 f
  | .movZZ f => unWord 0x70000025 f
  | .movPV f => unWord 0x80000025 f
  | .movVP f => unWord 0x90000025 f
  | .movQS f => unWord 0xA0000025 f
  | .movSQ f => unWord 0xB0000025 f
  | .movWZ f => unWord 0xC0000025 f
  | .movi f => liWord 0x00000029 f
  | .moviH1 f => liWord 0x00040029 f
  | .moviH2 f => li8Word 0x00080029 f
  | .moviUniform f => liWord 0x0000002D f
  | .moviH1Uniform f => liWord 0x0004002D f
  | .moviH2Uniform f => li8Word 0x0008002D f
  | .iaddUniform f => rrWord 0x00000031 f
  | .isubUniform f => rrWord 0x40000031 f
  | .imulUniform f => rrWord 0x80000031 f
  | .iadd64Uniform f => rrWord 0xC0000031 f
  | .iandUniform f => rrWord 0x00000035 f
  | .iorUniform f => rrWord 0x40000035 f
  | .ixorUniform f => rrWord 0x80000035 f
  | .ishlUniform f => rrWord 0xC0000035 f
  | .addiUniform f => riWord 0x00000039 f
  | .shliUniform f => riWord 0x40000039 f
  | .shriUniform f => riWord 0x80000039 f
  | .addi64Uniform f => riWord 0xC0000039 f
  | .setp f => pcWord 0x0000003D f
  | .setpUniform f => pcWord 0x0100003D f
  | .bra f => brWord 0x00000041 f
  | .braU f => brWord 0x00000045 f
  | .call f => clWord 0x00000049 f
  | .jmp f => uaWord 0x0000004D f
  | .callr f => unWord 0x4000004D f
  | .ret f => uaWord 0x8000004D f
  | .nop f => hdrWord 0x00000051 f
  | .exit f => hdrWord 0x04000051 f
  | .trap f => ctiWord 0x08000051 f
  | .prog f => ctpWord 0x0C000051 f
  | .rand f => udWord 0x10000051 f
  | .randUniform f => udWord 0x14000051 f
  | .brk f => ctiWord 0x18000051 f
  | .adr f => clWord 0x00000055 f
  | .shflIdx f => rrWord 0x00000061 f
  | .shflXor f => rrWord 0x40000061 f
  | .shflUp f => rrWord 0x80000061 f
  | .shflDown f => rrWord 0xC0000061 f
  | .voteAny f => vtpWord 0x00000065 f
  | .voteAnyUniform f => vtpWord 0x00800065 f
  | .voteAll f => vtpWord 0x40000065 f
  | .voteAllUniform f => vtpWord 0x40800065 f
  | .voteCount f => vtrWord 0x80000065 f
  | .voteCountUniform f => vtrWord 0x80800065 f
  | .voteBallot f => vtrWord 0xC0000065 f
  | .voteBallotUniform f => vtrWord 0xC0800065 f
  | .scanIncI32 f => unWord 0x00000069 f
  | .scanExcI32 f => unWord 0x40000069 f
  | .scanIncF32 f => unWord 0x80000069 f
  | .scanExcF32 f => unWord 0xC0000069 f
  | .matchLead f => mtWord 0x0000006D f
  | .matchRank f => mtWord 0x4000006D f
  | .matchSumI32 f => mtWord 0x8000006D f
  | .matchSumF32 f => mtWord 0xC000006D f
  | .regroup f => rgWord 0x00000771 f
  | .faddF32 f => rrWord 0x00000081 f
  | .fsubF32 f => rrWord 0x40000081 f
  | .fmulF32 f => rrWord 0x80000081 f
  | .ffmaF32 f => rrWord 0xC0000081 f
  | .fminF32 f => rrWord 0x00000085 f
  | .fmaxF32 f => rrWord 0x40000085 f
  | .fdivF32 f => rrWord 0x80000085 f
  | .fcpsgnF32 f => rrWord 0xC0000085 f
  | .faddF64 f => rrWord 0x00000089 f
  | .fsubF64 f => rrWord 0x40000089 f
  | .fmulF64 f => rrWord 0x80000089 f
  | .ffmaF64 f => rrWord 0xC0000089 f
  | .fminF64 f => rrWord 0x0000008D f
  | .fmaxF64 f => rrWord 0x4000008D f
  | .fdivF64 f => rrWord 0x8000008D f
  | .fcpsgnF64 f => rrWord 0xC000008D f
  | .faddF16x2 f => rrWord 0x00000091 f
  | .fsubF16x2 f => rrWord 0x40000091 f
  | .fmulF16x2 f => rrWord 0x80000091 f
  | .ffmaF16x2 f => rrWord 0xC0000091 f
  | .fminF16x2 f => rrWord 0x00000095 f
  | .fmaxF16x2 f => rrWord 0x40000095 f
  | .fsqrtF32 f => unWord 0x00000099 f
  | .fsqrtF64 f => unWord 0x01000099 f
  | .frcpF32 f => unWord 0x02000099 f
  | .frsqF32 f => unWord 0x03000099 f
  | .fex2F32 f => unWord 0x04000099 f
  | .flg2F32 f => unWord 0x05000099 f
  | .fsinF32 f => unWord 0x06000099 f
  | .fcosF32 f => unWord 0x07000099 f
  | .fabsF32 f => unWord 0x08000099 f
  | .fnegF32 f => unWord 0x09000099 f
  | .fabsF64 f => unWord 0x0A000099 f
  | .fnegF64 f => unWord 0x0B000099 f
  | .fclassF32 f => unWord 0x0C000099 f
  | .fclassF64 f => unWord 0x0D000099 f
  | .frintF32 f => unWord 0x0E000099 f
  | .frintF64 f => unWord 0x0F000099 f
  | .fsetpF32 f => pcWord 0x0000009D f
  | .fsetpF64 f => pcWord 0x000000A1 f
  | .cvtF32F64 f => cvWord 0x000000A5 f
  | .cvtF64F32 f => unWord 0x010000A5 f
  | .cvtF16F32 f => cvWord 0x020000A5 f
  | .cvtF32F16 f => unWord 0x030000A5 f
  | .cvtBf16F32 f => cvWord 0x040000A5 f
  | .cvtF32Bf16 f => unWord 0x050000A5 f
  | .cvtE4m3F32 f => cvWord 0x060000A5 f
  | .cvtE5m2F32 f => cvWord 0x070000A5 f
  | .cvtF32E4m3 f => unWord 0x080000A5 f
  | .cvtF32E5m2 f => unWord 0x090000A5 f
  | .cvtE2m1F32 f => cvWord 0x0A0000A5 f
  | .cvtF32E2m1 f => unWord 0x0B0000A5 f
  | .cvtP2p8F32 f => cvWord 0x0C0000A5 f
  | .cvtF32P2p8 f => unWord 0x0D0000A5 f
  | .cvtS32F32 f => cvWord 0x0E0000A5 f
  | .cvtN32F32 f => cvWord 0x0F0000A5 f
  | .cvtF32S32 f => cvWord 0x100000A5 f
  | .cvtF32N32 f => cvWord 0x110000A5 f
  | .cvtS32F64 f => cvWord 0x120000A5 f
  | .cvtF64S32 f => unWord 0x130000A5 f
  | .cvtS64F64 f => cvWord 0x140000A5 f
  | .cvtF64S64 f => cvWord 0x150000A5 f
  | .cvtS8F32 f => cvWord 0x160000A5 f
  | .cvtS4F32 f => cvWord 0x170000A5 f
  | .cvtF32S8 f => unWord 0x180000A5 f
  | .cvtF32S4 f => unWord 0x190000A5 f
  | .cvtF16F64 f => cvWord 0x1A0000A5 f
  | .cvtE8m0F32 f => cvWord 0x1B0000A5 f
  | .cvtF32E8m0 f => unWord 0x1C0000A5 f
  | .cvtSatF32F64 f => cvWord 0x000000A9 f
  | .cvtSatF16F32 f => cvWord 0x020000A9 f
  | .cvtSatBf16F32 f => cvWord 0x040000A9 f
  | .cvtSatE4m3F32 f => cvWord 0x060000A9 f
  | .cvtSatE5m2F32 f => cvWord 0x070000A9 f
  | .cvtSatE2m1F32 f => cvWord 0x0A0000A9 f
  | .cvtSatP2p8F32 f => cvWord 0x0C0000A9 f
  | .cvtSatS32F32 f => cvWord 0x0E0000A9 f
  | .cvtSatN32F32 f => cvWord 0x0F0000A9 f
  | .cvtSatF32S32 f => cvWord 0x100000A9 f
  | .cvtSatF32N32 f => cvWord 0x110000A9 f
  | .cvtSatS32F64 f => cvWord 0x120000A9 f
  | .cvtSatS64F64 f => cvWord 0x140000A9 f
  | .cvtSatF64S64 f => cvWord 0x150000A9 f
  | .cvtSatS8F32 f => cvWord 0x160000A9 f
  | .cvtSatS4F32 f => cvWord 0x170000A9 f
  | .cvtSatF16F64 f => cvWord 0x1A0000A9 f
  | .cvtSatE8m0F32 f => cvWord 0x1B0000A9 f
  | .mxscale f => rrWord 0x000000AD f
  | .mxq f => rrWord 0x400000AD f
  | .mxdq f => rrWord 0x800000AD f
  | .rdfmt f => udWord 0x000000B1 f
  | .wrfmt f => uaWord 0x100000B1 f
  | .rdfpm f => udWord 0x200000B1 f
  | .wrfpm f => uaWord 0x300000B1 f
  | .rdfst f => udWord 0x400000B1 f
  | .wrfst f => uaWord 0x500000B1 f
  | .clrfst f => uaWord 0x600000B1 f
  | .ldG f => mmWord 0x000000C1 f
  | .stG f => mmWord 0x000000C5 f
  | .ldS f => msWord 0x000000C9 f
  | .stS f => msWord 0x400000C9 f
  | .ldC f => msWord 0x800000C9 f
  | .stC f => msWord 0xC00000C9 f
  | .atomAdd f => atfWord 0x000000CD f
  | .atomMinS f => atfWord 0x010000CD f
  | .atomMinN f => atfWord 0x020000CD f
  | .atomMaxS f => atfWord 0x030000CD f
  | .atomMaxN f => atfWord 0x040000CD f
  | .atomAnd f => atfWord 0x050000CD f
  | .atomOr f => atfWord 0x060000CD f
  | .atomXor f => atfWord 0x070000CD f
  | .atomExch f => atfWord 0x000000D1 f
  | .atomCas f => atfWord 0x010000D1 f
  | .atomAddF32 f => atfWord 0x020000D1 f
  | .atomAdd64 f => atfWord 0x030000D1 f
  | .atomExch64 f => atfWord 0x040000D1 f
  | .atomCas64 f => atfWord 0x050000D1 f
  | .atomLd f => atfWord 0x060000D1 f
  | .atomSt f => atfWord 0x070000D1 f
  | .redAdd f => atfWord 0x000000D5 f
  | .redAddF32 f => atfWord 0x010000D5 f
  | .redMinS f => atfWord 0x020000D5 f
  | .redMaxS f => atfWord 0x030000D5 f
  | .redAnd f => atfWord 0x040000D5 f
  | .redOr f => atfWord 0x050000D5 f
  | .redXor f => atfWord 0x060000D5 f
  | .redAdd64 f => atfWord 0x070000D5 f
  | .fence f => fncWord 0x000000D9 f
  | .barC f => barWord 0x100000D9 f
  | .waitn f => wnWord 0x200000D9 f
  | .fetchw f => hdrWord 0x300000D9 f
  | .launch f => saWord 0x400000D9 f
  | .cp f => saWord 0x500000D9 f
  | .ldUB32 f => lduWord 0x600000D9 f
  | .ldUB64 f => lduWord 0x700000D9 f
  | .waitc f => wcWord 0x000000DD f
  | .mma f => maWord 0x000000E1 f
  | .mzero f => ac0Word 0x000000E5 f
  | .mldaS f => acWord 0x100000E5 f
  | .mldaG f => acWord 0x200000E5 f
  | .mstaS f => acWord 0x300000E5 f
  | .mstaG f => acWord 0x400000E5 f
  | .maddS f => acWord 0x500000E5 f
  | .maddG f => acWord 0x600000E5 f
  | .mrd f => acWord 0x700000E5 f
  | .mscl f => sclWord 0x000000E9 f
  | .ttq f => uaWord 0x100000E9 f
  | .vld f => unWord 0x000000F1 f
  | .vlds f => vsWord 0x100000F1 f
  | .vleaf f => unWord 0x200000F1 f
  | .vst f => unWord 0x300000F1 f
  | .vactClr f => unWord 0x400000F1 f
  | .vactSet f => unWord 0x410000F1 f
  | .vmarch f => unWord 0x500000F1 f
  | .vins f => unWord 0x600000F1 f
  | .vdel f => unWord 0x700000F1 f
  | .halo f => udWord 0x800000F1 f
  | .pload f => uaWord 0x000000F5 f
  | .pmode f => ptWord 0x100000F5 f
  | .pclamp f => uaWord 0x200000F5 f
  | .psweep f => uaWord 0x300000F5 f
  | .preadStates f => unWord 0x400000F5 f
  | .preadCounts f => unWord 0x410000F5 f
  | .preset f => ptWord 0x500000F5 f
  | .fins f => unWord 0x000000F9 f
  | .resolve f => unWord 0x100000F9 f
  | .resolveClr f => unWord 0x110000F9 f
  | .lclear f => unWord 0x200000F9 f
  | .rast f => unWord 0x300000F9 f
  | .qpush f => uaWord 0x400000F9 f
  | .qpushTry f => unWord 0x410000F9 f
  | .qpop f => uaWord 0x500000F9 f
  | .qpopTry f => unWord 0x510000F9 f
  | .cflush f => saWord 0x000000FD f
  | .cwb f => saWord 0x040000FD f
  | .rdpr f => prWord 0x400000FD f
  | .wrpr f => prWord 0x440000FD f
  | .tret f => hdrWord 0x480000FD f
  | .tqpop f => saWord 0x4C0000FD f
  | .halt f => saWord 0x500000FD f
  | .resume f => saWord 0x540000FD f
  | .cswap f => saWord 0x580000FD f
  | .tlbinv f => saWord 0x5C0000FD f
  | .dbgh f => saWord 0x600000FD f
  | .dbgr f => saWord 0x640000FD f
  | .wdog f => hdrWord 0x680000FD f
  | .hint f => saWord 0x6C0000FD f
  | .catw f => saWord 0x700000FD f
  | .longResultReturn _ _ _ => 0
  | .asyncCompletion _ _ => 0
  | .powerTokenGrant _ => 0
  | .faultReportArrival _ _ => 0
  | .faultBatchDelivery _ => 0
  | .supervisorEngineFault _ => 0
  | .breakpointStop _ => 0
  | .waitcReread _ => 0
  | .cohortSwapOut _ => 0
  | .cohortSwapIn _ => 0
  | .cohortDrainComplete _ => 0
  | .fetchMailboxWrite _ => 0
  | .copyCommandComplete _ => 0
  | .copyFaultStop _ => 0
  | .rdmaAcknowledgement _ => 0
  | .rdmaRetry _ => 0
  | .networkTransferFailure _ => 0
  | .mmaStepComplete _ => 0
  | .mmaStepFaultStop _ => 0
  | .accumulatorCommandComplete _ => 0
  | .accumulatorFaultStop _ => 0
  | .tileTaskStart _ => 0
  | .tileTaskComplete _ => 0
  | .curatorLaneRetry _ _ => 0
  | .haloCommandComplete _ => 0
  | .haloFaultStop _ => 0
  | .peuriCommandStart _ => 0
  | .peuriCommandComplete _ => 0
  | .peuriLoadFault _ => 0
  | .ringCommandPerform _ => 0
  | .migrationMoveComplete _ => 0
  | .moveRecordExpiry _ => 0
  | .icacheFill _ => 0
  | .haltSettle _ => 0
  | .cellarExchangeComplete _ => 0
  | .cellarDrainComplete _ => 0
  | .cellarFillComplete _ => 0
  | .tlbinvComplete _ => 0
  | .cacheMaintenanceComplete _ _ => 0
  | .fenceComplete _ _ => 0
  | .launchBlockRead _ _ => 0
  | .watchdogExpiry _ => 0
  | .faultStallExpiry _ => 0
  | .supervisorWatchdogExpiry _ => 0
  | .storageUncorrectableError _ _ => 0
  | .hbmUncorrectableError _ _ => 0
  | .cohortClaim _ _ => 0
  | .cohortPlacement _ _ => 0
  | .teamRetire _ => 0
  | .gridRetire _ => 0
  | .gend _ _ => 0
  | .presContinue _ _ => 0
  | .presPerformHeld _ _ => 0
  | .replayAsid _ _ => 0
  | .replayAll _ => 0
  | .reginvAsid _ _ => 0
  | .reginvAll _ => 0
  | .trapQueueConfigWrite _ _ _ => 0
  | .causalTrialStart _ _ => 0
  | .causalTrialEnd _ _ => 0
  | .progressCounterClear _ _ => 0
  | .clockLockRequest _ _ => 0
  | .clockLockRelease _ _ => 0
  | .clockLockGrant _ => 0
  | .moduleReset => 0
  | .hbmTrainingComplete _ _ => 0
  | .fullServiceEntry => 0
  | .firmwareLoad => 0
  | .firmwareVerifyComplete => 0
  | .partitionEnable _ => 0
  | .partitionReset _ => 0
  | .partitionDisable _ => 0
  | .queueDoorbell _ _ _ => 0
  | .queueEnable _ _ _ => 0
  | .queueDisable _ _ _ => 0
  | .queueLaunch _ _ => 0
  | .queueWait _ _ => 0
  | .queueWaitReread _ _ => 0
  | .queueSignal _ _ => 0
  | .queueNop _ _ => 0
  | .allotWrite _ _ => 0
  | .migrationPushRequest _ _ => 0
  | .pwrcapWrite _ => 0
  | .pscmdWrite _ _ => 0
  | .linkcmdWrite _ _ => 0
  | .sequencerLinkApply => 0
  | .sequencerFrequencyApply => 0
  | .linkRetrainComplete => 0
  | .clockChangeComplete => 0
  | .thermalAlert _ => 0
  | .thermalExamination => 0
  | .fallbackExit _ => 0
  | .portLinkChange _ _ => 0
  | .inboundRdmaWrite _ _ _ _ _ => 0
  | .hostMemoryAccess _ _ _ => 0
  | .spdmGetVersion => 0
  | .spdmGetCapabilities => 0
  | .spdmNegotiateAlgorithms _ => 0
  | .spdmGetDigests => 0
  | .spdmGetCertificate _ _ _ => 0
  | .spdmChallenge _ _ => 0
  | .spdmGetMeasurements _ _ => 0
  | .registerWrite _ _ => 0
  | .retiredWrite _ _ => 0
  | .hostLinkTraining _ _ => 0

/-- The bytes of an instruction in memory: little-endian, lowest address first (00 R1, R99). -/
def encode (i : Instr) : List Byte :=
  (List.range i.len).map fun k => BitVec.ofNat 8 (i.word / 256 ^ k)

/-! ### The decoder

The compiler cannot build a value of a constructor numbered above 244 that has fields, and the opcode table has 437
rows; the definitions below are therefore marked noncomputable. Lean's kernel evaluates them as any other. -/

noncomputable section

/-- What the function bits of a word say: an instruction, an unassigned function (subcode 0), or a reserved value of a
selecting field (subcode 1), both of R86. -/
inductive RawDecode where
  | instr (i : Instr)
  | unassigned
  | reserved
  deriving DecidableEq, Repr

/-- The sixteen 16-bit operations by op (R62). -/
def decodeShort (w : Nat) : Instr :=
  match fld w 2 4 with
  | 0 => .iaddC (c16 w)
  | 1 => .isubC (c16 w)
  | 2 => .iandC (c16 w)
  | 3 => .iorC (c16 w)
  | 4 => .ixorC (c16 w)
  | 5 => .ishlC (c16 w)
  | 6 => .ishrC (c16 w)
  | 7 => .isarC (c16 w)
  | 8 => .movC (c16 w)
  | 9 => .addiC (c16i w)
  | 10 => .imulC (c16 w)
  | 11 => .faddC (c16 w)
  | 12 => .fsubC (c16 w)
  | 13 => .fmulC (c16 w)
  | 14 => .fmaxC (c16 w)
  | _ => .fminC (c16 w)

/-- Major 0x00 (R70). -/
def decode00 (w : Nat) : RawDecode :=
  match fld w 30 2 with
  | 0 => .instr (.iadd (rr w))
  | 1 => .instr (.isub (rr w))
  | 2 => .instr (.imul (rr w))
  | 3 => .instr (.imad (rr w))
  | _ => .unassigned

/-- Major 0x01 (R70). -/
def decode01 (w : Nat) : RawDecode :=
  match fld w 30 2 with
  | 0 => .instr (.mulhiS (rr w))
  | 1 => .instr (.mulhiN (rr w))
  | 2 => .instr (.mulwS (rr w))
  | 3 => .instr (.mulwN (rr w))
  | _ => .unassigned

/-- Major 0x02 (R70). -/
def decode02 (w : Nat) : RawDecode :=
  match fld w 30 2 with
  | 0 => .instr (.iand (rr w))
  | 1 => .instr (.ior (rr w))
  | 2 => .instr (.ixor (rr w))
  | 3 => .instr (.iandn (rr w))
  | _ => .unassigned

/-- Major 0x03 (R70). -/
def decode03 (w : Nat) : RawDecode :=
  match fld w 30 2 with
  | 0 => .instr (.ishl (rr w))
  | 1 => .instr (.ishr (rr w))
  | 2 => .instr (.isar (rr w))
  | 3 => .instr (.irot (rr w))
  | _ => .unassigned

/-- Major 0x04 (R70). -/
def decode04 (w : Nat) : RawDecode :=
  match fld w 30 2 with
  | 0 => .instr (.iminS (rr w))
  | 1 => .instr (.iminN (rr w))
  | 2 => .instr (.imaxS (rr w))
  | 3 => .instr (.imaxN (rr w))
  | _ => .unassigned

/-- Major 0x05 (R70). -/
def decode05 (w : Nat) : RawDecode :=
  match fld w 30 2 with
  | 0 => .instr (.bfeS (rr w))
  | 1 => .instr (.bfeN (rr w))
  | 2 => .instr (.bfi (rr w))
  | 3 => .instr (.sel (rr w))
  | _ => .unassigned

/-- Major 0x06 (R70). -/
def decode06 (w : Nat) : RawDecode :=
  match fld w 30 2 with
  | 0 => .instr (.iadd64 (rr w))
  | 1 => .instr (.isub64 (rr w))
  | 2 => .instr (.ishl64 (rr w))
  | 3 => .instr (.ishr64 (rr w))
  | _ => .unassigned

/-- Major 0x07 (R70). -/
def decode07 (w : Nat) : RawDecode :=
  match fld w 30 2 with
  | 0 => .instr (.addi (ri w))
  | 1 => .instr (.shli (ri w))
  | 2 => .instr (.shri (ri w))
  | 3 => .instr (.sari (ri w))
  | _ => .unassigned

/-- Major 0x08 (R70). -/
def decode08 (w : Nat) : RawDecode :=
  match fld w 30 2, fld w 24 6 with
  | 0, 0 => .instr (.popc (un w))
  | 0, 1 => .instr (.clz (un w))
  | 0, 2 => .instr (.ctz (un w))
  | 0, 3 => .instr (.brev (un w))
  | 0, 4 => .instr (.ineg (un w))
  | 0, 5 => .instr (.inot (un w))
  | 0, 6 => .instr (.iabs (un w))
  | 0, 7 => .instr (.sextB8 (un w))
  | 0, 8 => .instr (.sextB16 (un w))
  | 0, 9 => .instr (.zextB8 (un w))
  | 0, 10 => .instr (.zextB16 (un w))
  | 0, 11 => .instr (.popc64 (un w))
  | 0, 12 => .instr (.clz64 (un w))
  | 0, 13 => .instr (.ineg64 (un w))
  | 1, 0 => .instr (.popcUniform (un w))
  | 1, 1 => .instr (.clzUniform (un w))
  | 1, 2 => .instr (.ctzUniform (un w))
  | 1, 3 => .instr (.brevUniform (un w))
  | 1, 4 => .instr (.inegUniform (un w))
  | 1, 5 => .instr (.inotUniform (un w))
  | 1, 6 => .instr (.iabsUniform (un w))
  | 1, 7 => .instr (.sextB8Uniform (un w))
  | 1, 8 => .instr (.sextB16Uniform (un w))
  | 1, 9 => .instr (.zextB8Uniform (un w))
  | 1, 10 => .instr (.zextB16Uniform (un w))
  | 1, 11 => .instr (.popc64Uniform (un w))
  | 1, 12 => .instr (.clz64Uniform (un w))
  | 1, 13 => .instr (.ineg64Uniform (un w))
  | _, _ => .unassigned

/-- Major 0x09 (R70). -/
def decode09 (w : Nat) : RawDecode :=
  match fld w 28 4 with
  | 0 => .instr (.movVV (un w))
  | 1 => .instr (.movVS (un w))
  | 2 => .instr (.movSS (un w))
  | 3 => .instr (.movSV (un w))
  | 4 => .instr (.movVSpecial (un w))
  | 5 => .instr (.movSSpecial (un w))
  | 6 => .instr (.movWW (un w))
  | 7 => .instr (.movZZ (un w))
  | 8 => .instr (.movPV (un w))
  | 9 => .instr (.movVP (un w))
  | 10 => .instr (.movQS (un w))
  | 11 => .instr (.movSQ (un w))
  | 12 => .instr (.movWZ (un w))
  | _ => .unassigned

/-- Major 0x0A (R70). -/
def decode0A (w : Nat) : RawDecode :=
  match fld w 18 2 with
  | 0 => .instr (.movi (li w))
  | 1 => .instr (.moviH1 (li w))
  | 2 => .instr (.moviH2 (li8 w))
  | _ => .reserved

/-- Major 0x0B (R70). -/
def decode0B (w : Nat) : RawDecode :=
  match fld w 18 2 with
  | 0 => .instr (.moviUniform (li w))
  | 1 => .instr (.moviH1Uniform (li w))
  | 2 => .instr (.moviH2Uniform (li8 w))
  | _ => .reserved

/-- Major 0x0C (R70). -/
def decode0C (w : Nat) : RawDecode :=
  match fld w 30 2 with
  | 0 => .instr (.iaddUniform (rr w))
  | 1 => .instr (.isubUniform (rr w))
  | 2 => .instr (.imulUniform (rr w))
  | 3 => .instr (.iadd64Uniform (rr w))
  | _ => .unassigned

/-- Major 0x0D (R70). -/
def decode0D (w : Nat) : RawDecode :=
  match fld w 30 2 with
  | 0 => .instr (.iandUniform (rr w))
  | 1 => .instr (.iorUniform (rr w))
  | 2 => .instr (.ixorUniform (rr w))
  | 3 => .instr (.ishlUniform (rr w))
  | _ => .unassigned

/-- Major 0x0E (R70). -/
def decode0E (w : Nat) : RawDecode :=
  match fld w 30 2 with
  | 0 => .instr (.addiUniform (ri w))
  | 1 => .instr (.shliUniform (ri w))
  | 2 => .instr (.shriUniform (ri w))
  | 3 => .instr (.addi64Uniform (ri w))
  | _ => .unassigned

/-- Major 0x0F (R70). -/
def decode0F (w : Nat) : RawDecode :=
  match fld w 24 1 with
  | 0 => .instr (.setp (pc w))
  | 1 => .instr (.setpUniform (pc w))
  | _ => .unassigned

/-- Major 0x10 (R70). -/
def decode10 (w : Nat) : RawDecode :=
  .instr (.bra (br w))

/-- Major 0x11 (R70). -/
def decode11 (w : Nat) : RawDecode :=
  .instr (.braU (br w))

/-- Major 0x12 (R70). -/
def decode12 (w : Nat) : RawDecode :=
  .instr (.call (cl w))

/-- Major 0x13 (R70). -/
def decode13 (w : Nat) : RawDecode :=
  match fld w 30 2 with
  | 0 => .instr (.jmp (ua w))
  | 1 => .instr (.callr (un w))
  | 2 => .instr (.ret (ua w))
  | _ => .unassigned

/-- Major 0x14 (R70). -/
def decode14 (w : Nat) : RawDecode :=
  match fld w 26 6 with
  | 0 => .instr (.nop (hdr w))
  | 1 => .instr (.exit (hdr w))
  | 2 => .instr (.trap (cti w))
  | 3 => .instr (.prog (ctp w))
  | 4 => .instr (.rand (ud w))
  | 5 => .instr (.randUniform (ud w))
  | 6 => .instr (.brk (cti w))
  | _ => .unassigned

/-- Major 0x15 (R70). -/
def decode15 (w : Nat) : RawDecode :=
  .instr (.adr (cl w))

/-- Major 0x18 (R70). -/
def decode18 (w : Nat) : RawDecode :=
  match fld w 30 2 with
  | 0 => .instr (.shflIdx (rr w))
  | 1 => .instr (.shflXor (rr w))
  | 2 => .instr (.shflUp (rr w))
  | 3 => .instr (.shflDown (rr w))
  | _ => .unassigned

/-- Major 0x19 (R70). -/
def decode19 (w : Nat) : RawDecode :=
  match fld w 30 2, fld w 23 1 with
  | 0, 0 => .instr (.voteAny (vtp w))
  | 0, 1 => .instr (.voteAnyUniform (vtp w))
  | 1, 0 => .instr (.voteAll (vtp w))
  | 1, 1 => .instr (.voteAllUniform (vtp w))
  | 2, 0 => .instr (.voteCount (vtr w))
  | 2, 1 => .instr (.voteCountUniform (vtr w))
  | 3, 0 => .instr (.voteBallot (vtr w))
  | 3, 1 => .instr (.voteBallotUniform (vtr w))
  | _, _ => .unassigned

/-- Major 0x1A (R70). -/
def decode1A (w : Nat) : RawDecode :=
  match fld w 30 2 with
  | 0 => .instr (.scanIncI32 (un w))
  | 1 => .instr (.scanExcI32 (un w))
  | 2 => .instr (.scanIncF32 (un w))
  | 3 => .instr (.scanExcF32 (un w))
  | _ => .unassigned

/-- Major 0x1B (R70). -/
def decode1B (w : Nat) : RawDecode :=
  match fld w 30 2 with
  | 0 => .instr (.matchLead (mt w))
  | 1 => .instr (.matchRank (mt w))
  | 2 => .instr (.matchSumI32 (mt w))
  | 3 => .instr (.matchSumF32 (mt w))
  | _ => .unassigned

/-- Major 0x1C (R70). -/
def decode1C (w : Nat) : RawDecode :=
  .instr (.regroup (rg w))

/-- Major 0x20 (R70). -/
def decode20 (w : Nat) : RawDecode :=
  match fld w 30 2 with
  | 0 => .instr (.faddF32 (rr w))
  | 1 => .instr (.fsubF32 (rr w))
  | 2 => .instr (.fmulF32 (rr w))
  | 3 => .instr (.ffmaF32 (rr w))
  | _ => .unassigned

/-- Major 0x21 (R70). -/
def decode21 (w : Nat) : RawDecode :=
  match fld w 30 2 with
  | 0 => .instr (.fminF32 (rr w))
  | 1 => .instr (.fmaxF32 (rr w))
  | 2 => .instr (.fdivF32 (rr w))
  | 3 => .instr (.fcpsgnF32 (rr w))
  | _ => .unassigned

/-- Major 0x22 (R70). -/
def decode22 (w : Nat) : RawDecode :=
  match fld w 30 2 with
  | 0 => .instr (.faddF64 (rr w))
  | 1 => .instr (.fsubF64 (rr w))
  | 2 => .instr (.fmulF64 (rr w))
  | 3 => .instr (.ffmaF64 (rr w))
  | _ => .unassigned

/-- Major 0x23 (R70). -/
def decode23 (w : Nat) : RawDecode :=
  match fld w 30 2 with
  | 0 => .instr (.fminF64 (rr w))
  | 1 => .instr (.fmaxF64 (rr w))
  | 2 => .instr (.fdivF64 (rr w))
  | 3 => .instr (.fcpsgnF64 (rr w))
  | _ => .unassigned

/-- Major 0x24 (R70). -/
def decode24 (w : Nat) : RawDecode :=
  match fld w 30 2 with
  | 0 => .instr (.faddF16x2 (rr w))
  | 1 => .instr (.fsubF16x2 (rr w))
  | 2 => .instr (.fmulF16x2 (rr w))
  | 3 => .instr (.ffmaF16x2 (rr w))
  | _ => .unassigned

/-- Major 0x25 (R70). -/
def decode25 (w : Nat) : RawDecode :=
  match fld w 30 2 with
  | 0 => .instr (.fminF16x2 (rr w))
  | 1 => .instr (.fmaxF16x2 (rr w))
  | _ => .unassigned

/-- Major 0x26 (R70). -/
def decode26 (w : Nat) : RawDecode :=
  match fld w 24 6 with
  | 0 => .instr (.fsqrtF32 (un w))
  | 1 => .instr (.fsqrtF64 (un w))
  | 2 => .instr (.frcpF32 (un w))
  | 3 => .instr (.frsqF32 (un w))
  | 4 => .instr (.fex2F32 (un w))
  | 5 => .instr (.flg2F32 (un w))
  | 6 => .instr (.fsinF32 (un w))
  | 7 => .instr (.fcosF32 (un w))
  | 8 => .instr (.fabsF32 (un w))
  | 9 => .instr (.fnegF32 (un w))
  | 10 => .instr (.fabsF64 (un w))
  | 11 => .instr (.fnegF64 (un w))
  | 12 => .instr (.fclassF32 (un w))
  | 13 => .instr (.fclassF64 (un w))
  | 14 => .instr (.frintF32 (un w))
  | 15 => .instr (.frintF64 (un w))
  | _ => .unassigned

/-- Major 0x27 (R70). -/
def decode27 (w : Nat) : RawDecode :=
  .instr (.fsetpF32 (pc w))

/-- Major 0x28 (R70). -/
def decode28 (w : Nat) : RawDecode :=
  .instr (.fsetpF64 (pc w))

/-- Major 0x29 (R70). -/
def decode29 (w : Nat) : RawDecode :=
  match fld w 24 5 with
  | 0 => .instr (.cvtF32F64 (cv w))
  | 1 => .instr (.cvtF64F32 (un w))
  | 2 => .instr (.cvtF16F32 (cv w))
  | 3 => .instr (.cvtF32F16 (un w))
  | 4 => .instr (.cvtBf16F32 (cv w))
  | 5 => .instr (.cvtF32Bf16 (un w))
  | 6 => .instr (.cvtE4m3F32 (cv w))
  | 7 => .instr (.cvtE5m2F32 (cv w))
  | 8 => .instr (.cvtF32E4m3 (un w))
  | 9 => .instr (.cvtF32E5m2 (un w))
  | 10 => .instr (.cvtE2m1F32 (cv w))
  | 11 => .instr (.cvtF32E2m1 (un w))
  | 12 => .instr (.cvtP2p8F32 (cv w))
  | 13 => .instr (.cvtF32P2p8 (un w))
  | 14 => .instr (.cvtS32F32 (cv w))
  | 15 => .instr (.cvtN32F32 (cv w))
  | 16 => .instr (.cvtF32S32 (cv w))
  | 17 => .instr (.cvtF32N32 (cv w))
  | 18 => .instr (.cvtS32F64 (cv w))
  | 19 => .instr (.cvtF64S32 (un w))
  | 20 => .instr (.cvtS64F64 (cv w))
  | 21 => .instr (.cvtF64S64 (cv w))
  | 22 => .instr (.cvtS8F32 (cv w))
  | 23 => .instr (.cvtS4F32 (cv w))
  | 24 => .instr (.cvtF32S8 (un w))
  | 25 => .instr (.cvtF32S4 (un w))
  | 26 => .instr (.cvtF16F64 (cv w))
  | 27 => .instr (.cvtE8m0F32 (cv w))
  | 28 => .instr (.cvtF32E8m0 (un w))
  | _ => .unassigned

/-- Major 0x2A (R70). -/
def decode2A (w : Nat) : RawDecode :=
  match fld w 24 5 with
  | 0 => .instr (.cvtSatF32F64 (cv w))
  | 2 => .instr (.cvtSatF16F32 (cv w))
  | 4 => .instr (.cvtSatBf16F32 (cv w))
  | 6 => .instr (.cvtSatE4m3F32 (cv w))
  | 7 => .instr (.cvtSatE5m2F32 (cv w))
  | 10 => .instr (.cvtSatE2m1F32 (cv w))
  | 12 => .instr (.cvtSatP2p8F32 (cv w))
  | 14 => .instr (.cvtSatS32F32 (cv w))
  | 15 => .instr (.cvtSatN32F32 (cv w))
  | 16 => .instr (.cvtSatF32S32 (cv w))
  | 17 => .instr (.cvtSatF32N32 (cv w))
  | 18 => .instr (.cvtSatS32F64 (cv w))
  | 20 => .instr (.cvtSatS64F64 (cv w))
  | 21 => .instr (.cvtSatF64S64 (cv w))
  | 22 => .instr (.cvtSatS8F32 (cv w))
  | 23 => .instr (.cvtSatS4F32 (cv w))
  | 26 => .instr (.cvtSatF16F64 (cv w))
  | 27 => .instr (.cvtSatE8m0F32 (cv w))
  | _ => .unassigned

/-- Major 0x2B (R70). -/
def decode2B (w : Nat) : RawDecode :=
  match fld w 30 2 with
  | 0 => .instr (.mxscale (rr w))
  | 1 => .instr (.mxq (rr w))
  | 2 => .instr (.mxdq (rr w))
  | _ => .unassigned

/-- Major 0x2C (R70). -/
def decode2C (w : Nat) : RawDecode :=
  match fld w 28 4 with
  | 0 => .instr (.rdfmt (ud w))
  | 1 => .instr (.wrfmt (ua w))
  | 2 => .instr (.rdfpm (ud w))
  | 3 => .instr (.wrfpm (ua w))
  | 4 => .instr (.rdfst (ud w))
  | 5 => .instr (.wrfst (ua w))
  | 6 => .instr (.clrfst (ua w))
  | _ => .unassigned

/-- Major 0x30 (R70). -/
def decode30 (w : Nat) : RawDecode :=
  .instr (.ldG (mm w))

/-- Major 0x31 (R70). -/
def decode31 (w : Nat) : RawDecode :=
  .instr (.stG (mm w))

/-- Major 0x32 (R70). -/
def decode32 (w : Nat) : RawDecode :=
  match fld w 30 2 with
  | 0 => .instr (.ldS (ms w))
  | 1 => .instr (.stS (ms w))
  | 2 => .instr (.ldC (ms w))
  | 3 => .instr (.stC (ms w))
  | _ => .unassigned

/-- Major 0x33 (R70). -/
def decode33 (w : Nat) : RawDecode :=
  match fld w 24 3 with
  | 0 => .instr (.atomAdd (atf w))
  | 1 => .instr (.atomMinS (atf w))
  | 2 => .instr (.atomMinN (atf w))
  | 3 => .instr (.atomMaxS (atf w))
  | 4 => .instr (.atomMaxN (atf w))
  | 5 => .instr (.atomAnd (atf w))
  | 6 => .instr (.atomOr (atf w))
  | 7 => .instr (.atomXor (atf w))
  | _ => .unassigned

/-- Major 0x34 (R70). -/
def decode34 (w : Nat) : RawDecode :=
  match fld w 24 3 with
  | 0 => .instr (.atomExch (atf w))
  | 1 => .instr (.atomCas (atf w))
  | 2 => .instr (.atomAddF32 (atf w))
  | 3 => .instr (.atomAdd64 (atf w))
  | 4 => .instr (.atomExch64 (atf w))
  | 5 => .instr (.atomCas64 (atf w))
  | 6 => .instr (.atomLd (atf w))
  | 7 => .instr (.atomSt (atf w))
  | _ => .unassigned

/-- Major 0x35 (R70). -/
def decode35 (w : Nat) : RawDecode :=
  match fld w 24 3 with
  | 0 => .instr (.redAdd (atf w))
  | 1 => .instr (.redAddF32 (atf w))
  | 2 => .instr (.redMinS (atf w))
  | 3 => .instr (.redMaxS (atf w))
  | 4 => .instr (.redAnd (atf w))
  | 5 => .instr (.redOr (atf w))
  | 6 => .instr (.redXor (atf w))
  | 7 => .instr (.redAdd64 (atf w))
  | _ => .unassigned

/-- Major 0x36 (R70). -/
def decode36 (w : Nat) : RawDecode :=
  match fld w 28 4 with
  | 0 => .instr (.fence (fnc w))
  | 1 => .instr (.barC (bar w))
  | 2 => .instr (.waitn (wn w))
  | 3 => .instr (.fetchw (hdr w))
  | 4 => .instr (.launch (sa w))
  | 5 => .instr (.cp (sa w))
  | 6 => .instr (.ldUB32 (ldu w))
  | 7 => .instr (.ldUB64 (ldu w))
  | _ => .unassigned

/-- Major 0x37 (R70). -/
def decode37 (w : Nat) : RawDecode :=
  .instr (.waitc (wc w))

/-- Major 0x38 (R70). -/
def decode38 (w : Nat) : RawDecode :=
  .instr (.mma (ma w))

/-- Major 0x39 (R70). -/
def decode39 (w : Nat) : RawDecode :=
  match fld w 28 4 with
  | 0 => .instr (.mzero (ac0 w))
  | 1 => .instr (.mldaS (ac w))
  | 2 => .instr (.mldaG (ac w))
  | 3 => .instr (.mstaS (ac w))
  | 4 => .instr (.mstaG (ac w))
  | 5 => .instr (.maddS (ac w))
  | 6 => .instr (.maddG (ac w))
  | 7 => .instr (.mrd (ac w))
  | _ => .unassigned

/-- Major 0x3A (R70). -/
def decode3A (w : Nat) : RawDecode :=
  match fld w 28 4 with
  | 0 => .instr (.mscl (scl w))
  | 1 => .instr (.ttq (ua w))
  | _ => .unassigned

/-- Major 0x3C (R70). -/
def decode3C (w : Nat) : RawDecode :=
  match fld w 28 4 with
  | 0 => .instr (.vld (un w))
  | 1 => .instr (.vlds (vs w))
  | 2 => .instr (.vleaf (un w))
  | 3 => .instr (.vst (un w))
  | 4 => match fld w 24 4 with
    | 0 => .instr (.vactClr (un w))
    | 1 => .instr (.vactSet (un w))
    | _ => .reserved
  | 5 => .instr (.vmarch (un w))
  | 6 => .instr (.vins (un w))
  | 7 => .instr (.vdel (un w))
  | 8 => .instr (.halo (ud w))
  | _ => .unassigned

/-- Major 0x3D (R70). -/
def decode3D (w : Nat) : RawDecode :=
  match fld w 28 4 with
  | 0 => .instr (.pload (ua w))
  | 1 => .instr (.pmode (pt w))
  | 2 => .instr (.pclamp (ua w))
  | 3 => .instr (.psweep (ua w))
  | 4 => match fld w 24 4 with
    | 0 => .instr (.preadStates (un w))
    | 1 => .instr (.preadCounts (un w))
    | _ => .reserved
  | 5 => .instr (.preset (pt w))
  | _ => .unassigned

/-- Major 0x3E (R70). -/
def decode3E (w : Nat) : RawDecode :=
  match fld w 28 4 with
  | 0 => .instr (.fins (un w))
  | 1 => match fld w 24 4 with
    | 0 => .instr (.resolve (un w))
    | 1 => .instr (.resolveClr (un w))
    | _ => .reserved
  | 2 => .instr (.lclear (un w))
  | 3 => .instr (.rast (un w))
  | 4 => match fld w 24 4 with
    | 0 => .instr (.qpush (ua w))
    | 1 => .instr (.qpushTry (un w))
    | _ => .reserved
  | 5 => match fld w 24 4 with
    | 0 => .instr (.qpop (ua w))
    | 1 => .instr (.qpopTry (un w))
    | _ => .reserved
  | _ => .unassigned

/-- Major 0x3F (R70). -/
def decode3F (w : Nat) : RawDecode :=
  match fld w 26 6 with
  | 0 => .instr (.cflush (sa w))
  | 1 => .instr (.cwb (sa w))
  | 16 => .instr (.rdpr (pr w))
  | 17 => .instr (.wrpr (pr w))
  | 18 => .instr (.tret (hdr w))
  | 19 => .instr (.tqpop (sa w))
  | 20 => .instr (.halt (sa w))
  | 21 => .instr (.resume (sa w))
  | 22 => .instr (.cswap (sa w))
  | 23 => .instr (.tlbinv (sa w))
  | 24 => .instr (.dbgh (sa w))
  | 25 => .instr (.dbgr (sa w))
  | 26 => .instr (.wdog (hdr w))
  | 27 => .instr (.hint (sa w))
  | 28 => .instr (.catw (sa w))
  | _ => .unassigned

/-- The opcode map (R70): the function bits of a 32-bit word, its reserved bits not yet looked at. -/
def decodeLong (w : Nat) : RawDecode :=
  match fld w 2 6 with
  | 0x00 => decode00 w
  | 0x01 => decode01 w
  | 0x02 => decode02 w
  | 0x03 => decode03 w
  | 0x04 => decode04 w
  | 0x05 => decode05 w
  | 0x06 => decode06 w
  | 0x07 => decode07 w
  | 0x08 => decode08 w
  | 0x09 => decode09 w
  | 0x0A => decode0A w
  | 0x0B => decode0B w
  | 0x0C => decode0C w
  | 0x0D => decode0D w
  | 0x0E => decode0E w
  | 0x0F => decode0F w
  | 0x10 => decode10 w
  | 0x11 => decode11 w
  | 0x12 => decode12 w
  | 0x13 => decode13 w
  | 0x14 => decode14 w
  | 0x15 => decode15 w
  | 0x18 => decode18 w
  | 0x19 => decode19 w
  | 0x1A => decode1A w
  | 0x1B => decode1B w
  | 0x1C => decode1C w
  | 0x20 => decode20 w
  | 0x21 => decode21 w
  | 0x22 => decode22 w
  | 0x23 => decode23 w
  | 0x24 => decode24 w
  | 0x25 => decode25 w
  | 0x26 => decode26 w
  | 0x27 => decode27 w
  | 0x28 => decode28 w
  | 0x29 => decode29 w
  | 0x2A => decode2A w
  | 0x2B => decode2B w
  | 0x2C => decode2C w
  | 0x30 => decode30 w
  | 0x31 => decode31 w
  | 0x32 => decode32 w
  | 0x33 => decode33 w
  | 0x34 => decode34 w
  | 0x35 => decode35 w
  | 0x36 => decode36 w
  | 0x37 => decode37 w
  | 0x38 => decode38 w
  | 0x39 => decode39 w
  | 0x3A => decode3A w
  | 0x3C => decode3C w
  | 0x3D => decode3D w
  | 0x3E => decode3E w
  | 0x3F => decode3F w
  | _ => .unassigned

/-- Why a word is no instruction (R63, R86). A function of the privileged range is named, since in user mode cause
0x02 comes before subcode 1 (R87). -/
inductive DecodeError where
  /-- fewer bytes than the first halfword asks for -/
  | truncated
  /-- subcode 0: an unassigned major, minor, kind, function or code -/
  | unassigned
  /-- subcode 1: a reserved field is not zero, or a selector holds a reserved value -/
  | reservedField (privileged : Bool)
  /-- subcode 4: the halfwords 0x0000 and 0x0002 -/
  | reservedHalfword
  deriving DecidableEq, Repr

/-- The decoder over a word: a halfword when bit 0 is clear, else 32 bits (R61). A word whose reserved bits are not all
zero is not the encoding of the instruction its function bits name, which is how they are found. -/
def decodeWord (w : Nat) : Except DecodeError Instr :=
  if w % 2 = 0 then
    if fld w 2 14 = 0 then .error .reservedHalfword else .ok (decodeShort (w % 65536))
  else
    match decodeLong (w % 2 ^ 32) with
    | .unassigned => .error .unassigned
    | .reserved => .error (.reservedField false)
    | .instr i =>
      if i.unassignedCode then .error .unassigned
      else if i.word = w % 2 ^ 32 then .ok i
      else .error (.reservedField i.privileged)

/-- The number whose little-endian bytes are given (00 R1). -/
def leNat : List Byte → Nat
  | [] => 0
  | b :: t => b.toNat + 256 * leNat t

/-- The decoder over bytes in memory order: the instruction and the bytes after it, or the reason there is none. -/
def decode (bs : List Byte) : Except DecodeError (Instr × List Byte) :=
  match bs with
  | b0 :: b1 :: rest =>
    if b0.toNat % 2 = 0 then
      (decodeWord (leNat [b0, b1])).map fun i => (i, rest)
    else
      match rest with
      | b2 :: b3 :: rest' => (decodeWord (leNat [b0, b1, b2, b3])).map fun i => (i, rest')
      | _ => .error .truncated
  | _ => .error .truncated

/-- The instruction the decoder reads from a word numbered as spec/opcode_table.json numbers its bits: `nbits` bits of
`w`, every bit above them zero, laid out little-endian and given to `decode`. -/
def decodeTableWord (nbits w : Nat) : Option Instr :=
  match decode ((List.range 4).map fun k => BitVec.ofNat 8 (w % 2 ^ nbits / 256 ^ k)) with
  | .ok (i, _) => some i
  | .error _ => none

end

end Sys2Proof
end

