-- ==== Sys2Proof/Machine/Issue.lean ====
section
/-!
DEFINITION. One issue slot of a team (02 R46, 16 R349, R350; 03 R61, R66, R87, R88; 18 R388): the choice of the path,
the merge, the breakpoint, the fetch through the instruction cache, the decoding and its traps.
-/
namespace Sys2Proof.Machine

/-- The team may issue: live, resident, not halted, not waiting as a whole (16 R349). -/
def teamMayIssue (s : State) (t : Team) : Bool := t.live && !t.halted && t.wait == .none && onCore s t

/-- The ready path with the lowest PC (02 R46). -/
def lowestPath (ps : List (Nat × Path)) : Option (Nat × Path) :=
  ps.foldl
    (fun acc e =>
      if e.2.canIssue then
        match acc with
        | some b => if e.2.pc.toNat < b.2.pc.toNat then some e else acc
        | none => some e
      else acc) none

/-- An entry that may merge with the chosen path: ready or parked, not held, at the same PC (02 R46). -/
def mergesWith (chosen : Nat) (pc : Dword) (e : Nat × Path) : Bool :=
  e.1 != chosen && !e.2.hold && (e.2.st == .ready || e.2.st == .parked) && e.2.pc == pc

/-- Two entries as one: the lower index, the union of lanes, the FMT rule, parked if either was (02 R46). -/
def mergePair (a b : Nat × Path) : Nat × Path :=
  let lo := if a.1 < b.1 then a.2 else b.2
  let same := a.2.entryFmt == b.2.entryFmt
  (min a.1 b.1,
    { pc := a.2.pc, mask := a.2.mask ||| b.2.mask,
      fmt := if same then a.2.entryFmt else lo.fmt, entryFmt := if same then a.2.entryFmt else lo.entryFmt,
      st := if a.2.st == .parked || b.2.st == .parked then .parked else .ready,
      mark := false, hold := false, skipBp := a.2.skipBp ||| b.2.skipBp, trap := none })

/-- Replace a path index in a list of owners. -/
def renameOwner (old new : Nat) (l : List Nat) : List Nat :=
  if l.contains old then ((l.filter fun i => i != old).filter fun i => i != new) ++ [new] else l

/-- A replay entry after the merge of two paths: what either path did before comes before all that the merged path does
(02 R47). -/
def Replay.mergePaths (r : Replay) (gone kept : Nat) : Replay :=
  { r with owners := renameOwner gone kept r.owners, before := renameOwner gone kept r.before,
           merged := r.merged || r.before.contains gone || r.before.contains kept }

/-- The team after the merge of the chosen path with every entry at its PC, and the merged entry. Where three or more
entries stand at one PC, R46 does not say in which order they merge, which their FMTs can show: they merge one after
another by ascending index, the model's choice (log 47). -/
def Team.merge (t : Team) (c : Nat × Path) : Team × (Nat × Path) :=
  (t.paths.filter (mergesWith c.1 c.2.pc)).foldl
    (fun (acc : Team × (Nat × Path)) e =>
      let m := mergePair acc.2 e
      let gone := max acc.2.1 e.1
      let t := acc.1
      ({ t with
          paths := kput (kdel t.paths gone) m.1 m.2,
          long := t.long.map fun (r : LongRes) => { r with owners := renameOwner gone m.1 r.owners },
          replay := t.replay.map fun (r : Replay) => r.mergePaths gone m.1 }, m))
    (t, c)

/-- The paths that merge into the chosen one at its issue (02 R46). -/
def Team.merging (t : Team) (c : Nat × Path) : List Nat := c.1 :: (t.paths.filter (mergesWith c.1 c.2.pc)).map Prod.fst

/-! ### Fetching (16 R350, 03 R88, R89) -/

/-- The key of an instruction-cache line of a core. -/
def icKey (core gasid va : Nat) : Nat := core * 2 ^ 61 + lineKey gasid va

/-- The line at an address as a path can fetch it: from its core's instruction cache, or as it has come back for this
path alone from a page that no cache holds (16 R350, 17 R369). No line is at an address that is not canonical: its fetch
misses, and takes the fetch fault (log 47). -/
def fetchLine (s : State) (x : Issuer) (va : Dword) : Option (BitVec 1024) :=
  let g := (x.agent s).gasid
  if canonicalVa va then
    (klook s.icache (icKey x.t.core g va.toNat)).orElse fun _ =>
      (s.replies.find? fun r => r.tk == x.tk && r.path == x.pi && r.key == lineKey g va.toNat).map Reply.data
  else none

/-- The halfword at an address, when its line is there. -/
def fetchHalf (s : State) (x : Issuer) (va : Dword) : Option Nat :=
  (fetchLine s x va).map fun d => nbits d.toNat (8 * (va.toNat % 128)) 16

/-- The path asks for a line, unless it already has. -/
def askFill (s : State) (x : Issuer) (va : Dword) (second ahead : Bool) : State :=
  let f : Fill := { tk := x.tk, path := x.pi, core := x.t.core, gasid := (x.agent s).gasid, va := va, second := second,
                    ahead := ahead }
  if s.fills.contains f then s else { s with fills := s.fills ++ [f] }

/-- The address of the last halfword of an instruction whose word has been fetched (03 R61). -/
def lastHalf (x : Issuer) (w : Nat) : Nat := x.path.pc.toNat + if w % 2 = 1 then 2 else 0

/-- Fetch that has entered a line's second half, with either halfword of an instruction, asks for the next sequential line
(16 R350). -/
def fetchAhead (s : State) (x : Issuer) (w : Nat) : State :=
  let next := lastHalf x w / 128 * 128 + 128
  if lastHalf x w % 128 < 64 || (klook s.icache (icKey x.t.core (x.agent s).gasid next)).isSome then s
  else askFill s x (BitVec.ofNat 64 next) false true

/-- What fetching gives at the PC: a word of 16 or 32 bits, or the address of the line that is missing and whether it is
the second halfword's (03 R61, R88). -/
def fetchWord (s : State) (x : Issuer) : Except (Dword × Bool) Nat :=
  let pc := x.path.pc
  match fetchHalf s x pc with
  | none => .error (pc, false)
  | some lo =>
    if lo % 2 = 0 then .ok lo
    else
      match fetchHalf s x (pc + 2) with
      | none => .error (pc + 2, true)
      | some hi => .ok (lo + 65536 * hi)

/-- The registers and the tile of an instruction lie within the team's counts; otherwise subcode 2 (03 R67, 09 R241). -/
def regsFit (t : Team) (i : Instr) : Bool :=
  decide (i.laneTop ≤ t.vregs) && decide (i.uniTop t.width ≤ t.sregs) &&
    match i.shape.acc with
    | some k => decide (k < t.acct)
    | none => true

/-- In early service majors 0x3C and 0x3E act as unassigned (20 R417). -/
def earlyUnassigned (s : State) (w : Nat) : Bool :=
  s.host.stage == 2 && w % 2 == 1 && (nbits w 2 6 == 0x3C || nbits w 2 6 == 0x3E)

/-- The traps of decoding in the order of R87, after the fetch fault: cause and subcode, or the instruction to issue. -/
def decodeTraps (t : Team) (d : Except DecodeError Instr) : Except (Nat × Nat) Instr :=
  match d with
  | .error .reservedHalfword => .error (0x01, 4)
  | .error .truncated => .error (0x01, 0)
  | .error .unassigned => .error (0x01, 0)
  | .error (.reservedField priv) => if priv && !t.sup then .error (0x02, 0) else .error (0x01, 1)
  | .ok i =>
    if i.privileged && !t.sup then .error (0x02, 0)
    else if i.reservedValue then .error (0x01, 1)
    else if i.misaligned then .error (0x01, 3)
    else if !regsFit t i then .error (0x01, 2)
    else .ok i

/-- The instruction uses a power token when it acts: majors 0x38 to 0x3A (09 R233). -/
def tokenHeader : Instr → Option Hdr
  | .mma f => some f.h
  | .mzero f => some f.h
  | .mldaS f | .mldaG f | .mstaS f | .mstaG f | .maddS f | .maddG f | .mrd f => some f.h
  | .mscl f => some f.h
  | .ttq f => some f.h
  | _ => none

/-- The team lacks the token that its next instruction needs (16 R348, R349). -/
def lacksToken (x : Issuer) (i : Instr) : Bool :=
  match tokenHeader i with
  | some h => !x.t.token && (x.elected h).isSome
  | none => false

/-- A token request joins the partition's list, unless the team has one there. -/
def askToken (s : State) (tk : Nat) (t : Team) : State :=
  if t.tokenAsked then s
  else
    (s.modTeam tk fun t => { t with tokenAsked := true }).modPart (pnumOf tk) fun p =>
      { p with tokenReqs := p.tokenReqs ++ [(false, tk)] }

/-- The path stops at a PC breakpoint instead of issuing: it is held, with every path of the team when TEAM is set; the
same breakpoint does not stop its next attempt (18 R388). -/
def bpStop (s : State) (x : Issuer) (n : Nat) : State :=
  let all := nbit ((s.part (pnumOf x.tk)).reg (0x70 + 3 * n)).toNat 1
  let s := s.modTeam x.tk fun t =>
    { t with paths := t.paths.map fun (e : Nat × Path) =>
        if e.1 = x.pi then (e.1, { e.2 with hold := true, skipBp := e.2.skipBp ||| BitVec.twoPow 2 n })
        else if all then (e.1, { e.2 with hold := true })
        else e }
  debugStop s x.tk x.t x.pi x.path.pc x.path.mask 2 n

/-- The breakpoint that stops the path at this issue attempt (18 R388). -/
def bpHit (s : State) (x : Issuer) : Option Nat :=
  (List.range 2).find? fun n =>
    bpMatches (s.part (pnumOf x.tk)) x.t x.path.pc n && !x.path.skipBp.getLsbD n

/-- The path chosen by an issue slot, with the state after the merge, when it may issue: none when the team may not, has
no ready path, meets a reported fault, or merges with a parked entry. -/
def chooseIssuer (s : State) (tk : Nat) : State × Option Issuer :=
  match s.team tk with
  | none => (s, none)
  | some t =>
    if !teamMayIssue s t then (s, none)
    else
      match lowestPath t.paths with
      | none => (s, none)
      | some c =>
        if t.hasReported c.1 c.2.mask then
          (s.modPath tk c.1 fun p => { p with st := .faulted }, none)
        else
          let m := t.merge c
          let s := renameCmds (s.setTeam tk m.1) tk (t.merging c) m.2.1
          if m.2.2.st == .ready then (s, some { tk := tk, t := m.1, pi := m.2.1, path := m.2.2 }) else (s, none)

noncomputable section

/-- What decoding gives for a fetched word: the trap to take, or the instruction (03 R86, R87). -/
def decodeAt (s : State) (x : Issuer) (w : Nat) : Except (Nat × Nat) Instr :=
  decodeTraps x.t (if earlyUnassigned s w then .error .unassigned else decodeWord w)

/-- An issue attempt with its word fetched: what has come back for this fetch alone is used up (17 R369). -/
def attempted (s : State) (x : Issuer) : State :=
  { s with replies := s.replies.filter fun r => !(r.tk == x.tk && r.path == x.pi) }

/-- The breakpoints that did not stop a path's issue attempt are armed again for it (18 R388). -/
def rearm (s : State) (tk pi : Nat) : State := s.modPath tk pi fun p => { p with skipBp := 0 }

/-- The issuing path's instruction after its fetch: the trap of its decoding is taken, or the instruction is given out to
be performed, its path marked as the issuing one and its slot as the one that issued last (16 R349). A team that lacks the
token it needs is not ready, and asks for one. -/
def issueWord (s : State) (x : Issuer) (w : Nat) : State × Option Instr :=
  match decodeAt s x w with
  | .error (cause, sub) => (trapNone (rearm (attempted s x) x.tk x.pi) x cause sub 0, none)
  | .ok i =>
    if lacksToken x i then (askToken s x.tk x.t, none)
    else
      ({ attempted s x with cur := some (x.tk, x.pi), lastSlot := dput 15 s.lastSlot x.t.core x.t.slot }, some i)

/-- One issue slot of a team: the state before the instruction's own effect and the instruction, or the slot's effect
when none issues. -/
def issueSlot (s : State) (tk : Nat) : State × Option Instr :=
  match chooseIssuer s tk with
  | (s, none) => (s, none)
  | (s, some x) =>
    match bpHit s x with
    | some n => (bpStop s x n, none)
    | none =>
      match fetchWord s x with
      | .error (va, second) => (askFill s x va second false, none)
      | .ok w => issueWord (fetchAhead s x w) x w

end

/-- After an issued instruction: its path's breakpoints are armed again, and the causal trial counts it at the PC it was
issued from. A path that stalled is still at its first issue attempt (02 R56, 18 R388, R392). -/
def countIssued (before after : State) : State :=
  match before.issuer, after.cur with
  | some x, some _ => countTrial (rearm after x.tk x.pi) x.tk x.t x.path.pc
  | _, _ => after

/-- A path's fetch fault: a user path is faulted with its whole mask unfinished and its report joins the batch; the
supervisor enters its handler (03 R88, 17 R372, 15 R321). -/
def fetchFault (s : State) (tk pi : Nat) (sub : Nat) (addr : Dword) : State :=
  match s.team tk with
  | none => s
  | some t =>
    match t.path pi with
    | none => s
    | some p =>
      if t.sup then supervisorTrap s tk pi 0x03 sub p.pc addr
      else
        let s := s.modPath tk pi fun p => { p with st := .faulted }
        addReplay s tk { newReplay s t pi p.pc .fetch none true with reported := true }
          ((lanesOf t.width p.mask).map fun l => ({ lane := l, addr := addr, data := [] }, 0x03, sub, addr.toNat))

/-- A fetch that can be made at an address now: its page translates for an executing agent (17 R365, 03 R88). -/
def fetchable (s : State) (a : Agent) (va : Dword) : Bool :=
  canonicalVa va &&
    match translate s a (regionLookup s a va.toNat).2 va.toNat with
    | .ok (_, lf) => (permFault a .fetch lf.pte).isNone
    | .error _ => false

/-- The path still stands at the instruction whose line it asked for. -/
def Fill.wanted (f : Fill) (p : Path) : Bool :=
  !f.ahead && p.st == .ready && p.pc + (if f.second then 2 else 0) == f.va

/-- The agent of a fill: the address space is the one it was asked for under, which a write of SVASID may have changed for the
supervisor meanwhile (17 R357). -/
def Fill.agent (f : Fill) (s : State) (t : Team) : Agent := { engineAgent s f.tk t with asid := f.gasid % 8192 }

/-- A line that cannot be fetched: the path that still waits for it, in the address space it was asked for under, takes its
fetch fault. A missing second halfword is subcode 1 only while the first byte's page can still be fetched (03 R88). -/
def fillFault (s : State) (f : Fill) (a : Agent) (t : Team) : State :=
  match t.path f.path with
  | none => s
  | some p =>
    if !f.wanted p || f.gasid != (teamAgent s f.tk t).gasid then s
    else if f.second && p.pc.toNat / 65536 != f.va.toNat / 65536 && fetchable s a p.pc then fetchFault s f.tk f.path 1 f.va
    else fetchFault s f.tk f.path 0 p.pc

/-- The lines of an instruction cache. -/
def icacheLines : Nat := 512

/-- A line joins its core's instruction cache; a full cache of 64 KiB gives up a line of the device's choice (01 R12). -/
def icacheFill (s : State) (core key : Nat) (d : BitVec 1024) : State :=
  let mine := s.icache.filter fun e => e.1 / 2 ^ 61 == core && e.1 != key
  if mine.length < icacheLines then { s with icache := kput s.icache key d }
  else
    let (s, k) := pick s mine.length
    { s with icache := kput (kdel s.icache ((mine.map Prod.fst).getD k 0)) key d }

/-- The k-th outstanding fill returns: the line as memory gives it joins the core's instruction cache, or serves the one
fetch that asked for it when its page is held in no cache; or the asking path takes its fetch fault (16 R350, 17 R369,
03 R88, R89). A PC that is not canonical has no page: its fetch fault is the one of an absent page, for which the spec
names no cause (log 47). A line that holds data with an uncorrectable error joins no instruction cache: the team that has
read it is noted, and a line asked for ahead has been read by nobody yet (20 R421; log 46). -/
def fillReturn (s : State) (k : Nat) : State :=
  match s.fills[k]? with
  | none => s
  | some f =>
    let s := { s with fills := dropAt s.fills k }
    match s.team f.tk with
    | none => s
    | some t =>
      let a := f.agent s t
      let base := f.va.toNat / 128 * 128
      if !canonicalVa f.va then fillFault s f a t
      else
        match place s a .fetch base with
        | .error (s, _) => fillFault s f a t
        | .ok (s, pl) =>
          let line : BitVec 1024 := BitVec.ofNat 1024 (natOfBytes (placeRead s pl base 128))
          match placeBad s pl base 128, pl with
          | true, _ => if f.ahead then s else noteRead s a pl base 128
          | false, .phys _ _ =>
            if f.ahead then s
            else { s with replies := s.replies ++ [{ tk := f.tk, path := f.path, key := lineKey f.gasid base, data := line }] }
          | false, .line _ | false, .flat _ => icacheFill s f.core (icKey f.core f.gasid base) line

end Sys2Proof.Machine
end

