-- ==== Sys2Proof/Machine/Tree.lean ====
section
/-!
DEFINITION. Tuisol trees in memory (10 R250-R255, R271): the descriptor, the leaf records and the leaf set of a LEAF
launch.
-/
namespace Sys2Proof.Machine

/-- A tree descriptor as read (10 R250). -/
structure Tree where
  addr : Nat
  vtype : Nat
  rootlog : Nat
  root : Nat
  background : Nat
  nodebase : Nat
  nodecap : Nat
  nodenext : Nat
  leafbase : Nat
  leafcap : Nat
  leafnext : Nat
  /-- the model's own: the lines that were cached when the lane's operation began (log 43) -/
  known : List Nat
  deriving DecidableEq, Repr

/-- The descriptor in 128 bytes. -/
def treeOf (addr : Nat) (bs : List Byte) : Tree :=
  { addr := addr, vtype := fieldAt bs 0 4, rootlog := fieldAt bs 4 4, root := fieldAt bs 8 8,
    background := fieldAt bs 0x10 8, nodebase := fieldAt bs 0x18 8, nodecap := fieldAt bs 0x20 4,
    nodenext := fieldAt bs 0x24 4, leafbase := fieldAt bs 0x28 8, leafcap := fieldAt bs 0x30 4,
    leafnext := fieldAt bs 0x34 4, known := [] }

/-- The value width b in bytes of a value type, when the type is one of a tree's. -/
def valueBytes (vtype : Nat) : Option Nat :=
  if vtype = 0 ∨ vtype = 12 ∨ vtype = 13 then some 4 else if vtype = 1 then some 2 else if vtype = 10 then some 8 else none

/-- Reserved bytes of a descriptor are not zero. -/
def treeReserved (bs : List Byte) : Bool := (bs.drop 0x44).any fun b => b != 0

/-- A field of the descriptor is out of its range (10 R250, R259). -/
def Tree.bad (t : Tree) : Bool :=
  (valueBytes t.vtype).isNone || decide (t.rootlog < 4) || decide (24 < t.rootlog) || t.root % 4096 != 0
    || t.nodebase % 65536 != 0 || decide (t.nodecap < 1) || decide (2 ^ 24 < t.nodecap) || t.leafbase % 128 != 0
    || decide (t.leafcap < 1) || decide (2 ^ 31 - 1 < t.leafcap)

/-- The first of the tree's own addresses that is not canonical: cause 0x09 (10 R275; log 48). -/
def Tree.badAddress (t : Tree) : Option Nat := [t.root, t.nodebase, t.leafbase].find? fun a => !canonicalVa (BitVec.ofNat 64 a)

/-- The tree as a lane's operation that begins now uses it. -/
def Tree.now (t : Tree) (s : State) : Tree := { t with known := s.cached }

/-- The bytes of a value of the tree. -/
def Tree.vb (t : Tree) : Nat := (valueBytes t.vtype).getD 4

/-- The address of leaf h. -/
def Tree.leafAt (t : Tree) (h : Nat) : Nat := t.leafbase + h * (128 + 512 * t.vb)

/-- The address of node j. -/
def Tree.nodeAt (t : Tree) (j : Nat) : Nat := t.nodebase + j * 65536

/-- n bytes of a tree: an address of a slot, node or leaf that leaves the canonical range is an address-form fault
(07 R173, 10 R275; log 48). -/
def treeBytes (s : State) (a : Agent) (va n : Nat) : Except (State × AccFault) (State × List Byte) :=
  if inRange va n then vread s a va n else .error (s, 0x09, 0, va)

/-- A little-endian number of n bytes of a tree. -/
def treeNat (s : State) (a : Agent) (va n : Nat) : Except (State × AccFault) (State × Nat) :=
  if inRange va n then vnat s a va n else .error (s, 0x09, 0, va)

/-- A read-modify-write of n bytes of a tree by an operation that the tree's `known` began. -/
def treeRmw (s : State) (a : Agent) (t : Tree) (va n : Nat) (f : Nat → Nat) : Except (State × AccFault) (State × Nat) :=
  if inRange va n then vrmwOwn s a t.known va n f else .error (s, 0x09, 0, va)

/-- A write to a tree by such an operation. -/
def treeWrite (s : State) (a : Agent) (t : Tree) (va : Nat) (bs : List Byte) : Except (State × AccFault) State :=
  if inRange va bs.length then vwriteOwn s a t.known va bs else .error (s, 0x09, 0, va)

/-- The leaf set of a LEAF launch, n slots from slot h on: the handles of slots whose LIVE is set and whose MASK is not
zero, by one read of each header (02 R36, 10 R271). -/
def leafSetFrom (s : State) (a : Agent) (t : Tree) : Nat → Nat → Except (State × AccFault) (State × List Nat)
  | 0, _ => .ok (s, [])
  | n + 1, h =>
    match treeBytes s a (t.leafAt h) 128 with
    | .error e => .error e
    | .ok (s, bs) =>
      match leafSetFrom s a t n (h + 1) with
      | .error e => .error e
      | .ok (s, hs) =>
        .ok (s, if nbit (byteAt bs 0x0D) 0 && decide (fieldAt bs 0x20 64 ≠ 0) then h :: hs else hs)

end Sys2Proof.Machine
end

