-- ==== Sys2Proof/Machine/Launch.lean ====
section
/-!
DEFINITION. Launching grids, claiming and placing their cohorts, and retiring teams, cohorts and grids (02 R26-R42,
03 R89, 07 R195, R196, 15 R318, R326, R335, 16 R343-R346, R423).
-/
namespace Sys2Proof.Machine

/-! ### The launch parameter block (02 R31, R32, R35) -/

/-- The mode's own fields: DENSE NX NY NZ; LEAF TREE; FETCH NX NY NZ MBOX PERSIST; SPLIT TILES KITER PERSIST. -/
def modeFields (mode : Nat) (bs : List Byte) : List Nat :=
  match mode with
  | 1 => [fieldAt bs 0x20 8]
  | 2 => [fieldAt bs 0x20 4, fieldAt bs 0x24 4, fieldAt bs 0x28 4, fieldAt bs 0x2C 4, fieldAt bs 0x30 4]
  | _ => [fieldAt bs 0x20 4, fieldAt bs 0x24 4, fieldAt bs 0x28 4]

/-- The 256 bytes of a launch parameter block as read; reserved bytes are ignored (00 R5). -/
def lpbOf (bs : List Byte) : Lpb :=
  { entry := BitVec.ofNat 64 (fieldAt bs 0 8), teamw := fieldAt bs 8 2, teams := byteAt bs 0x0A, span := byteAt bs 0x0B,
    vregs := byteAt bs 0x0C, sregs := byteAt bs 0x0D, acct := byteAt bs 0x0E, flags := BitVec.ofNat 8 (byteAt bs 0x0F),
    scratch := fieldAt bs 0x10 4, fpminit := BitVec.ofNat 32 (byteAt bs 0x14), mode := byteAt bs 0x18,
    paths := if byteAt bs 0x19 < 16 then 16 else byteAt bs 0x19, modef := modeFields (byteAt bs 0x18) bs,
    done := BitVec.ofNat 64 (fieldAt bs 0x48 8), errec := BitVec.ofNat 64 (fieldAt bs 0x50 8),
    ticket := BitVec.ofNat 64 (fieldAt bs 0x58 8), args := BitVec.ofNat 64 (fieldAt bs 0x60 8) }

/-- A mode field. -/
def Lpb.mf (l : Lpb) (k : Nat) : Nat := l.modef.getD k 0

/-- The spill area of a team's path table (02 R50). -/
def spillBytes (paths w : Nat) : Nat := (paths - 16) * (32 + 4 * (w / 32))

/-- The mode's fields lie in their ranges (02 R35). -/
def Lpb.modeOk (l : Lpb) : Bool :=
  match l.mode with
  | 0 => decide (1 ≤ l.mf 0 ∧ 1 ≤ l.mf 1 ∧ 1 ≤ l.mf 2 ∧ l.mf 0 * l.mf 1 * l.mf 2 ≤ 0xFFFFFFFF)
  | 1 => canonicalVa (BitVec.ofNat 64 (l.mf 0)) && decide (l.mf 0 % 128 = 0)
  | 2 => decide ((1 ≤ l.mf 0 ∧ l.mf 0 ≤ 65536) ∧ (1 ≤ l.mf 1 ∧ l.mf 1 ≤ 65536) ∧ (1 ≤ l.mf 2 ∧ l.mf 2 ≤ 65536)
      ∧ l.mf 3 % 16 = 0 ∧ 1 ≤ l.mf 4)
  | 3 => decide (1 ≤ l.mf 0 ∧ 1 ≤ l.mf 1 ∧ 1 ≤ l.mf 2 ∧ l.mf 0 * l.mf 1 ≤ 0xFFFFFFFF)
  | _ => false

/-- FPM holds no reserved NANP and no reserved RM (04 R113). -/
def fpmOk (fpm : Word) : Bool := decide (nbits fpm.toNat 5 2 ≤ 1) && decide (fpmRm fpm ≤ 4)

/-- The block passes the checks of 02 R32. -/
def Lpb.valid (l : Lpb) : Bool :=
  decide (l.entry.toNat % 2 = 0 ∧ l.done.toNat % 8 = 0 ∧ l.errec.toNat % 32 = 0 ∧ l.ticket.toNat % 8 = 0)
    && decide (32 ≤ l.teamw ∧ l.teamw ≤ 1024 ∧ l.teamw % 32 = 0) && decide (1 ≤ l.teams ∧ l.teams ≤ 16)
    && decide (1 ≤ l.span ∧ l.span ≤ 4) && decide (1 ≤ l.vregs ∧ l.vregs ≤ 64) && decide (1 ≤ l.sregs ∧ l.sregs ≤ 64)
    && decide (l.acct ≤ 4) && decide (l.scratch % 16 = 0 ∧ l.scratch + spillBytes l.paths l.teamw ≤ 196608)
    && decide (l.paths ≤ 64) && decide (l.teamw * l.vregs ≤ 65536) && decide (l.teams ≤ 16 * 8 * l.span)
    && decide (l.acct * l.teams ≤ 8 * l.span) && fpmOk l.fpminit && l.modeOk

/-- FLAGS bit 3 in LEAF mode: one team for each leaf. -/
def Lpb.perLeaf (l : Lpb) : Bool := l.mode == 1 && l.flags.getLsbD 3

/-- The number of cohorts (02 R35). -/
def Lpb.cohorts (l : Lpb) (leaves : Nat) : Nat :=
  match l.mode with
  | 0 => l.mf 0 * l.mf 1 * l.mf 2
  | 1 => if l.perLeaf then ceilDiv leaves l.teams else leaves
  | 2 => l.mf 4
  | _ => l.mf 2

/-! ### Starting a grid (02 R28-R36, 16 R343) -/

/-- Compute dies that hold a half of the partition, ascending (16 R343). -/
def diesOf (halves : BitVec 8) : List Nat := (List.range 4).filter fun d => halves.getLsbD (2 * d) || halves.getLsbD (2 * d + 1)

/-- A grid before its first cohort. -/
def newGrid (addr : Dword) (l : Lpb) (depth : Nat) (parent : Option Nat) (cls asid : Nat) : Grid :=
  { addr := addr, lpb := l, depth := depth, parent := parent, cls := cls, asid := asid, n := 0, leafSet := [],
    work := 0, retry := 0, noted := none, errCount := 0, failed := false, error := none, claiming := [], cleared := [],
    unplaced := [], halted := false, placed := false }

/-- An error that concerns the launch and no cohort (02 R33, R36). -/
def launchError (cause : Nat) (addr : Dword) : ErrInfo :=
  { cause := cause, cohort := 0xFFFFFFFF, pc := 0, addr := addr, team := 0xFFFF, lane := 0xFFFF }

/-- A launch that places no cohort writes its error record and completes (02 R32, R36). No error has ended a cohort, and
R33 gives COUNT no value for it: the record adds 1 to what COUNT held, the model's choice (log 47). -/
def refuseGrid (s : State) (pn : Nat) (g : Grid) (e : ErrInfo) : State :=
  let g := { g with errCount := 1 }
  completeGrid (writeErrorRecord s (pn * 65536) g e) (pn * 65536) g

/-- A child of a halted grid, or a host's grid of a partition halted as a whole, starts halted (15 R326; log 52). -/
def startsHalted (s : State) (pn : Nat) (parent : Option Nat) : Bool :=
  match parent with
  | some p => ((s.grid p).map Grid.halted).getD (s.part pn).haltAll
  | none => (s.part pn).haltAll

/-- A checked grid gets the lowest free grid number and reaches the processor of every die of the partition
(15 R320, 16 R343; log 14). It reaches them all in the same step, so two grids stand in every list in one order: the spec
does not say when a grid reaches another die's processor (DESIGN CHOICE, log 53). -/
def acceptGrid (s : State) (pn : Nat) (g : Grid) (leaves : List Nat) : State :=
  let gid := lowestFree (s.grids.map Prod.fst) 65535 (pn * 65536 + 1)
  let dies := diesOf (s.part pn).halves
  let g := { g with n := g.lpb.cohorts leaves.length, leafSet := leaves, claiming := dies,
                    halted := startsHalted s pn g.parent }
  let s := { s with grids := kput s.grids gid g }
  s.modPart pn fun p =>
    { p with
      procs := dies.foldl
        (fun ps d =>
          let old : Proc := (klook ps d).getD { ptr := 0, pending := [] }
          kput ps d { old with pending := old.pending ++ [gid] }) p.procs }

/-- The leaf set of a LEAF launch. A VTYPE that is no tree's leaves the stride open (log 4). -/
def fixLeaves (s : State) (a : Agent) (tree : Nat) : Except (State × AccFault) (State × List Nat) :=
  match vread s a tree 128 with
  | .error e => .error e
  | .ok (s, bs) =>
    let t := treeOf tree bs
    let (s, k) := if (valueBytes t.vtype).isSome then (s, 0) else pick s 3
    let t := if (valueBytes t.vtype).isSome then t else { t with vtype := [0, 1, 10].getD k 0 }
    leafSetFrom s a t t.leafnext 0

/-- A launch after its block is read: the checks of 02 R32, the leaf set, and the grid. -/
def launchGrid (s : State) (pn : Nat) (addr : Dword) (l : Lpb) (depth : Nat) (parent : Option Nat) (cls asid : Nat) :
    State :=
  let g := newGrid addr l depth parent cls asid
  if !l.valid then refuseGrid s pn g (launchError 0x0F 0)
  else if l.mode = 1 then
    match fixLeaves s (gridAgent s (pn * 65536) g) (l.mf 0) with
    | .error (s, c, _, va) => refuseGrid s pn g (launchError c (BitVec.ofNat 64 va))
    | .ok (s, leaves) => acceptGrid s pn g leaves
  else acceptGrid s pn g []

/-- The device writes PARENT and DEPTH into a block; a write that faults is skipped (02 R31; log 20). -/
def writeLaunchFields (s : State) (a : Agent) (addr : Dword) (depth : Nat) (parent : Dword) : State :=
  let s := match vwrite s a (addr.toNat + 0x40) (bytesOf 8 parent.toNat) with
    | .error (s, _) => s
    | .ok s => s
  match vwrite s a (addr.toNat + 0x1A) (bytesOf 1 depth) with
  | .error (s, _) => s
  | .ok s => s

/-! ### LAUNCH (02 R28, 07 R196) -/

/-- The depth of a team's grid; the supervisor's is 1. -/
def teamDepth (s : State) (t : Team) : Nat := if t.sup then 1 else ((s.grid t.gid).map Grid.depth).getD 1

/-- launch: the address and the depth are checked, and the path waits for the processor to read the block, which it does
once every access that the team issued before has been performed (08 R218). -/
def execLaunch (f : SA) (s : State) : Out :=
  withIssuer s fun x =>
    match x.elected f.h with
    | none => s.pass x 4 f.h.s
    | some lane =>
      let addr := x.t.zr f.a.toNat
      if !canonicalVa addr || decide (addr.toNat % 64 ≠ 0) then trapElected s x 0x0F 0 addr lane
      else if 10 ≤ teamDepth s x.t then trapElected s x 0x0E 0 0 lane
      else s.park x (.waiting (.launch addr lane s.nextTrap)) f.h.s

/-- Child grids of a partition accepted and not yet placed (07 R196). -/
def unplacedChildren (s : State) (pn : Nat) : Nat :=
  (s.grids.filter fun e => e.1 / 65536 == pn && decide (2 ≤ e.2.depth) && !e.2.placed).length

/-- The block has been read: its DONE is checked, then PARENT and DEPTH are written and the launch proceeds, unless the
partition holds its limit of unplaced children (07 R196). The spec does not say which address goes with the launch traps: for
0x0F the model records the block's, also where DONE is the misaligned field, and 0 for 0x0E (DESIGN CHOICE, log 53). -/
def launchWith (s : State) (x : Issuer) (addr : Dword) (lane upTo : Nat) (bs : List Byte) : State :=
  let pn := pnumOf x.tk
  let l := lpbOf bs
  if l.done.toNat % 8 ≠ 0 then trapElected s x 0x0F 0 addr lane
  else if 1024 ≤ unplacedChildren s pn then s.modPath x.tk x.pi fun p => { p with st := .waiting (.launch addr lane upTo) }
  else
    let g := if x.t.sup then none else s.grid x.t.gid
    let up := if x.t.sup then (s.part pn).svlpb else (g.map Grid.addr).getD 0
    let depth := teamDepth s x.t + 1
    let cls := match g with
      | some g => g.cls
      | none => 3
    let s := writeLaunchFields s (x.engine s) addr depth up
    let s := launchGrid s pn addr l depth (if x.t.sup then none else some x.t.gid) cls (x.agent s).asid
    s.resume x.tk x.pi

/-- The read of a child's block by a path that waits for it. -/
def launchRead (s : State) (tk pi : Nat) : State :=
  match s.team tk with
  | none => s
  | some t =>
    match t.path pi with
    | none => s
    | some p =>
      match p.st with
      | .waiting (.launch addr lane upTo) =>
        let x : Issuer := { tk := tk, t := t, pi := pi, path := p }
        if t.halted || !t.performedTo upTo || t.replay.any (fun r => r.access == .launch && r.path == pi) then s
        else
          match vread s (x.engine s) addr.toNat 256 with
          | .ok (s, bs) => launchWith s x addr lane upTo bs
          | .error (s', c, sub, va) =>
            if t.sup then supervisorTrap s tk pi c sub p.pc (BitVec.ofNat 64 va)
            else addReplay s' tk (newReplay s t pi p.pc .launch none true)
              [({ lane := lane, addr := BitVec.ofNat 64 va, data := [loWord addr, hiWord addr] }, c, sub, va)]
      | _ => s

/-- LAUNCH_BLOCK_READ. -/
def execLaunchBlockRead (tk path : Nat) (s : State) : Out := .next (launchRead s tk path)

/-! ### Segments and FETCHW (02 R37, R38, 07 R195) -/

/-- A SPLIT team's next segment of the iterations from first to last, cut at the tile boundary; the empty values when
none is left (02 R38). -/
def Team.nextSegment (t : Team) (kiter : Nat) : Team :=
  if t.segNext < t.segLast then
    let tile := t.segNext / kiter
    let stop := min t.segLast ((tile + 1) * kiter)
    let lo := t.segNext - tile * kiter
    let hi := stop - tile * kiter
    { t with tile := BitVec.ofNat 32 tile, klo := BitVec.ofNat 32 lo, khi := BitVec.ofNat 32 hi,
             fixup := BitVec.ofNat 32 ((if 0 < lo then 1 else 0) + if hi < kiter then 2 else 0), segNext := stop }
  else { t with tile := 0xFFFFFFFF, klo := 0, khi := 0, fixup := 0 }

/-- The 16 mailbox bytes of a hand-over of work index i, or of one that finds no work left (02 R37). -/
def mailbox (l : Lpb) (i : Nat) : List Byte :=
  if i < l.mf 0 * l.mf 1 * l.mf 2 then
    bytesOf 4 1 ++ bytesOf 4 i ++ bytesOf 2 (i % l.mf 0) ++ bytesOf 2 (i / l.mf 0 % l.mf 1)
      ++ bytesOf 2 (i / (l.mf 0 * l.mf 1)) ++ bytesOf 2 0
  else bytesOf 4 2 ++ bytesOf 12 0

/-- fetchw by the launch mode of the team's grid; the supervisor's is DENSE (07 R195). -/
def execFetchw (h : Hdr) (s : State) : Out :=
  withIssuer s fun x =>
    match x.elected h, (if x.t.sup then none else s.grid x.t.gid) with
    | some lane, some g =>
      if g.lpb.mode = 2 then
        if x.t.scratch < g.lpb.mf 3 + 16 then trapElected s x 0x0C 0 (BitVec.ofNat 64 (g.lpb.mf 3)) lane
        else
          ({ s with mails := s.mails ++ [(x.tk, mailbox g.lpb g.work)],
                    grids := kmod s.grids x.t.gid fun g => { g with work := g.work + 1 } }).pass x 4 h.s
      else if g.lpb.mode = 3 then (s.modTeam x.tk fun t => t.nextSegment (g.lpb.mf 1)).pass x 4 h.s
      else s.pass x 4 h.s
    | _, _ => s.pass x 4 h.s

/-- FETCH_MAILBOX_WRITE: INDEX, X, Y and Z before FLAG, in the team's scratchpad wherever its cohort's state stands, so that
a team at waitc on FLAG is woken (02 R37, R41, 15 R329). -/
def execFetchMailboxWrite (k : Nat) (s : State) : Out :=
  .next <| match s.mails[k]? with
    | none => s
    | some (tk, bs) =>
      match s.team tk with
      | none => { s with mails := dropAt s.mails k }
      | some t =>
        let s := { s with mails := dropAt s.mails k }
        match s.grid t.gid with
        | none => s
        | some g => scrWrite (scrWrite s tk (g.lpb.mf 3 + 4) (bs.drop 4)) tk (g.lpb.mf 3) (bs.take 4)

/-! ### Placement (16 R344, R345, R423) -/

/-- A reservation on a core: first register and count, first scratchpad byte and count, engine, first tile and count;
the slot while the team lives (16 R423, 07 R175, 09 R224). -/
structure Resv where
  core : Nat
  slot : Option Nat
  vbase : Nat
  vlen : Nat
  sbase : Nat
  slen : Nat
  engine : Nat
  tile : Nat
  tiles : Nat
  deriving DecidableEq, Repr

/-- A team's reservation: its slot and registers last as long as it lives, its scratchpad and tiles as long as its
cohort is on its cores. -/
def Team.resv (t : Team) : Resv :=
  { core := t.core, slot := if t.live then some t.slot else none, vbase := t.vbase,
    vlen := if t.live then t.width * t.vregs else 0, sbase := t.sbase,
    slen := t.scratch + spillBytes t.npaths t.width, engine := t.accEngine, tile := t.accTile, tiles := t.acct }

/-- Every reservation that stands. -/
def reservations (s : State) : List Resv := (s.teams.filter fun e => onCore s e.2).map fun e => e.2.resv

/-- The lowest base at which n units fit below a limit beside some ranges; an empty range takes no room (16 R423). -/
def lowestBase (ranges : List (Nat × Nat)) (n limit : Nat) : Option Nat :=
  let used := ranges.filter fun r => r.2 != 0
  let fits (b : Nat) : Bool := decide (b + n ≤ limit) && used.all fun r => !overlap b n r.1 r.2
  ((0 :: used.map fun r => r.1 + r.2).filter fits).foldl
    (fun acc b => match acc with
      | some a => some (min a b)
      | none => some b) none

/-- The tiles of an engine for a team: engine 0 before engine 1 (09 R224, 16 R345). -/
def tilesFor (rs : List Resv) (cluster n : Nat) : Option (Nat × Nat) :=
  if n = 0 then some (0, 0)
  else
    let used (e : Nat) := (rs.filter fun r => r.core / 8 == cluster && r.engine == e).map fun r => (r.tile, r.tiles)
    ((lowestBase (used 0) n 4).map fun b => (0, b)).orElse fun _ => (lowestBase (used 1) n 4).map fun b => (1, b)

/-- The reservation that a core gives a team of a launch, when it has room (16 R345). Of its free team slots it is the lowest,
which the spec leaves open (DESIGN CHOICE, log 54). -/
def roomFor (rs : List Resv) (l : Lpb) (core : Nat) : Option Resv :=
  let mine := rs.filter fun r => r.core == core
  let slot := lowestFree (mine.filterMap Resv.slot) 16 0
  let slen := l.scratch + spillBytes l.paths l.teamw
  match lowestBase (mine.map fun r => (r.vbase, r.vlen)) (l.teamw * l.vregs) 65536,
      lowestBase (mine.map fun r => (r.sbase, r.slen)) slen 196608, tilesFor rs (core / 8) l.acct with
  | some v, some b, some (e, t) =>
    if slot < 16 then
      some { core := core, slot := some slot, vbase := v, vlen := l.teamw * l.vregs, sbase := b, slen := slen,
             engine := e, tile := t, tiles := l.acct }
    else none
  | _, _, _ => none

/-- The first core of a cyclic list, from a position on, with room; the position comes with the reservation. -/
def firstRoom (rs : List Resv) (l : Lpb) (list : List Nat) (pos : Nat) : Option (Nat × Resv) :=
  let n := list.length
  ((List.range n).map fun i => (pos + i) % n).findSome? fun i => (roomFor rs l (list.getD i 0)).map fun r => (i, r)

/-- Reservations for k teams one after another, or none when one does not fit (16 R345). -/
def reserveTeams (rs : List Resv) (l : Lpb) (list : List Nat) : Nat → Nat → Option (List Resv)
  | 0, _ => some []
  | k + 1, pos =>
    match firstRoom rs l list pos with
    | none => none
    | some (i, r) => (reserveTeams (rs ++ [r]) l list k (i + 1)).map fun t => r :: t

/-- The cores of a span in ascending number, rotated to start at p when it lies in the span; die core numbers. -/
def spanCores (first span p : Nat) : List Nat :=
  let all := (List.range (8 * span)).map fun i => 8 * first + i
  if all.contains p then (all.filter fun c => p ≤ c) ++ all.filter fun c => c < p else all

/-- A free barrier block of a cluster (07 R191). -/
def freeBlock (s : State) (die cluster : Nat) : Option Nat :=
  let used := (s.cohorts.filter fun e => e.2.die == die && e.2.cluster == cluster && e.2.place == .resident).filterMap
    fun e => e.2.block
  let b := lowestFree used 32 0
  if b < 32 then some b else none

/-- The created teams of cohort c (02 R36). -/
def createdTeams (g : Grid) (c : Nat) : List Nat :=
  if g.lpb.perLeaf then (List.range g.lpb.teams).filter fun t => decide (c * g.lpb.teams + t < g.leafSet.length)
  else List.range g.lpb.teams

/-- Where a cohort of k teams goes: first cluster, block and reservations; none when it does not fit (16 R345). -/
def findSpan (s : State) (halves : BitVec 8) (die p : Nat) (l : Lpb) (k : Nat) : Option (Nat × Option Nat × List Resv) :=
  let rs := reservations s
  ((List.range 64).map fun i => (p / 8 + i) % 64).findSome? fun c =>
    if c + l.span ≤ 64 ∧ ((List.range l.span).all fun j => halves.getLsbD (2 * die + (c + j) / 32))
        ∧ (k ≤ 1 ∨ (freeBlock s die c).isSome) then
      (reserveTeams rs l ((spanCores c l.span p).map fun n => 512 * die + n) k 0).map
        fun r => (c, if k ≤ 1 then none else freeBlock s die c, r)
    else none

/-- One path at the entry with every lane active (02 R42). -/
def startPath (w : Nat) (entry : Dword) : Path :=
  { pc := entry, mask := fullMask w, fmt := 0, entryFmt := 0, st := .ready, mark := false, hold := false, skipBp := 0,
    trap := none }

/-- A team in its start state (02 R42) with the counts given; z1 holds ARGS. -/
def startTeam (w vregs sregs npaths acct scratch : Nat) (fpm : Word) (entry args : Dword) : Team :=
  { asid := 0, debug := false, profile := false, gid := 0, cid := 0, cohort := 0, team := 0, core := 0, slot := 0,
    sup := false, width := w, vregs := vregs, sregs := sregs, npaths := npaths, acct := acct, scratch := scratch,
    vbase := 0, sbase := 0, accEngine := 0, accTile := 0, v := [], p := [],
    s := dput 0 (dput 0 [] 2 (loWord args)) 3 (hiWord args), q := 0, fpm := fpm, fst := 0,
    scr := [], tiles := [], scaleBase0 := 0, scaleCtl0 := 0, scaleBase1 := 0, scaleCtl1 := 0, ops := [], long := [],
    replay := [], paths := [(0, startPath w entry)], wait := .none, halted := false, wdcnt := 0, fscnt := 0, expired := [], replayDue := false, letGo := [],
    tokenAsked := false, token := false, leaf := 0xFFFFFFFF, tile := 0, klo := 0, khi := 0, fixup := 0,
    segNext := 0, segLast := 0, live := true, ended := false, scales := [] }

/-- A team of a launch in its start state. -/
def launchTeam (l : Lpb) : Team :=
  startTeam l.teamw l.vregs l.sregs l.paths l.acct l.scratch l.fpminit l.entry l.args

/-- A team at its place. -/
def Team.at_ (t : Team) (r : Resv) : Team :=
  { t with core := r.core, slot := r.slot.getD 0, vbase := r.vbase, sbase := r.sbase, accEngine := r.engine,
           accTile := r.tile }

/-- The mode's special values of team n of cohort c at its start (02 R36, R38, R42). -/
def Team.modeStart (t : Team) (g : Grid) (c n : Nat) : Team :=
  let l := g.lpb
  match l.mode with
  | 1 => { t with leaf := BitVec.ofNat 32 (g.leafSet.getD (if l.perLeaf then c * l.teams + n else c) 0) }
  | 3 =>
    let total := l.mf 0 * l.mf 1
    ({ t with segNext := c * total / l.mf 2, segLast := (c + 1) * total / l.mf 2 }).nextSegment (l.mf 1)
  | _ => t

/-- The instruction-cache lines of an address space leave the cores of a die (03 R89). -/
def clearICache (s : State) (die gasid : Nat) : State :=
  { s with icache := s.icache.filter fun e => !(e.1 / 2 ^ 61 / 512 == die && nbits e.1 45 16 == gasid) }

/-- The keys that teams of a partition hold whose context is in a cellar or in an image (15 R320, R327). -/
def takenKeys (s : State) (pn : Nat) : List Nat :=
  (storedContexts s).flatMap fun x => (x.teams.map Prod.fst).filter fun k => k / 65536 == pn

/-- A cohort placed: its teams in their start state, each with the lowest free TID (02 R42, 15 R320; log 14). -/
def placeCohort (s : State) (gid : Nat) (g : Grid) (die c cluster : Nat) (block : Option Nat) (rs : List Resv) : State :=
  let pn := gid / 65536
  let cid := s.nextCid
  let s := if g.cleared.contains die then s else clearICache s die (pn * 8192 + g.asid)
  let made := ((createdTeams g c).zip rs).foldl
    (fun (acc : List (Nat × Team) × List Nat) e =>
      let tk := lowestFree (acc.1.map Prod.fst ++ takenKeys s pn) 65535 (pn * 65536 + 1)
      let t := { (((launchTeam g.lpb).at_ e.2).modeStart g c e.1) with
        asid := g.asid, debug := g.lpb.flags.getLsbD 1, profile := g.lpb.flags.getLsbD 2, gid := gid, cid := cid,
        cohort := c, team := e.1, halted := g.halted }
      (kput acc.1 tk t, acc.2 ++ [tk])) (s.teams, [])
  let s := { s with
    nextCid := s.nextCid + 1, teams := made.1,
    cohorts := kput s.cohorts cid { gid := gid, idx := c, die := die, cluster := cluster, span := g.lpb.span,
                                    block := block, teams := made.2, place := .resident, barSkew := [],
                                    draining := false } }
  let s := s.modGrid gid fun g =>
    { g with placed := true, cleared := if g.cleared.contains die then g.cleared else g.cleared ++ [die],
             unplaced := g.unplaced.erase (die, c) }
  s.modPart pn fun p =>
    { p with procs := kmod p.procs die fun q =>
        { q with ptr := ((rs.getLast?.map Resv.core).getD 0 % 512 + 1) % 512 } }

/-- The claimed, unplaced cohorts of a grid on a die: the lowest index (02 R39). -/
def Grid.waitingCohort (g : Grid) (die : Nat) : Option Nat :=
  ((g.unplaced.filter fun e => e.1 == die).map Prod.snd).foldl
    (fun acc c => match acc with
      | some a => some (min a c)
      | none => some c) none

/-- The head grid of a processor: the first by descending depth, then by arrival, with cohorts left to claim or to place
(16 R344). -/
def headGrid (s : State) (pn die : Nat) : Option (Nat × Grid) :=
  (((klook (s.part pn).procs die).map Proc.pending).getD []).foldl
    (fun acc gid =>
      match s.grid gid with
      | none => acc
      | some g =>
        if g.claiming.contains die || (g.waitingCohort die).isSome then
          match acc with
          | some (h, b) => if b.depth < g.depth then some (gid, g) else some (h, b)
          | none => some (gid, g)
        else acc) none

/-- A team of the grid is halted, on the device or in a stored context, where every team is (15 R326, R328). -/
def hasHalted (s : State) (gid : Nat) : Bool :=
  (s.teams.any fun e => e.2.gid == gid && !e.2.sup && e.2.live && e.2.halted)
    || (storedContexts s).any fun x => x.teams.any fun e => e.2.gid == gid

/-- The launches and placements of a halted grid are held back while a team of it is halted, and while its partition is
halted as a whole (15 R326; log 52). -/
def heldBack (s : State) (gid : Nat) (g : Grid) : Bool := g.halted && ((s.part (gid / 65536)).haltAll || hasHalted s gid)

/-- A processor can claim for its head grid. -/
def canClaim (s : State) (pn die : Nat) : Bool :=
  match headGrid s pn die with
  | some (gid, g) => g.claiming.contains die && (g.waitingCohort die).isNone && !heldBack s gid g
  | none => false

/-- COHORT_CLAIM: one atomic add at TICKET; a value of N or more ends the processor's part of the launch (02 R34). -/
def execCohortClaim (pnum die : Nat) (s : State) : Out :=
  .next <| match headGrid s pnum die with
    | none => s
    | some (gid, g) =>
      if !canClaim s pnum die then s
      else
        match vrmw s (gridAgent s gid g) g.lpb.ticket.toNat 8 (fun n => n + 1) with
        | .error (s, _) => s
        | .ok (s, c) =>
          s.modGrid gid fun g =>
            if c < g.n then { g with unplaced := g.unplaced ++ [(die, c)] }
            else { g with claiming := g.claiming.erase die }

/-- The head cohort of a processor and where it fits. -/
def headFit (s : State) (pn die : Nat) : Option (Nat × Grid × Nat × (Nat × Option Nat × List Resv)) :=
  match headGrid s pn die with
  | none => none
  | some (gid, g) =>
    if heldBack s gid g then none
    else
      match g.waitingCohort die with
      | none => none
      | some c =>
        (findSpan s (s.part pn).halves die (((klook (s.part pn).procs die).map Proc.ptr).getD 0) g.lpb
          (createdTeams g c).length).map fun r => (gid, g, c, r)

/-- COHORT_PLACEMENT: the head cohort is placed when it fits (16 R345). -/
def execCohortPlacement (pnum die : Nat) (s : State) : Out :=
  .next <| match headFit s pnum die with
    | none => s
    | some (gid, g, c, r) => placeCohort s gid g die c r.1 r.2.1 r.2.2

/-! ### Retirement (02 R29, R48) -/

/-- A cohort all of whose created teams have retired leaves the device with its reservations (02 R29, 07 R175). -/
def retireCohort (s : State) (cid : Nat) : State :=
  match klook s.cohorts cid with
  | none => s
  | some c =>
    if c.teams.all fun k => match s.team k with
        | some t => !t.live && !t.ended
        | none => true then
      { s with cohorts := kdel s.cohorts cid, teams := s.teams.filter fun e => !(c.teams.contains e.1) }
    else s

/-- A team with an empty path table whose accesses and commands have completed (02 R48). -/
def Team.spent (s : State) (tk : Nat) (t : Team) : Bool :=
  t.live && t.paths.isEmpty && t.wait == .none && t.ops.isEmpty && t.long.isEmpty && t.replay.isEmpty
    && !(s.mails.any fun m => m.1 == tk) && !(s.cmds.any fun c => c.tk == tk)

/-- TEAM_RETIRE: the team's slot and registers are free, the cohort's barriers and regroup count the rest, and the
cohort retires with its last team; the supervisor's exit leaves the partition without one (15 R319, R404). -/
def execTeamRetire (tk : Nat) (s : State) : Out :=
  .next <| match s.team tk with
    | none => s
    | some t =>
      if !Team.spent s tk t then s
      else
        let s := (dropTeamWork s tk).modTeam tk fun t => t.close false
        if t.sup then failSupervisor s (pnumOf tk) 2 0 0
        else
          let s := match (cohortLive s tk t).head? with
            | some e => cohortTry s e.1
            | none => s
          retireCohort s t.cid

/-- A cohort of a grid has not retired: it is on the device, or its context is stored (02 R29, 15 R327). -/
def hasCohort (s : State) (gid : Nat) : Bool :=
  (s.cohorts.any fun e => e.2.gid == gid) || (storedContexts s).any fun x => x.cohorts.any fun e => e.2.gid == gid

/-- A grid can retire: no cohort left to claim, place or retire, no child, and not failed (02 R29, 18 R383). -/
def Grid.spent (s : State) (gid : Nat) (g : Grid) : Bool :=
  g.claiming.isEmpty && g.unplaced.isEmpty && !g.failed && !hasCohort s gid
    && !(s.grids.any fun e => e.2.parent == some gid)

/-- GRID_RETIRE (02 R29). -/
def execGridRetire (gid : Nat) (s : State) : Out :=
  .next <| match s.grid gid with
    | none => s
    | some g => if Grid.spent s gid g then retireGrid s gid else s

end Sys2Proof.Machine
end

