-- ==== Sys2Proof/Machine/PhysMap.lean ====
section
/-!
DEFINITION. The on-chip physical map, space 3 of a copy command (15 R330-R332, 19 R397): register files, scratchpads with
their spill areas, accumulator tiles, team state blocks and barrier blocks. A free slot or reservation reads zero and
takes no write.
-/
namespace Sys2Proof.Machine

/-! ### Addresses (15 R330) -/

/-- The extent of the window of a KIND. -/
def mapExtent (kind : Nat) : Nat := [262144, 196608, 1048576, 67584].getD kind 0

/-- A space-3 address names bytes inside a window of the partition's halves. A KIND 3 address at OFFSET 65,536 or above with
CORE not 0 lies inside the extent but names no barrier block: it reads 0 and ignores writes (15 R330; DESIGN CHOICE,
log 54). -/
def mapOk (halves : BitVec 8) (addr len : Nat) : Bool :=
  let kind := nbits addr 34 2
  decide (addr < 2 ^ 36) && !(kind == 2 && nbits addr 24 2 != 0) && decide (nbits addr 0 23 + len ≤ mapExtent kind)
    && halves.getLsbD (2 * nbits addr 32 2 + nbits addr 26 6 / 32)

/-- The core of an address, as teams number cores. -/
def mapCore (addr : Nat) : Nat := 512 * nbits addr 32 2 + 8 * nbits addr 26 6 + nbits addr 23 3

/-! ### State blocks (15 R331, 19 R397) -/

/-- Insertion by rising PC, then logical index. -/
def insertPath (e : Nat × Path) : List (Nat × Path) → List (Nat × Path)
  | [] => [e]
  | f :: t => if e.2.pc.toNat < f.2.pc.toNat then e :: f :: t else f :: insertPath e t

/-- The logical indices held in hardware: those of the 16 lowest PCs (02 R50). -/
def hardwareIndices (t : Team) : List Nat :=
  ((t.paths.foldl (fun acc e => insertPath e acc) []).take 16).map Prod.fst

/-- The paths held in hardware, or those spilled, by ascending logical index. -/
def pathsHeld (t : Team) (hardware : Bool) : List (Nat × Path) :=
  t.paths.filter fun e => (hardwareIndices t).contains e.1 == hardware

/-- STATE of a path entry: a hold shows only when no other state of the path does (18 R389). -/
def pathStateCode (p : Path) : Nat :=
  match p.st with
  | .ready => if p.hold then 4 else 0
  | .parked => 1
  | .counting _ _ => 2
  | .faulted => 3
  | .waiting _ => 1

/-- The bytes of a path entry with k mask words; unused when there is none. -/
def pathEntry (k : Nat) : Option (Nat × Path) → List Byte
  | none => bytesOf 16 0 ++ bytesOf 1 0xFF ++ bytesOf (15 + 4 * k) 0
  | some (i, p) =>
    bytesOf 8 p.pc.toNat ++ bytesOf 4 p.fmt.toNat ++ bytesOf 4 p.entryFmt.toNat ++ bytesOf 1 (pathStateCode p)
      ++ bytesOf 1 i ++ bytesOf 2 0 ++ bytesOf 4 (summary p.mask).toNat ++ bytesOf 8 0
      ++ (List.range k).flatMap fun j => bytesOf 4 (maskWord p.mask j).toNat

/-- STATE of a team: its whole-team wait, which a halted team's shows too, before its halt (15 R331, 19 R396); a barrier that
has completed is no wait any more. -/
def teamStateCode (t : Team) : Nat :=
  match t.wait with
  | .waitc _ _ _ _ _ _ _ => 3
  | .bar _ _ false => 4
  | .regroup _ _ => 5
  | .bar _ _ true | .none => if t.halted then 2 else 1

/-- The 4,096 bytes of a team's state block. -/
def stateBlock (tk : Nat) (t : Team) : List Byte :=
  bytesOf 2 (tidOf tk) ++ bytesOf 2 (t.gid % 65536) ++ bytesOf 4 t.cohort ++ bytesOf 2 t.team ++ bytesOf 2 t.width
    ++ bytesOf 1 t.vregs ++ bytesOf 1 t.sregs ++ bytesOf 1 t.npaths ++ bytesOf 1 t.acct ++ bytesOf 4 t.vbase
    ++ bytesOf 4 t.sbase ++ bytesOf 1 (t.accEngine + 2 * t.accTile) ++ bytesOf 1 (teamStateCode t) ++ bytesOf 2 0
    ++ bytesOf 4 t.fpm.toNat ++ bytesOf 4 t.fst.toNat ++ ((List.range 8).flatMap fun a => bytesOf 1 (t.counter a))
    ++ bytesOf 4 (t.wdcnt / 1024) ++ bytesOf 1 t.q.toNat ++ bytesOf 15 0
    ++ ((List.range 64).flatMap fun r => bytesOf 4 (t.sr r).toNat)
    ++ bytesOf 8 t.scaleBase0.toNat ++ bytesOf 4 t.scaleCtl0.toNat ++ bytesOf 4 0
    ++ bytesOf 8 t.scaleBase1.toNat ++ bytesOf 4 t.scaleCtl1.toNat ++ bytesOf 4 0 ++ bytesOf 160 0
    ++ ((List.range 16).flatMap fun j => pathEntry 32 (pathsHeld t true)[j]?)
    ++ ((List.range 7).flatMap fun i => (List.range 32).flatMap fun j => bytesOf 4 (maskWord (dget 0 t.p i) j).toNat)
    ++ bytesOf 128 0

/-- A path with the writable fields of an entry. -/
def Path.withEntry (p : Path) (bs : List Byte) : Path :=
  { p with pc := BitVec.ofNat 64 (fieldAt bs 0 8), fmt := BitVec.ofNat 32 (fieldAt bs 8 4),
           entryFmt := BitVec.ofNat 32 (fieldAt bs 12 4) }

/-- A scale register's control word without its reserved bits [7:5], which read zero (09 R235, 00 R5). -/
def scaleCtlOf (w : Nat) : Word := BitVec.ofNat 32 w &&& ~~~0xE0

/-- A team with the writable fields of a state block; an FPM that holds a reserved value is not taken (log 21). -/
def Team.withBlock (t : Team) (bs : List Byte) : Team :=
  let fpm : Word := BitVec.ofNat 32 (byteAt bs 0x1C)
  let t' := { t with
    fpm := if fpmOk fpm then fpm else t.fpm, fst := BitVec.ofNat 32 (fieldAt bs 0x20 4) &&& 0x7F,
    q := BitVec.ofNat 3 (byteAt bs 0x30),
    scaleBase0 := BitVec.ofNat 64 (fieldAt bs 0x140 8), scaleCtl0 := scaleCtlOf (fieldAt bs 0x148 4),
    scaleBase1 := BitVec.ofNat 64 (fieldAt bs 0x150 8), scaleCtl1 := scaleCtlOf (fieldAt bs 0x158 4) }
  let t' := t'.writes ((List.range 64).map fun r => RegWrite.s r (BitVec.ofNat 32 (fieldAt bs (0x40 + 4 * r) 4)))
  let t' := (pathsHeld t true).zipIdx.foldl
    (fun (u : Team) e => u.modPath e.1.1 fun p => p.withEntry (bs.drop (0x200 + 160 * e.2))) t'
  (List.range 7).foldl
    (fun (u : Team) i =>
      { u with p := dput 0 u.p i (BitVec.ofNat 1024 (fieldAt bs (0xC00 + 128 * i) 128) &&& fullMask t.width) }) t'

/-! ### Finding what a byte belongs to -/

/-- The teams on a core: live ones, or any whose reservation stands. -/
def teamsOn (s : State) (core : Nat) (mustLive : Bool) : List (Nat × Team) :=
  s.teams.filter fun e => e.2.core == core && onCore s e.2 && (e.2.live || !mustLive)

/-- The bytes of a spilled path entry. -/
def spillEntry (w : Nat) : Nat := 32 + 4 * (w / 32)

/-- The spill area of a team as bytes (02 R50). -/
def spillArea (t : Team) : List Byte :=
  (List.range (t.npaths - 16)).flatMap fun i => pathEntry (t.width / 32) (pathsHeld t false)[i]?

/-- The cohort that holds a barrier block of a cluster. -/
def blockOwner (s : State) (die cluster b : Nat) : Option (Nat × Cohort) :=
  s.cohorts.find? fun e => e.2.die == die && e.2.cluster == cluster && e.2.block == some b && e.2.place == .resident

/-- The arrivals at a slot of a cohort. -/
def arrivalsAt (s : State) (c : Cohort) (slot : Nat) : Nat :=
  ((c.teams.filter fun k => match s.team k with
    | some t => match t.wait with
      | .bar _ i done => i == slot && !done
      | _ => false
    | none => false).length + dget 0 c.barSkew slot) % 32

/-- A byte of the map, at an address whose extent has been checked. -/
def mapByte (s : State) (addr : Nat) : Byte :=
  let core := mapCore addr
  let off := nbits addr 0 23
  match nbits addr 34 2 with
  | 0 =>
    match (teamsOn s core true).find? fun e => decide (e.2.vbase ≤ off / 4 ∧ off / 4 < e.2.vbase + e.2.width * e.2.vregs) with
    | some (_, t) =>
      let k := off / 4 - t.vbase
      BitVec.ofNat 8 ((t.vr (k / t.width) (k % t.width)).toNat / 256 ^ (off % 4))
    | none => 0
  | 1 =>
    match (teamsOn s core false).find? fun e =>
        decide (e.2.sbase ≤ off ∧ off < e.2.sbase + e.2.scratch + spillBytes e.2.npaths e.2.width) with
    | some (_, t) =>
      if off - t.sbase < t.scratch then dget 0 t.scr (off - t.sbase)
      else (spillArea t).getD (off - t.sbase - t.scratch) 0
    | none => 0
  | 2 =>
    match s.teams.find? fun e => e.2.core / 8 == core / 8 && onCore s e.2 && e.2.accEngine == core % 2
        && decide (e.2.accTile ≤ off / 262144 ∧ off / 262144 < e.2.accTile + e.2.acct) with
    | some (_, t) =>
      let k := 16384 * (off / 262144 - t.accTile) + off % 262144 / 16
      BitVec.ofNat 8 ((dget 0 t.tiles k).toNat / 256 ^ (off % 16))
    | none => 0
  | _ =>
    if off < 65536 then
      match (teamsOn s core true).find? fun e => e.2.slot == off / 4096 with
      | some (tk, t) => (stateBlock tk t).getD (off % 4096) 0
      | none => 0
    else if core % 8 = 0 then
      let b := (off - 65536) / 64
      match blockOwner s (core / 512) (core / 8 % 64) b with
      | some (_, c) => if off % 4 = 0 then BitVec.ofNat 8 (arrivalsAt s c (off % 64 / 4)) else 0
      | none => 0
    else 0

/-- n bytes of the map. -/
def mapRead (s : State) (addr n : Nat) : List Byte := (List.range n).map fun k => mapByte s (addr + k)

/-- One byte of a word replaced. -/
def putByteIn (w k : Nat) (b : Byte) : Nat := w - w / 256 ^ k % 256 * 256 ^ k + b.toNat * 256 ^ k

/-- Bytes overlaid on others from an offset. -/
def overlay (old : List Byte) (off : Nat) (bs : List Byte) : List Byte :=
  old.take off ++ bs ++ old.drop (off + bs.length)

/-- A byte stored in a register file, a scratchpad, a tile or a barrier block. -/
def mapPut (s : State) (addr : Nat) (b : Byte) : State :=
  let core := mapCore addr
  let off := nbits addr 0 23
  match nbits addr 34 2 with
  | 0 =>
    match (teamsOn s core true).find? fun e => decide (e.2.vbase ≤ off / 4 ∧ off / 4 < e.2.vbase + e.2.width * e.2.vregs) with
    | some (tk, t) =>
      let k := off / 4 - t.vbase
      s.modTeam tk fun t =>
        t.write (.v (k / t.width) (k % t.width)
          (BitVec.ofNat 32 (putByteIn (t.vr (k / t.width) (k % t.width)).toNat (off % 4) b)))
    | none => s
  | 1 =>
    match (teamsOn s core false).find? fun e =>
        decide (e.2.sbase ≤ off ∧ off < e.2.sbase + e.2.scratch + spillBytes e.2.npaths e.2.width) with
    | some (tk, t) =>
      if off - t.sbase < t.scratch then scrWrite s tk (off - t.sbase) [b]
      else
        let o := off - t.sbase - t.scratch
        let sz := spillEntry t.width
        match (pathsHeld t false)[o / sz]? with
        | some (i, p) =>
          s.modTeam tk fun t =>
            t.modPath i fun q => q.withEntry (overlay (pathEntry (t.width / 32) (some (i, p))) (o % sz) [b])
        | none => s
    | none => s
  | 2 =>
    match s.teams.find? fun e => e.2.core / 8 == core / 8 && onCore s e.2 && e.2.accEngine == core % 2
        && decide (e.2.accTile ≤ off / 262144 ∧ off / 262144 < e.2.accTile + e.2.acct) with
    | some (tk, t) =>
      let k := 16384 * (off / 262144 - t.accTile) + off % 262144 / 16
      s.modTeam tk fun t =>
        { t with tiles := dput 0 t.tiles k (BitVec.ofNat 128 (putByteIn (dget 0 t.tiles k).toNat (off % 16) b)) }
    | none => s
  | _ =>
    if core % 8 = 0 ∧ 65536 ≤ off ∧ off % 4 = 0 then
      match blockOwner s (core / 512) (core / 8 % 64) ((off - 65536) / 64) with
      | some (cid, c) =>
        let slot := off % 64 / 4
        let now := (arrivalsAt s c slot + 32 - dget 0 c.barSkew slot) % 32
        { s with cohorts := kmod s.cohorts cid fun c =>
            { c with barSkew := dput 0 c.barSkew slot ((b.toNat % 32 + 32 - now) % 32) } }
      | none => s
    else s

/-- Bytes stored in the map: those of one state block together, for a halted team only (15 R331, R332). -/
def mapWrite (s : State) (addr : Nat) (bs : List Byte) : State :=
  let off := nbits addr 0 23
  if nbits addr 34 2 = 3 ∧ off < 65536 then
    let inBlock (s : State) (addr : Nat) (bs : List Byte) : State :=
      match (teamsOn s (mapCore addr) true).find? fun e => e.2.slot == nbits addr 0 23 / 4096 with
      | some (tk, t) =>
        if t.halted then s.setTeam tk (t.withBlock (overlay (stateBlock tk t) (nbits addr 0 23 % 4096) bs)) else s
      | none => s
    (List.range (ceilDiv (off % 4096 + bs.length) 4096)).foldl
      (fun s k =>
        let lo := if k = 0 then off else off / 4096 * 4096 + 4096 * k
        let hi := min (off + bs.length) (off / 4096 * 4096 + 4096 * (k + 1))
        inBlock s (addr - off + lo) ((bs.drop (lo - off)).take (hi - lo))) s
  else (bs.zipIdx.foldl (fun s e => mapPut s (addr + e.2) e.1) s)

end Sys2Proof.Machine
end

