-- ==== Sys2Proof/Machine/Copy.lean ====
section
/-!
DEFINITION. The copy engine and the network sends (07 R197-R204, R314, R315; 20 R412-R415).
-/
namespace Sys2Proof.Machine

/-! ### Element formats (04 R105) -/

/-- Bits of an element of a format code. -/
def fmtBits (f : Nat) : Nat := [32, 16, 16, 8, 8, 4, 8, 8, 4, 1, 64, 16, 32, 32, 64, 8, 8, 128].getD f 0

/-- The floating-point format of a code. -/
def fmtFloat (f : Nat) : Option FFmt :=
  match f with
  | 0 => some .f32
  | 1 => some .f16
  | 2 => some .bf16
  | 3 => some .e4m3
  | 4 => some .e5m2
  | 5 => some .e2m1
  | _ => none

/-- Planes of a plane group of an A format (09 R230). -/
def planeCount (f : Nat) : Option Nat :=
  match f with
  | 1 => some 18
  | 3 | 4 => some 9
  | 5 => some 5
  | 7 | 6 => some 8
  | 8 => some 4
  | 9 => some 1
  | _ => none

/-- The element's bit in each plane of its group, in group order (09 R230). -/
def planeBits (f w : Nat) : List Bool :=
  match fmtFloat f with
  | some F =>
    [nbits w F.mb F.eb != 0] ++ ((List.range F.mb).map fun i => nbit w (F.mb - 1 - i))
      ++ (if f = 1 then [false] else []) ++ ((List.range F.eb).map fun i => nbit w (F.mb + F.eb - 1 - i))
      ++ [nbit w F.sbit]
  | none => (List.range (fmtBits f)).map fun i => nbit w (fmtBits f - 1 - i)

/-! ### The command (07 R198) -/

/-- A copy command as read at issue. -/
structure CopyCmd where
  kind : Nat
  ssp : Nat
  dsp : Nat
  sf : Nat
  df : Nat
  conv : Nat
  resv : Nat
  src : Nat
  dst : Nat
  rows : Nat
  elems : Nat
  sstr : Int
  dstr : Int
  index : Nat
  net : Nat
  scales : Nat
  deriving DecidableEq, Repr

/-- The command in 64 bytes. -/
def copyOf (bs : List Byte) : CopyCmd :=
  { kind := byteAt bs 0, ssp := byteAt bs 1 % 16, dsp := byteAt bs 1 / 16, sf := byteAt bs 2, df := byteAt bs 3,
    conv := byteAt bs 4, resv := fieldAt bs 5 3, src := fieldAt bs 8 8, dst := fieldAt bs 0x10 8,
    rows := fieldAt bs 0x18 4, elems := fieldAt bs 0x1C 4, sstr := sintN 64 (fieldAt bs 0x20 8),
    dstr := sintN 64 (fieldAt bs 0x28 8), index := fieldAt bs 0x30 4, net := fieldAt bs 0x34 4,
    scales := fieldAt bs 0x38 8 }

/-- MX scales on the destination. -/
def CopyCmd.mx (c : CopyCmd) : Bool := nbit c.conv 4
/-- Source and destination row sizes in bits. -/
def CopyCmd.srcBits (c : CopyCmd) : Nat := c.elems * fmtBits c.sf
def CopyCmd.dstBits (c : CopyCmd) : Nat := c.elems * fmtBits c.df
/-- The row is converted: KIND 2, or KIND 3 between different formats. -/
def CopyCmd.converts (c : CopyCmd) : Bool := c.kind == 2 || (c.kind == 3 && c.sf != c.df)

/-- A base as the engine adds strides to it: signed in global space, whose halves lie around zero (07 R173). -/
def copyBase (space base : Nat) : Int := if space = 0 then sintN 64 base else (base : Int)
/-- The row base of a source row with the row number or index i. -/
def CopyCmd.srcRow (c : CopyCmd) (i : Nat) : Int := copyBase c.ssp c.src + i * c.sstr
/-- The row base of destination row r. -/
def CopyCmd.dstRow (c : CopyCmd) (r : Nat) : Int := copyBase c.dsp c.dst + r * c.dstr
/-- The first scale byte of row r (07 R200). -/
def CopyCmd.scaleRow (c : CopyCmd) (r : Nat) : Int := copyBase c.dsp c.scales + (r * (c.elems / 32) : Nat)

/-! ### Checks at issue (07 R203, R314, R315; 20 R413) -/

/-- Subcode 0: kinds, spaces and formats. -/
def CopyCmd.bad0 (c : CopyCmd) : Bool :=
  let from_ := c.sf == 0 || c.sf == 1 || c.sf == 2
  let toNum := decide (c.df ≤ 6)
  decide (4 < c.kind) || decide (3 < c.ssp) || decide (3 < c.dsp) || decide (17 < c.sf) || decide (17 < c.df)
    || match c.kind with
      | 2 => !(from_ && toNum && (!c.mx || (c.df == 3 || c.df == 4 || c.df == 5)))
      | 3 => (planeCount c.df).isNone || c.mx || !(c.sf == c.df || (from_ && toNum))
      | 4 => c.sf != c.df || decide (1 < c.ssp) || c.dsp != 0
      | _ => c.sf != c.df

/-- Subcode 1: reserved fields and bits. A field that R198 has 0 in the commands that do not read it is taken as reserved
there (log 47). -/
def CopyCmd.bad1 (c : CopyCmd) : Bool :=
  c.resv != 0 || decide (32 ≤ c.conv) || (c.converts && decide (5 < c.conv % 8))
    || ((c.kind == 0 || c.kind == 1 || c.kind == 4) && c.conv != 0) || (c.kind != 1 && c.index != 0)
    || (c.kind != 4 && c.net != 0) || (!c.mx && c.scales != 0)
    || (c.kind == 4 && (nbits c.net 3 5 != 0 || nbits c.net 24 8 != 0))

/-- Subcode 2 of the fields. -/
def CopyCmd.bad2 (c : CopyCmd) : Bool :=
  decide (c.rows < 1) || decide (16777216 < c.rows) || decide (c.elems < 1) || decide (16777216 < c.elems)
    || c.srcBits % 8 != 0 || c.dstBits % 8 != 0 || (c.mx && c.elems % 32 != 0)
    || (c.kind == 3 && (c.rows != 128 || c.elems % 32 != 0 || c.dstr != 0 || (c.dsp != 1 && c.dsp != 2)))
    || (c.kind == 4 && decide (2 ^ 31 < c.srcBits / 8))

/-- Subcode 4: alignment. -/
def CopyCmd.bad4 (c : CopyCmd) : Bool :=
  let ss := max 1 (fmtBits c.sf / 8)
  let ds := max 1 (fmtBits c.df / 8)
  c.src % ss != 0 || c.sstr % (ss : Int) != 0 || (c.kind == 1 && c.index % 4 != 0)
    || (if c.kind = 3 then c.dst % 64 != 0 else c.dst % ds != 0 || c.dstr % (ds : Int) != 0)

/-- One row's extent fails: subcode 5 in global space, else 2. -/
def badExtent (s : State) (tk : Nat) (t : Team) (space : Nat) (a : Int) (n : Nat) : Option Nat :=
  match space with
  | 0 => if -((2 ^ 51 : Nat) : Int) ≤ a ∧ a + n ≤ ((2 ^ 51 : Nat) : Int) then none else some 5
  | 1 => if 0 ≤ a ∧ a + n ≤ (t.scratch : Int) then none else some 2
  | 2 =>
    match windowTarget s tk t a.toNat with
    | some (k, off) =>
      if 0 ≤ a ∧ off + n ≤ ((s.team k).map Team.scratch).getD 0 then none else some 2
    | none => some 2
  | _ => if 0 ≤ a ∧ mapOk (s.part (pnumOf tk)).halves a.toNat n then none else some 2

/-- The source row indices at issue: the row numbers, or the words of KIND 1's index list that lie in the scratchpad
(07 R199). -/
def CopyCmd.indices (c : CopyCmd) (t : Team) : List Nat :=
  if c.kind = 1 then
    (List.range (min c.rows ((t.scratch - c.index) / 4))).map fun r => natOfBytes (cellsRead t.scr (c.index + 4 * r) 4)
  else List.range c.rows

/-- The first failing extent, for the source, the destination, the index list and the scales (07 R203). The source's base
is a canonical address of its own beside its rows: with KIND 1 no row need begin there. -/
def CopyCmd.badExtents (s : State) (tk : Nat) (t : Team) (c : CopyCmd) : Option Nat :=
  let listOk := c.kind != 1 || decide (c.index + 4 * c.rows ≤ t.scratch)
  let base := if c.ssp = 0 then badExtent s tk t 0 (copyBase 0 c.src) 1 else none
  let src := base.orElse fun _ =>
    (c.indices t).findSome? fun i => badExtent s tk t c.ssp (c.srcRow i) (c.srcBits / 8)
  let dst :=
    if c.kind = 4 then none
    else if c.kind = 3 then
      badExtent s tk t c.dsp c.dst (c.elems / 32 * (512 * (planeCount c.df).getD 0))
    else (List.range c.rows).findSome? fun r => badExtent s tk t c.dsp (c.dstRow r) (c.dstBits / 8)
  let sca := if c.mx then
      (List.range c.rows).findSome? fun r => badExtent s tk t c.dsp (c.scaleRow r) (c.elems / 32)
    else none
  src.orElse fun _ => dst.orElse fun _ => (if listOk then none else some 2).orElse fun _ => sca

/-- The record of a queue-pair handle of a port (20 R413). -/
def qpRecord (s : State) (port q : Nat) : List Byte :=
  physRead s 0 ((dget Port.reset s.ports port).qpbase.toNat + 64 * q) 64

/-- The handle is open on the port for a partition (20 R413). -/
def handleOpen (s : State) (port q pn : Nat) : Bool :=
  let p := dget Port.reset s.ports port
  let ctl := byteAt (qpRecord s port q) 0
  p.up && decide (q < p.qpcnt.toNat) && nbit ctl 0 && nbits ctl 1 3 == pn

/-- The first failing check of a command, as a subcode of cause 0x10 (07 R203). Space 3 in user mode is subcode 3, as R203 and
15 R319 have it, where 15 R338 and 18 R378 list it under cause 0x02 (DEDUCED, log 55). -/
def CopyCmd.check (s : State) (x : Issuer) (c : CopyCmd) : Option Nat :=
  if c.bad0 then some 0
  else if c.bad1 then some 1
  else if c.bad2 then some 2
  else if !x.t.sup && (c.ssp == 3 || c.dsp == 3) then some 3
  else if c.bad4 then some 4
  else
    match c.badExtents s x.tk x.t with
    | some e => some e
    | none =>
      if c.kind = 4 ∧ !handleOpen s (nbits c.net 0 3) (nbits c.net 8 16) (pnumOf x.tk) then some 6 else none

/-- cp: the command is read, checked and handed to the copy engine, which for KIND 4 has read the queue pair's record
(07 R197, R203; 20 R413); the team's scale-cache lines go (09 R237). What the command reads at issue, its KIND 1 indices
included, it reads after every access that the team issued before it: until those have been performed, the path stalls
(08 R222). An offset that is misaligned and beyond SCRATCH has cause 0x08, the first that R197 lists (log 47). The spec
names no address for cause 0x10: the model records 0, for a base that is not canonical and a bad extent too (DESIGN CHOICE,
log 53). -/
def execCp (f : SA) (s : State) : Out :=
  withIssuer s fun x =>
    match x.elected f.h with
    | none => s.pass x 4 f.h.s
    | some lane =>
      let off := (x.t.sr f.a.toNat).toNat
      if !x.t.performed then s.stall
      else if off % 64 ≠ 0 then trapElected s x 0x08 0 (BitVec.ofNat 64 off) lane
      else if x.t.scratch < off + 64 then trapElected s x 0x0C 0 (BitVec.ofNat 64 off) lane
      else
        let bs := cellsRead x.t.scr off 64
        let c := copyOf bs
        match c.check s x with
        | some sub => trapElected s x 0x10 sub 0 lane
        | none =>
          let rec_ := if c.kind = 4 then qpRecord s (nbits c.net 0 3) (nbits c.net 8 16) else []
          (issueCmd s x CP { kind := kindCp, sub := 0, lane := lane, args := if c.kind = 1 then c.indices x.t else [],
                             bytes := bs ++ rec_, lanes := [], token := false } f.h.s).modTeam x.tk
            (if x.t.full CP then id else Team.dropScales)

/-! ### Performing rows (07 R199, R200, R314) -/

/-- An access in a copy space: bytes, or the fault. -/
def spaceRead (s : State) (a : Agent) (tk : Nat) (t : Team) (space : Nat) (addr : Int) (n : Nat) :
    Except (State × AccFault) (State × List Byte) :=
  match space with
  | 0 => vread s a (dwordOfInt addr).toNat n
  | 1 => .ok (s, scrRead s tk addr.toNat n)
  | 2 =>
    match windowTarget s tk t addr.toNat with
    | some (k, off) => .ok (s, scrRead s k off n)
    | none => .ok (s, bytesOf n 0)
  | _ => .ok (s, mapRead s addr.toNat n)

/-- Bytes stored in a copy space, or the fault. -/
def spaceWrite (s : State) (a : Agent) (tk : Nat) (t : Team) (space : Nat) (addr : Int) (bs : List Byte) :
    Except (State × AccFault) State :=
  match space with
  | 0 => vwrite s a (dwordOfInt addr).toNat bs
  | 1 => .ok (scrWrite s tk addr.toNat bs)
  | 2 =>
    match windowTarget s tk t addr.toNat with
    | some (k, off) => .ok (scrWrite s k off bs)
    | none => .ok s
  | _ => .ok (mapWrite s addr.toNat bs)

/-- The elements of a row. -/
def elemsOf (bits n : Nat) (bs : List Byte) : List Nat :=
  let w := natOfBytes bs
  (List.range n).map fun i => nbits w (bits * i) bits

/-- Elements packed into bytes (04 R104). -/
def packElems (bits : Nat) (es : List Nat) : List Byte :=
  bytesOf (bits * es.length / 8) (es.foldr (fun e acc => e % 2 ^ bits + 2 ^ bits * acc) 0)

/-- The value of a source element of a conversion. -/
def copyValue (fpm : Word) (sf w : Nat) : FVal :=
  match fmtFloat sf with
  | some F => readSource (.flt F) fpm w
  | none => .num false 0 0

/-- The conversion target of a code. -/
def copyTarget (df : Nat) : Target :=
  match fmtFloat df with
  | some F => .flt F
  | none => .p2p8

/-- One element converted with one rounding (07 R200). -/
def copyConvert (c : CopyCmd) (fpm : Word) (w : Nat) : Nat × Word :=
  convertVal (copyTarget c.df) 32 (Rnd.ofCv (c.conv % 8) fpm 0) fpm (nbit c.conv 3) (copyValue fpm c.sf w)

/-- A block of 32 elements under MX: its scale, its elements and its flags (07 R200, 06 R168, R169). -/
def copyBlock (c : CopyCmd) (fpm : Word) (ws : List Nat) : Nat × List Nat × Word :=
  let rm : Word := if c.conv % 8 = 0 then fpm
    else (fpm &&& ~~~7) ||| BitVec.ofNat 32 (c.conv % 8 - 1)
  let vs := ws.map (copyValue fpm c.sf)
  let k := (mxFormat c.df).bind fun F => mxCode F.2 vs
  let r := vs.map fun v => mxQuantise rm v (c.df * 256 + k.getD 0xFF)
  (k.getD 0xFF, r.map Prod.fst, r.foldl (fun f e => f ||| e.2) (if k.isNone then NV else 0))

/-- Lists of 32 elements each, n of them. -/
def blocksOf (es : List Nat) (n : Nat) : List (List Nat) := (List.range n).map fun b => (es.drop (32 * b)).take 32

/-- A row converted: its elements, its scales and its flags. -/
def copyRow (c : CopyCmd) (fpm : Word) (es : List Nat) : List Nat × List Nat × Word :=
  if !c.converts then (es, [], 0)
  else if c.mx then
    let bs := (blocksOf es (es.length / 32)).map (copyBlock c fpm)
    (bs.flatMap fun b => b.2.1, bs.map Prod.fst, bs.foldl (fun f b => f ||| b.2.2) 0)
  else
    let r := es.map (copyConvert c fpm)
    (r.map Prod.fst, [], r.foldl (fun f e => f ||| e.2) 0)

/-- The word of one plane for 32 elements. -/
def planeWord (f i : Nat) (es : List Nat) : Word :=
  es.zipIdx.foldl
    (fun (w : Word) e => if (planeBits f e.1).getD i false then w ||| BitVec.twoPow 32 e.2 else w) 0

/-- Row r of every plane group written (07 R314, 09 R229, R230). -/
def writePlanes (s : State) (a : Agent) (tk : Nat) (t : Team) (c : CopyCmd) (r : Nat) (es : List Nat) : State :=
  let planes := (planeCount c.df).getD 0
  (blocksOf es (c.elems / 32)).zipIdx.foldl
    (fun s b =>
      (List.range planes).foldl
        (fun s i =>
          match spaceWrite s a tk t c.dsp (c.dst + b.2 * (512 * planes) + 512 * i + 4 * r : Nat)
              (bytesOf 4 (planeWord c.df i b.1).toNat) with
          | .ok s => s
          | .error (s, _) => s) s) s

/-- The source index of a row performed from element e on: at the row's beginning the one read at issue, or the one that the
scratchpad holds now, when that row lies in its space too; the command keeps the choice, so that a row taken up again
inside goes on with its own (07 R199; log 4). -/
def rowIndex (s : State) (d : Cmd) (t : Team) (c : CopyCmd) (r e : Nat) : State × Nat :=
  if c.kind ≠ 1 then (s, r)
  else
    let old := d.args.getD r 0
    let new := natOfBytes (cellsRead t.scr (c.index + 4 * r) 4)
    if e ≠ 0 ∨ old = new ∨ (badExtent s d.tk t c.ssp (c.srcRow new) (c.srcBits / 8)).isSome then (s, old)
    else
      let (s, k) := pick s 2
      if k = 0 then (s, old) else (s.modCmd d.id fun d => { d with args := setAt d.args r new }, new)

/-- The RDMA WRITE message of a row, with what the queue pair's record gives (20 R413, R414). -/
def sendMessage (c : CopyCmd) (qp : List Byte) (r : Nat) (bs : List Byte) (poisoned : Bool) : Message :=
  { port := nbits c.net 0 3, qp := nbits c.net 8 16, rqpn := nbits (fieldAt qp 0x08 4) 0 24,
    lqpn := nbits (fieldAt qp 0x04 4) 0 24, spsn := nbits (fieldAt qp 0x0C 4) 0 24, rgid := (qp.drop 0x10).take 16,
    rmac := (qp.drop 0x20).take 6, sport := fieldAt qp 0x26 2, mtu := nbits (fieldAt qp 0 4) 4 2,
    rkey := BitVec.ofNat 32 (fieldAt qp 0x28 4), addr := dwordOfInt (c.dstRow r), bytes := bs, poisoned := poisoned }

/-- A fault inside a row: the state, the fault, its ACC bits, the first element of the row that has not been performed and
the flags of those that have. -/
abbrev RowFault := State × AccFault × BitVec 8 × Nat × Word

/-- The converted elements of a row from element e on, written with their scales. An element is performed when it and its
scale are written (07 R204). -/
def putRow (s : State) (a : Agent) (d : Cmd) (t : Team) (c : CopyCmd) (r e : Nat) (es : List Nat) :
    Except RowFault (State × Word) :=
  let row := copyRow c d.fpm es
  let at_ : Int := c.dstRow r + (e * fmtBits c.df / 8 : Nat)
  match spaceWrite s a d.tk t c.dsp at_ (packElems (fmtBits c.df) row.1) with
  | .error (s, f) =>
    let n := if c.mx then 0 else (f.2.2 - (dwordOfInt at_).toNat) * 8 / fmtBits c.df
    .error (s, f, 2, e + n, (copyRow c d.fpm (es.take n)).2.2)
  | .ok s =>
    if c.mx then
      let sc : Int := c.scaleRow r + (e / 32 : Nat)
      match spaceWrite s a d.tk t c.dsp sc (row.2.1.map fun k => BitVec.ofNat 8 k) with
      | .error (s, f) =>
        let n := 32 * (f.2.2 - (dwordOfInt sc).toNat)
        .error (s, f, 2, e + n, (copyRow c d.fpm (es.take n)).2.2)
      | .ok s => .ok (s, row.2.2)
    else .ok (s, row.2.2)

/-- A row of a send is put on the wire, and from its first row on the network may fail the command (20 R414). -/
def sendRow (s : State) (id : Nat) (m : Message) : State :=
  { s with wire := s.wire ++ [m], sends := if (klook s.sends id).isSome then s.sends else kput s.sends id 0 }

/-- One row performed from element e on: its flags, or the fault. For KIND 4 the row is put on the wire, poisoned when its
read has met data with an uncorrectable error (20 R414, R421). -/
def performRow (s : State) (d : Cmd) (t : Team) (c : CopyCmd) (r e : Nat) : Except RowFault (State × Word) :=
  let a := cmdAgent s d t
  let (s, i) := rowIndex s d t c r e
  let at_ : Int := c.srcRow i + (e * fmtBits c.sf / 8 : Nat)
  let n := (c.elems - e) * fmtBits c.sf / 8
  match spaceRead s a d.tk t c.ssp at_ n with
  | .error (s, f) => .error (s, f, 1, e, 0)
  | .ok (s', bs) =>
    if c.kind = 4 then
      let bad := decide (s.badReads.length < s'.badReads.length)
      .ok (sendRow s' d.id (sendMessage c (d.bytes.drop 64) r bs bad), 0)
    else
      let es := elemsOf (fmtBits c.sf) (c.elems - e) bs
      if c.kind = 3 then
        let row := copyRow c d.fpm es
        .ok (writePlanes s' a d.tk t c r row.1, row.2.2)
      else putRow s' a d t c r e es

/-- n rows from row r on, the first from element e on. A fault stops the command at the lowest element that has not been
performed (07 R204; log 22). -/
def copyRows (s : State) (d : Cmd) (t : Team) (c : CopyCmd) (flags : Word) : Nat → Nat → Nat → EngineRun
  | 0, _, _ => .done s flags
  | n + 1, r, e =>
    match performRow s d t c r e with
    | .error (s, (cause, sub, addr), acc, e', f) => .stopped s (r * c.elems + e') (flags ||| f) cause sub addr acc
    | .ok (s, f) =>
      match s.team d.tk with
      | some t => copyRows s d t c (flags ||| f) n (r + 1) 0
      | none => .done s (flags ||| f)

/-- A copy command performed from its progress point. -/
def copyRun (s : State) (d : Cmd) (t : Team) : EngineRun :=
  let c := copyOf d.bytes
  let r := d.prog / c.elems
  copyRows s d t c d.flags (c.rows - r) r (d.prog % c.elems)

/-- A halt of its team finds a copy command before any of its rows still to move (07 R204, log 4). -/
def haltCopy (s : State) (tk : Nat) : State :=
  (s.cmds.filter fun c => c.tk == tk && c.kind == kindCp && !c.started).foldl
    (fun s d =>
      match eventCmd s d.id with
      | some (d, t) =>
        let c := copyOf d.bytes
        let r := d.prog / c.elems
        let (s, n) := pick s (c.rows - r)
        breakOff s d (copyRows s d t c d.flags n r (d.prog % c.elems)) (if n = 0 then d.prog else (r + n) * c.elems)
      | none => s) s

/-- COPY_COMMAND_COMPLETE: the command completes; a send has handed its rows to the port and waits for the
acknowledgement (07 R199, R201). -/
def execCopyCommandComplete (cmd : Nat) (s : State) : Out :=
  .next <| match eventCmd s cmd with
    | none => s
    | some (c, t) =>
      if c.kind ≠ kindCp ∨ c.started then s
      else if (copyOf c.bytes).kind = 4 then
        match copyRun s c t with
        | .stopped _ _ _ _ _ _ _ | .failed _ _ _ _ => s
        | .done s _ => s.modCmd c.id fun d => { d with started := true }
      else completeRun s cmd copyRun

/-- COPY_FAULT_STOP (07 R204). -/
def execCopyFaultStop (cmd : Nat) (s : State) : Out :=
  .next <| match s.cmd cmd with
    | none => s
    | some c => if c.kind ≠ kindCp ∨ c.started then s else stopRun s cmd copyRun

/-! ### The network (07 R201, 20 R412-R415) -/

/-- RDMA_ACKNOWLEDGEMENT: the acknowledgement of the last packet of a send all of whose rows are out completes the
command. -/
def execRdmaAcknowledgement (cmd : Nat) (s : State) : Out :=
  .next <| match klook s.sends cmd, eventCmd s cmd with
    | some _, some (c, _) => if c.started then completeCmd { s with sends := kdel s.sends cmd } c [] c.flags else s
    | _, _ => s

/-- RDMA_RETRY: an unacknowledged packet is sent again, 7 times at most (20 R414). -/
def execRdmaRetry (cmd : Nat) (s : State) : Out :=
  .next <| match klook s.sends cmd with
    | some n => if n < 7 then { s with sends := kput s.sends cmd (n + 1) } else s
    | none => s

/-- A command that sends on a port, whether its rows have been handed over or not. -/
def Cmd.sendsOn (c : Cmd) (port : Nat) : Bool :=
  c.kind == kindCp && (copyOf c.bytes).kind == 4 && nbits (copyOf c.bytes).net 0 3 == port

/-- A team by its key, on the device or in a stored context (15 R327). -/
def anyTeam (s : State) (tk : Nat) : Option Team :=
  (s.team tk).orElse fun _ => (storedContexts s).findSome? fun x => klook x.teams tk

/-- An imprecise trap of a command whose team's context is stored: the command has ended there (18 R380, 15 R327). -/
def storedTrap (s : State) (c : Cmd) (t : Team) (cause sub : Nat) (addr : Dword) : State :=
  let tr := mkTrap s t cause sub c.pc addr c.path (maskOf [c.lane]) 8 0
  recordTrap
    (s.modStored fun x => { x with cmds := x.cmds.map fun d =>
      if d.id = c.id then { d with kind := kindEnded, stop := some tr, lanes := [] } else d }) c.tk t tr

/-- A failed send: OPEN is cleared in the record and the command ends with subcode 7, wherever its team's context stands
(20 R414). -/
def failSend (s : State) (c : Cmd) : State :=
  let net := (copyOf c.bytes).net
  let at_ := (dget Port.reset s.ports (nbits net 0 3)).qpbase.toNat + 64 * nbits net 8 16
  let b := (physRead s 0 at_ 1).getD 0 0
  let s := deviceWrite { s with sends := kdel s.sends c.id } 0 at_ [b &&& 0xFE]
  match s.team c.tk, anyTeam s c.tk with
  | none, some t => storedTrap s c t 0x10 7 0
  | _, _ => commandTrap s c 0x10 7 0

/-- The commands of the device, those of stored contexts among them. -/
def allCmds (s : State) : List Cmd := s.cmds ++ (storedContexts s).flatMap Context.cmds

/-- NETWORK_TRANSFER_FAILURE: retries have run out, or a NAK has come (20 R414). -/
def execNetworkTransferFailure (cmd : Nat) (s : State) : Out :=
  .next <| match klook s.sends cmd, (allCmds s).find? fun c => c.id == cmd with
    | some _, some c => failSend s c
    | _, _ => s

/-- Where a command's trap comes among those of its clock: by TID, then by path (18 R382). -/
def Cmd.trapOrder (c : Cmd) : Nat := 256 * c.tk + c.path

/-- PORT_LINK_CHANGE: the link of a port goes up or down, with ALERT.PORT; going down fails every command that sends on it,
whose traps are of one clock (18 R382).
In early service ports stay down (20 R403, R412, R414, R417). -/
def execPortLinkChange (port : Nat) (up : Bool) (s : State) : Out :=
  .next <|
    let old := dget Port.reset s.ports port
    if 8 ≤ port ∨ s.host.stage ≠ 3 ∨ old.up = up then s
    else
      let s := setAlert { s with ports := dput Port.reset s.ports port { old with up := up } } 6
      if up then s
      else
        (sortBy Cmd.trapOrder ((allCmds s).filter fun c => c.sendsOn port)).foldl failSend s

/-- The open record of a port that an inbound write names by its local QP number and key (20 R415). -/
def inboundRecord (s : State) (port lqpn : Nat) (key : Word) : Option (List Byte) :=
  ((List.range (dget Port.reset s.ports port).qpcnt.toNat).map fun q => qpRecord s port q).find? fun r =>
    nbit (byteAt r 0) 0 && nbits (fieldAt r 4 4) 0 24 == lqpn && fieldAt r 0x2C 4 == key.toNat

/-- INBOUND_RDMA_WRITE: accepted bytes go to device memory at their physical addresses and wake nobody; any other write
is answered with a NAK (20 R415). -/
def execInboundRdmaWrite (port lqpn : Nat) (key : Word) (pa : Nat) (bytes : List Byte) (s : State) : Out :=
  .next <| match inboundRecord s port lqpn key with
    | some r =>
      if (dget Port.reset s.ports port).up ∧ fieldAt r 0x30 8 ≤ pa ∧ pa + bytes.length ≤ fieldAt r 0x30 8 + fieldAt r 0x38 8 then
        (physWrite s 0 pa bytes).answer false false []
      else s.answer true false []
    | none => s.answer true false []

end Sys2Proof.Machine
end

