-- ==== Sys2Proof/Machine/Matrix.lean ====
section
/-!
DEFINITION. Matrix engines (09 R224-R249, 04 R118-R124): mma steps, accumulator commands, scale registers, tile tasks.
-/
namespace Sys2Proof.Machine

/-! ### Formats and FMT (09 R226-R231) -/

def fmtAf (fmt : Word) : Nat := nbits fmt.toNat 0 5
def fmtBf (fmt : Word) : Nat := nbits fmt.toNat 5 5
def fmtOf (fmt : Word) : Nat := nbits fmt.toNat 10 5
def fmtScm (fmt : Word) : Nat := nbits fmt.toNat 15 2
def fmtApl (fmt : Word) : Nat := nbits fmt.toNat 17 4

/-- The full count of significand planes or term-planes of an A format (09 R230). -/
def fullPlanes (af : Nat) : Nat := [0, 12, 0, 4, 3, 2, 2, 8, 4, 1].getD af 0

/-- The supported pairs (09 R228). -/
def pairOk (af bf : Nat) : Bool :=
  match af with
  | 1 => [1, 3, 4].contains bf
  | 3 | 4 => [1, 3, 4, 5].contains bf
  | 5 => [3, 4, 5].contains bf
  | 6 => [1, 3, 4, 5, 7].contains bf
  | 7 | 8 => [7, 8].contains bf
  | 9 => bf == 9
  | _ => false

/-- Bytes of a row of B (09 R231). -/
def bRowBytes (bf : Nat) : Nat := 16 * fmtBits bf

/-- Bytes of a plane group (09 R230). -/
def groupBytes (af : Nat) : Nat := 512 * (planeCount af).getD 0

/-- The subcode of an FMT that an mma cannot use (09 R227). -/
def fmtBad (fmt : Word) : Option Nat :=
  if nbits fmt.toNat 21 11 ≠ 0 then some 1
  else if !pairOk (fmtAf fmt) (fmtBf fmt) || decide (fullPlanes (fmtAf fmt) < fmtApl fmt) then some 0
  else none

/-- Bytes of an element of an output format, when OF names one (09 R226, R242). -/
def outBytes (of_ : Nat) : Option Nat :=
  match of_ with
  | 0 => some 4
  | 1 | 2 => some 2
  | 3 | 4 => some 1
  | 17 => some 16
  | _ => none

/-! ### Elements (09 R229-R232, 04 R104, R121), in units of 2^-24; none for one whose block's term is zero -/

/-- The value of an element of B, or of an integer or floating-point bit pattern. -/
def bitsValue (f w : Nat) : Option Int :=
  match fmtFloat f with
  | some F =>
    match F.read w with
    | .num s n e => some ((if s then -1 else 1) * (n : Int) * ((2 ^ (e + 24).toNat : Nat) : Int))
    | _ => none
  | none =>
    some (((2 ^ 24 : Nat) : Int) * (if f = 9 then (if w % 2 = 1 then 1 else -1) else sintN (fmtBits f) w))

/-- The number whose bits are given, highest first. -/
def natOfBits (bs : List Bool) : Nat := bs.foldl (fun acc b => 2 * acc + (if b then 1 else 0)) 0

/-- The bits with those after the first p cleared. -/
def keepFirst (p : Nat) (bs : List Bool) : List Bool := bs.zipIdx.map fun e => e.1 && decide (e.2 < p)

/-- The value of an element of A from the bits of its planes, of which the first p significand planes or term-planes
count. -/
def planesValue (af p : Nat) (bs : List Bool) : Option Int :=
  match fmtFloat af with
  | some F =>
    let sig := bs.take (F.mb + 1)
    let rest := bs.drop (fullPlanes af)
    let e := natOfBits (rest.take F.eb)
    let neg := (rest.drop F.eb).headD false
    let special := match F.top with
      | .ieee => e == 2 ^ F.eb - 1
      | .nanOnly => e == 2 ^ F.eb - 1 && (sig.drop 1).all fun b => b
      | .finite => false
    if special then none
    else
      let v := natOfBits (keepFirst p sig) * 2 ^ ((max e 1 : Nat) - (F.bias : Int) - F.mb + 24).toNat
      some (if neg then -(v : Int) else v)
  | none =>
    match af with
    | 6 => some (((2 ^ 18 : Nat) : Int) * (if p = 1 then p2First (natOfBits bs) else p2Value (natOfBits bs)))
    | 9 => bitsValue 9 (natOfBits bs)
    | _ => bitsValue af (natOfBits (keepFirst p bs))

/-- Element (m, k) of the plane group at an offset of a scratchpad. -/
def aValue (scr : List Host.Cell) (off af p m k : Nat) : Option Int :=
  planesValue af p ((List.range ((planeCount af).getD 0)).map fun i =>
    (dget 0 scr (off + 512 * i + 4 * m + k / 8)).getLsbD (k % 8))

/-- Element n of a row of B. -/
def bValue (scr : List Host.Cell) (off bf n : Nat) : Option Int :=
  let b := fmtBits bf * n
  bitsValue bf (nbits (natOfBytes (cellsRead scr (off + b / 8) 2)) (b % 8) (fmtBits bf))

/-! ### Terms and accumulators (04 R118-R122) -/

/-- An integer brought into the range of an accumulator element. -/
def accClamp (v : Int) : Elem × Word :=
  let hi := ((2 ^ 127 : Nat) : Int) - 1
  if hi < v then (BitVec.ofInt 128 hi, ASAT)
  else if v < -((2 ^ 127 : Nat) : Int) then (BitVec.ofInt 128 (-((2 ^ 127 : Nat) : Int)), ASAT)
  else (BitVec.ofInt 128 v, 0)

/-- An exact addition to an element (04 R122). -/
def accAdd (x : Elem) (v : Int) : Elem × Word := accClamp (x.toInt + v)

/-- A block's term from its products in units of 2^-48 and its scale codes: zero with NV when an element or a scale has
no value (04 R120, R121). -/
def blockTerm (ps : List (Option Int)) (ka kb : Nat) : Int × Word :=
  if ps.any Option.isNone || ka == 255 || kb == 255 then (0, NV)
  else
    let sum : Int := ps.foldl (fun acc p => acc + p.getD 0) 0
    let sh : Int := (ka : Int) + kb - 254 + 16
    if 0 ≤ sh then (sum * ((2 ^ sh.toNat : Nat) : Int), 0)
    else
      let d : Int := ((2 ^ (-sh).toNat : Nat) : Int)
      (sum / d, if sum % d = 0 then 0 else ATRUNC)

/-- A tile element: (row, column) of the team's tile acc. -/
def tileKey (acc m n : Nat) : Nat := 16384 * acc + 128 * m + n

/-- A term added to an element of a team's tile. -/
def addTerm (t : Team × Word) (key : Nat) (term : Int × Word) : Team × Word :=
  let v := accClamp term.1
  let r := accAdd (dget 0 t.1.tiles key) v.1.toInt
  ({ t.1 with tiles := dput 0 t.1.tiles key r.1 }, t.2 ||| term.2 ||| v.2 ||| r.2)

/-! ### mma (09 R235-R240) -/

/-- An mma step's operands, as the instruction or a task gives them. -/
structure MmaStep where
  acc : Nat
  fmt : Word
  k : Nat
  ao : Nat
  bo : Nat
  base0 : Nat
  ctl0 : Nat
  base1 : Nat
  ctl1 : Nat
  deriving DecidableEq, Repr

/-- The address of a scale byte (09 R236). -/
def scaleAddr (base ctl m j : Nat) : Nat := (base + (m * nbits ctl 8 24 + 32 * j) / 2 ^ nbits ctl 0 5) % 2 ^ 64

/-- The cluster of a team and the engine of its tiles. -/
def engineOf (t : Team) : Nat := 2 * (t.core / 8) + t.accEngine

/-- The lines of an engine's scale cache, each with its team (09 R237). -/
def scaleLines (s : State) (e : Nat) : List (Nat × Nat) :=
  s.teams.flatMap fun x => if engineOf x.2 = e then x.2.scales.map fun l => (x.1, l.1) else []

/-- A line joins the scale cache of the team's engine, which holds 16 KiB; when it is full a free choice of its lines
leaves (09 R237, log 4). -/
def keepScale (s : State) (tk line : Nat) (data : BitVec 1024) : State :=
  let held := scaleLines s (((s.team tk).map engineOf).getD 0)
  let s := if held.length < 128 then s
    else
      let (s, i) := pick s held.length
      match held[i]? with
      | some v => s.modTeam v.1 fun t => { t with scales := kdel t.scales v.2 }
      | none => s
  s.modTeam tk fun t => { t with scales := kput t.scales line data }

/-- A scale byte: from the team's lines in the scale cache, else from memory; a page that no cache holds leaves nothing
there (09 R236, R237, 17 R369). -/
def scaleByte (s : State) (a : Agent) (tk addr : Nat) : Except (State × AccFault) (State × Nat) :=
  match (s.team tk).bind fun t => klook t.scales (addr / 128) with
  | some d => .ok (s, ((d >>> (8 * (addr % 128))).setWidth 8 : Byte).toNat)
  | none =>
    match place s a .read addr with
    | .error (s, c, sub) => .error (s, c, sub, addr)
    | .ok (s, p) =>
      let k := byteAt (placeRead s p addr 1) 0
      let s := noteRead s a p addr 1
      match p with
      | .phys _ _ => .ok (s, k)
      | .line key =>
        match klook s.lines key with
        | some l => .ok (if l.bad = 0 then keepScale s tk (addr / 128) l.data else s, k)
        | none => .ok (s, k)
      | .flat pa => .ok (keepScale s tk (addr / 128) (BitVec.ofNat 1024 (natOfBytes (physRead s 0 (pa - addr % 128) 128))), k)

/-- The scale codes of block j for 128 rows or columns; 127 without a scale. The team's lines may have left the scale
cache before: a cached byte may serve a step and need not (09 R237, log 4). -/
def scaleCodes (s : State) (a : Agent) (tk : Nat) (used : Bool) (base ctl j : Nat) :
    Except (State × AccFault) (State × List Nat) :=
  if !used then .ok (s, List.replicate 128 127)
  else
    let s :=
      if ((s.team tk).map fun t => t.scales) = some [] then s
      else
        let (s, keep) := pick s 2
        if keep = 0 then s else s.modTeam tk Team.dropScales
    (List.range 128).foldl
      (fun acc m =>
        match acc with
        | .error e => .error e
        | .ok (s, ks) =>
          match scaleByte s a tk (scaleAddr base ctl m j) with
          | .error e => .error e
          | .ok (s, k) => .ok (s, ks ++ [k])) (.ok (s, []))

/-- Block j added to every element of the tile. -/
def addBlock (t : Team) (p : MmaStep) (j : Nat) (ka kb : List Nat) : Team × Word :=
  let af := fmtAf p.fmt
  let bf := fmtBf p.fmt
  let planes := if fmtApl p.fmt = 0 then fullPlanes af else fmtApl p.fmt
  let scr := t.scr
  (List.range 128).foldl
    (fun acc m =>
      (List.range 128).foldl
        (fun acc n =>
          let ps := (List.range 32).map fun k =>
            match aValue scr (p.ao + groupBytes af * j) af planes m k, bValue scr (p.bo + (32 * j + k) * bRowBytes bf) bf n with
            | some x, some y => some (x * y)
            | _, _ => none
          addTerm acc (tileKey p.acc m n) (blockTerm ps (ka.getD m 127) (kb.getD n 127))) acc) (t, 0)

/-- n blocks from block j on; a faulting scale read stops the step before its block (09 R240). -/
def stepBlocks (s : State) (c : Cmd) (a : Agent) (p : MmaStep) (flags : Word) : Nat → Nat → EngineRun
  | 0, _ => .done s flags
  | n + 1, j =>
    match scaleCodes s a c.tk (nbit (fmtScm p.fmt) 0) p.base0 p.ctl0 j with
    | .error (s, cause, sub, addr) => .stopped s j flags cause sub addr 1
    | .ok (s, ka) =>
      match scaleCodes s a c.tk (nbit (fmtScm p.fmt) 1) p.base1 p.ctl1 j with
      | .error (s, cause, sub, addr) => .stopped s j flags cause sub addr 1
      | .ok (s, kb) =>
        match s.team c.tk with
        | none => .done s flags
        | some t =>
          let r := addBlock t p j ka kb
          stepBlocks (s.setTeam c.tk r.1) c a p (flags ||| r.2) n (j + 1)

/-- An mma step performed from its progress point. -/
def stepRun (s : State) (c : Cmd) (t : Team) (p : MmaStep) : EngineRun :=
  stepBlocks s c (cmdAgent s c t) p c.flags (p.k / 32 - c.prog) c.prog

/-- A used scale register fails its address check (09 R240). -/
def scaleBad (used : Bool) (base ctl k : Nat) : Bool :=
  used && (!canonicalVa (BitVec.ofNat 64 base)
    || !canonicalVa (BitVec.ofNat 64 (base + (127 * nbits ctl 8 24 + k - 32) / 2 ^ nbits ctl 0 5)))

/-- The first failing check of an mma step: cause, subcode, address (09 R240). Of several that fail, the first in the order of
R240's list is taken, for which the spec states no precedence (DESIGN CHOICE, log 54). The faulting address of an extent is
its offset, and that of a scale its base, whichever byte fails (log 47). -/
def MmaStep.check (p : MmaStep) (scratch : Nat) : Option (Nat × Nat × Nat) :=
  match fmtBad p.fmt with
  | some sub => some (0x11, sub, 0)
  | none =>
    if p.k < 32 ∨ 8192 < p.k ∨ p.k % 32 ≠ 0 then some (0x11, 2, 0)
    else if p.ao % 64 ≠ 0 then some (0x08, 0, p.ao)
    else if p.bo % 64 ≠ 0 then some (0x08, 0, p.bo)
    else if scratch < p.ao + p.k / 32 * groupBytes (fmtAf p.fmt) then some (0x0C, 0, p.ao)
    else if scratch < p.bo + p.k * bRowBytes (fmtBf p.fmt) then some (0x0C, 0, p.bo)
    else if scaleBad (nbit (fmtScm p.fmt) 0) p.base0 p.ctl0 p.k then some (0x09, 0, p.base0)
    else if scaleBad (nbit (fmtScm p.fmt) 1) p.base1 p.ctl1 p.k then some (0x09, 0, p.base1)
    else none

/-- In early service an mma takes INT8, E4M3 and E5M2 alone (20 R417). -/
def MmaStep.early (p : MmaStep) (stage : BitVec 4) : Option (Nat × Nat × Nat) :=
  let ok (f : Nat) : Bool := f == 3 || f == 4 || f == 7
  if stage = 2 ∧ !(ok (fmtAf p.fmt) && ok (fmtBf p.fmt)) then some (0x11, (fmtBad p.fmt).getD 0, 0) else none

/-! ### Accumulator images (09 R242-R244) -/

/-- An accumulator command's operands: its function in 0x39, tile, format, global or scratchpad image. -/
structure Image where
  fn : Nat
  acc : Nat
  of_ : Nat
  global : Bool
  base : Int
  stride : Int
  ctl : Nat
  deriving DecidableEq, Repr

def Image.row0 (p : Image) : Nat := nbits p.ctl 0 7
def Image.count (p : Image) : Nat := nbits p.ctl 7 7 + 1
/-- Bytes of an image element. -/
def Image.es (p : Image) : Nat := (outBytes p.of_).getD 16
/-- The address of image row i. -/
def Image.row (p : Image) (i : Nat) : Int := p.base + i * p.stride

/-- The first failing check of an accumulator command (09 R244). Of several that fail, the first in the order of R244's list is
taken, for which the spec states no precedence (DESIGN CHOICE, log 54). The faulting address of an extent or a stride is the
base, whichever byte fails (log 47). -/
def Image.check (p : Image) (scratch : Nat) : Option (Nat × Nat × Nat) :=
  let at_ := (dwordOfInt p.base).toNat
  let ends (i : Nat) : Bool :=
    if p.global then decide (-((2 ^ 51 : Nat) : Int) ≤ p.row i ∧ p.row i + 128 * p.es ≤ ((2 ^ 51 : Nat) : Int))
    else decide (0 ≤ p.row i ∧ p.row i + 128 * p.es ≤ (scratch : Int))
  if nbits p.ctl 14 18 ≠ 0 ∨ 128 < p.row0 + p.count then some (0x11, 1, 0)
  else if (outBytes p.of_).isNone then some (0x11, 0, 0)
  else if p.base % (p.es : Int) ≠ 0 ∨ p.stride % (p.es : Int) ≠ 0 then some (0x08, 0, at_)
  else if !(ends 0 && ends (p.count - 1)) then some (if p.global then 0x09 else 0x0C, 0, at_)
  else none

/-- An element in an output format with its flags (04 R124). -/
def outElement (of_ : Nat) (fpm : Word) (x : Elem) : Nat × Word :=
  match fmtFloat of_ with
  | some F => convertVal (.flt F) 32 (Rnd.ofFpm fpm) fpm (of_ == 3) (.num (decide (x.toInt < 0)) x.toInt.natAbs (-64))
  | none => (x.toNat, 0)

/-- A raw image row loaded into, or added to, a tile row (09 R243). -/
def takeRow (t : Team) (p : Image) (i : Nat) (bs : List Byte) : Team × Word :=
  (List.range 128).foldl
    (fun (acc : Team × Word) n =>
      let x : Elem := BitVec.ofNat 128 (fieldAt bs (16 * n) 16)
      let key := tileKey p.acc (p.row0 + i) n
      if p.fn ≤ 2 then ({ acc.1 with tiles := dput 0 acc.1.tiles key x }, acc.2)
      else
        let r := accAdd (dget 0 acc.1.tiles key) x.toInt
        ({ acc.1 with tiles := dput 0 acc.1.tiles key r.1 }, acc.2 ||| r.2)) (t, 0)

/-- n image rows from row i on; a fault stops before its row (09 R244). The rows of one instruction go in ascending order, so that
of rows of an msta that overlap the higher one's bytes stay, and an msta that a fault stops leaves the rows after P unwritten,
and row P written as far as the faulting line: 09 R243 and R244 leave both open (DESIGN CHOICE, log 55). -/
def imageRows (s : State) (c : Cmd) (p : Image) (flags : Word) : Nat → Nat → EngineRun
  | 0, _ => .done s flags
  | n + 1, i =>
    match s.team c.tk with
    | none => .done s flags
    | some t =>
      let a := cmdAgent s c t
      let space := if p.global then 0 else 1
      if p.fn = 3 ∨ p.fn = 4 then
        let es := (List.range 128).map fun n => outElement p.of_ c.fpm (dget 0 t.tiles (tileKey p.acc (p.row0 + i) n))
        match spaceWrite s a c.tk t space (p.row i) (packElems (8 * p.es) (es.map Prod.fst)) with
        | .error (s, cause, sub, addr) => .stopped s i flags cause sub addr 2
        | .ok s => imageRows s c p (es.foldl (fun f e => f ||| e.2) flags) n (i + 1)
      else
        match spaceRead s a c.tk t space (p.row i) 2048 with
        | .error (s, cause, sub, addr) => .stopped s i flags cause sub addr 1
        | .ok (s, bs) =>
          match s.team c.tk with
          | none => .done s flags
          | some t =>
            let r := takeRow t p i bs
            imageRows (s.setTeam c.tk r.1) c p (flags ||| r.2) n (i + 1)

/-- An accumulator command performed from its progress point. -/
def imageRun (s : State) (c : Cmd) (_ : Team) (p : Image) : EngineRun :=
  imageRows s c p c.flags (p.count - c.prog) c.prog

/-- Every element of a tile becomes zero (09 R243). -/
def clearTile (t : Team) (acc : Nat) : Team :=
  { t with tiles := t.tiles.filter fun e => e.1 / 16384 != acc }

/-! ### Issue (09 R233, R234) -/

/-- A command of majors 0x38 to 0x3A other than a task, which takes effect in issue order. -/
def Cmd.isMatrix (c : Cmd) : Bool := decide (128 ≤ c.kind ∧ c.kind ≤ 256)

/-- The instructions outstanding at an engine. -/
def engineLoad (s : State) (e : Nat) : Nat :=
  (s.cmds.filter fun c => c.isMatrix && match s.team c.tk with
    | some t => engineOf t == e
    | none => false).length

/-- A matrix instruction that has passed its checks: with the engine full, or its counter, the path stalls and keeps
its token; the issue of msta.g empties the team's part of the scale cache (09 R237). -/
def issueMatrix (s : State) (x : Issuer) (n : NewCmd) (mark : Bool) : State :=
  if 16 ≤ engineLoad s (engineOf x.t) || x.t.full MX then s.stall
  else if n.kind = kindAcc + 4 then (issueCmd (returnTeamToken s x) x MX n mark).modTeam x.tk Team.dropScales
  else if n.token then
    issueCmd (s.modTeam x.tk fun t => { t with token := false }) x MX n mark
  else issueCmd (returnTeamToken s x) x MX n mark

/-- A matrix instruction: none of its effect when it does not act; its first failing check traps and returns the token;
else it goes to the engine. -/
def matrixOp (s : State) (h : Hdr) (f : Issuer → Nat → Option (Nat × Nat × Nat) × NewCmd) : Out :=
  withIssuer s fun x =>
    match x.elected h with
    | none => s.pass x 4 h.s
    | some lane =>
      match f x lane with
      | (some (cause, sub, addr), _) => trapElected (returnTeamToken s x) x cause sub (BitVec.ofNat 64 addr) lane
      | (none, n) => issueMatrix s x n h.s

/-- The scale register that will govern the next mma: the last mscl issued and not yet in effect, else the register
(09 R235). -/
def scaleView (s : State) (x : Issuer) (r : Nat) : Nat × Nat :=
  match ((s.cmds.filter fun c => c.tk == x.tk && c.kind == kindMscl && c.sub == r).getLast?) with
  | some c => (c.args.getD 0 0, c.args.getD 1 0)
  | none =>
    if r = 0 then (x.t.scaleBase0.toNat, x.t.scaleCtl0.toNat) else (x.t.scaleBase1.toNat, x.t.scaleCtl1.toNat)

/-- mma (09 R238). -/
def execMma (f : MA) (s : State) : Out :=
  matrixOp s f.h fun x lane =>
    let s0 := scaleView s x 0
    let s1 := scaleView s x 1
    let p : MmaStep :=
      { acc := f.acc.toNat, fmt := x.path.fmt, k := (x.t.sr f.k.toNat).toNat, ao := (x.t.sr f.a.toNat).toNat,
        bo := (x.t.sr f.b.toNat).toNat, base0 := s0.1, ctl0 := s0.2, base1 := s1.1, ctl1 := s1.2 }
    ((p.early s.host.stage).orElse fun _ => p.check x.t.scratch,
      { kind := kindMma, sub := 0, lane := lane,
        args := [p.acc, p.fmt.toNat, p.k, p.ao, p.bo, p.base0, p.ctl0, p.base1, p.ctl1], bytes := [], lanes := [],
        token := true })

/-- mzero (09 R243). -/
def execMzero (f : AC0) (s : State) : Out :=
  matrixOp s f.h fun _ lane =>
    (none, { kind := kindAcc, sub := 0, lane := lane, args := [f.acc.toNat], bytes := [], lanes := [], token := false })

/-- An accumulator command of function fn. -/
def imageOp (s : State) (f : AC) (fn : Nat) : Out :=
  matrixOp s f.h fun x lane =>
    let global := fn % 2 == 0
    let z := x.t.zr f.b.toNat
    let p : Image :=
      { fn := fn, acc := f.acc.toNat, of_ := if fn = 3 ∨ fn = 4 then fmtOf x.path.fmt else 17, global := global,
        base := if global then (x.t.zr f.a.toNat).toInt else ((x.t.sr f.a.toNat).toNat : Int),
        stride := (hiWord z).toInt, ctl := (loWord z).toNat }
    (p.check x.t.scratch,
      { kind := kindAcc + fn, sub := 0, lane := lane,
        args := [p.acc, p.of_, (dwordOfInt p.base).toNat, (dwordOfInt p.stride).toNat, p.ctl], bytes := [], lanes := [],
        token := false })

/-- mlda.s (09 R243). -/
def execMldaS (f : AC) (s : State) : Out := imageOp s f 1
/-- mlda.g (09 R243). -/
def execMldaG (f : AC) (s : State) : Out := imageOp s f 2
/-- msta.s (09 R243). -/
def execMstaS (f : AC) (s : State) : Out := imageOp s f 3
/-- msta.g (09 R243). -/
def execMstaG (f : AC) (s : State) : Out := imageOp s f 4
/-- madd.s (09 R243). -/
def execMaddS (f : AC) (s : State) : Out := imageOp s f 5
/-- madd.g (09 R243). -/
def execMaddG (f : AC) (s : State) : Out := imageOp s f 6

/-- mrd (09 R243, R244). -/
def execMrd (f : AC) (s : State) : Out :=
  matrixOp s f.h fun x lane =>
    let c := (x.t.sr f.b.toNat).toNat
    (if nbits c 7 1 ≠ 0 ∨ nbits c 15 17 ≠ 0 then some (0x11, 1, 0) else none,
      { kind := kindAcc + 7, sub := 0, lane := lane, args := [f.acc.toNat, nbits c 0 7, nbits c 8 7, f.a.toNat],
        bytes := [], lanes := [], token := false })

/-- mscl (09 R235). -/
def execMscl (f : SCL) (s : State) : Out :=
  matrixOp s f.h fun x lane =>
    let ctl := (x.t.sr f.d.toNat).toNat
    (if nbits ctl 5 3 ≠ 0 then some (0x11, 1, 0) else none,
      { kind := kindMscl, sub := f.u.toNat, lane := lane, args := [(x.t.zr f.a.toNat).toNat, ctl], bytes := [],
        lanes := [], token := false })

/-! ### Tile tasks (09 R245-R247) -/

/-- The mma step of a command or of a task record. -/
def Cmd.step (c : Cmd) : MmaStep :=
  if c.kind = kindMma then
    { acc := c.args.getD 0 0, fmt := BitVec.ofNat 32 (c.args.getD 1 0), k := c.args.getD 2 0, ao := c.args.getD 3 0,
      bo := c.args.getD 4 0, base0 := c.args.getD 5 0, ctl0 := c.args.getD 6 0, base1 := c.args.getD 7 0,
      ctl1 := c.args.getD 8 0 }
  else
    { acc := byteAt c.bytes 0x0D % 4, fmt := BitVec.ofNat 32 (fieldAt c.bytes 0x10 4), k := fieldAt c.bytes 0x14 4,
      ao := fieldAt c.bytes 0x18 4, bo := fieldAt c.bytes 0x1C 4, base0 := fieldAt c.bytes 0x20 8,
      ctl0 := fieldAt c.bytes 0x30 4, base1 := fieldAt c.bytes 0x28 8, ctl1 := fieldAt c.bytes 0x34 4 }

/-- The image of an accumulator command or of a task record. -/
def Cmd.image (c : Cmd) : Image :=
  if c.kind = kindTtq then
    let fn := if byteAt c.bytes 0x0C = 2 then 6 else 4
    { fn := fn, acc := byteAt c.bytes 0x0D % 4, of_ := if fn = 4 then fieldAt c.bytes 0x10 4 / 1024 % 32 else 17,
      global := true, base := sintN 64 (fieldAt c.bytes 0x20 8), stride := sintN 32 (fieldAt c.bytes 0x18 4),
      ctl := fieldAt c.bytes 0x14 4 }
  else
    let fn := c.kind - kindAcc
    { fn := fn, acc := c.args.getD 0 0, of_ := c.args.getD 1 17, global := fn % 2 == 0,
      base := sintN 64 (c.args.getD 2 0), stride := sintN 64 (c.args.getD 3 0), ctl := c.args.getD 4 0 }

/-- OP of a task record. -/
def taskOp (bs : List Byte) : Nat := byteAt bs 0x0C

/-- Reserved bytes of a task record, and those that its OP wants zero (log 23). -/
def taskReserved (bs : List Byte) : Bool :=
  byteAt bs 0x0D / 4 != 0 || fieldAt bs 0x0E 2 != 0 || fieldAt bs 0x38 8 != 0
    || (taskOp bs != 0 && (fieldAt bs 0x1C 4 != 0 || fieldAt bs 0x28 8 != 0 || fieldAt bs 0x30 8 != 0))
    || (taskOp bs == 0 && (nbits (fieldAt bs 0x30 4) 5 3 != 0 || nbits (fieldAt bs 0x34 4) 5 3 != 0))

/-- The first failing check of a task record: the record's own, then those of its OP, in early service too (09 R246,
20 R417). -/
def taskCheck (c : Cmd) (t : Team) (stage : BitVec 4) : Option (Nat × Nat × Nat) :=
  if fieldAt c.bytes 0 4 = 0 ∨ 3 < taskOp c.bytes ∨ t.acct ≤ byteAt c.bytes 0x0D % 4 ∨ taskReserved c.bytes then
    some (0x11, 1, 0)
  else
    match taskOp c.bytes with
    | 0 => (c.step.early stage).orElse fun _ => c.step.check t.scratch
    | 1 => none
    | _ => c.image.check t.scratch

/-- The tasks that hold an entry of a cluster's queue. A record keeps its entry until its task has completed, started or
stopped though it be; R246 does not say when the entry is free (log 47). -/
def clusterTasks (s : State) (cluster : Nat) : Nat :=
  (s.cmds.filter fun c => c.kind == kindTtq && match s.team c.tk with
    | some t => t.core / 8 == cluster
    | none => false).length

/-- ttq: the record is read and checked after every access that the team issued before it has been performed; until then the
path stalls (09 R246, 08 R222). An offset that is misaligned and beyond SCRATCH - 64 has cause 0x08, the first that R246
lists; the spec states no precedence (DESIGN CHOICE, log 54). -/
def execTtq (f : UA) (s : State) : Out :=
  withIssuer s fun x =>
    match x.elected f.h with
    | none => s.pass x 4 f.h.s
    | some lane =>
      let off := (x.t.sr f.a.toNat).toNat
      let bs := cellsRead x.t.scr off 64
      let n : NewCmd := { kind := kindTtq, sub := 0, lane := lane, args := [], bytes := bs, lanes := [], token := false }
      let probe : Cmd :=
        { id := 0, tk := x.tk, op := 0, seq := 0, kind := kindTtq, sub := 0, path := x.pi, lane := lane, pc := x.path.pc,
          args := [], bytes := bs, fpm := x.t.fpm, fmt := x.path.fmt, flags := 0, prog := 0, stop := none, broken := false,
          started := false, lanes := [], upTo := 0, token := false, asked := false }
      let bad := if off % 64 ≠ 0 then some (0x08, 0, off) else if x.t.scratch < off + 64 then some (0x0C, 0, off)
        else taskCheck probe x.t s.host.stage
      if !x.t.performed then s.stall
      else
        match bad with
        | some (cause, sub, addr) => trapElected (returnTeamToken s x) x cause sub (BitVec.ofNat 64 addr) lane
        | none =>
          if 64 ≤ clusterTasks s (x.t.core / 8) || x.t.full MX then s.stall
          else issueCmd (returnTeamToken s x) x MX n f.h.s

/-! ### The engine's events -/

/-- A started task occupies the engine (09 R234). -/
def engineBusy (s : State) (e : Nat) : Bool :=
  s.cmds.any fun c => c.kind == kindTtq && c.started && match s.team c.tk with
    | some t => engineOf t == e
    | none => false

/-- The tile that a matrix instruction or a task works on (09 R225). -/
def Cmd.tile (c : Cmd) : Option Nat :=
  if c.kind = kindTtq then some (byteAt c.bytes 0x0D % 4) else if c.isMatrix ∧ c.kind ≠ kindMscl then some (c.args.getD 0 0)
  else none

/-- A part of a command may have taken effect: it has started, stopped at a progress point or been broken off there. -/
def Cmd.begun (c : Cmd) : Bool := c.started || c.stop.isSome || c.prog != 0

/-- Another instruction or task of the team has begun on the command's tile: two of them never overlap, whatever stops the
one meanwhile (09 R234, R247). -/
def tileHeld (s : State) (c : Cmd) : Bool :=
  c.tile.isSome && s.cmds.any fun d =>
    d.id != c.id && d.tk == c.tk && (d.kind == kindTtq || d.isMatrix) && d.begun && d.tile == c.tile

/-- Another command that a halt broke off on the engine goes on before this one, once it has its new token (09 R249). -/
def brokenFirst (s : State) (c : Cmd) (e : Nat) : Bool :=
  s.cmds.any fun d =>
    d.id != c.id && d.broken && d.token && !(c.broken && decide (c.seq < d.seq)) && match cmdTeam s d with
      | some t => engineOf t == e
      | none => false

/-- The engine can take the command up: it is free, the command's tile is, and nothing goes on before it. -/
def engineTakes (s : State) (c : Cmd) (t : Team) : Bool :=
  !engineBusy s (engineOf t) && !tileHeld s c && !brokenFirst s c (engineOf t)

/-- A matrix instruction whose turn it is: the oldest of its team, its engine free (09 R234). -/
def matrixTurn (s : State) (c : Cmd) (t : Team) : Bool :=
  c.isMatrix && !(s.cmds.any fun d => d.tk == c.tk && d.isMatrix && decide (d.seq < c.seq)) && engineTakes s c t

/-- The command has the token that it needs to go on from where a halt broke it off (09 R249). -/
def Cmd.renewed (c : Cmd) : Bool := !c.broken || c.token

/-- A token request of a command joins the partition's list, unless it has one there (16 R348). -/
def askForCmd (s : State) (c : Cmd) : State :=
  if c.asked then s
  else
    (s.modCmd c.id fun d => { d with asked := true }).modPart (pnumOf c.tk) fun p =>
      { p with tokenReqs := p.tokenReqs ++ [(true, c.id)] }

/-- MMA_STEP_COMPLETE: the step is performed whole, or asks for the token it needs to go on after a stop (09 R238,
R240). -/
def execMmaStepComplete (cmd : Nat) (s : State) : Out :=
  .next <| match eventCmd s cmd with
    | none => s
    | some (c, t) =>
      if c.kind ≠ kindMma ∨ !matrixTurn s c t then s
      else if !c.token then askForCmd s c
      else completeRun s cmd fun s c t => stepRun s c t c.step

/-- A command that a fault has stopped leaves its engine to others. -/
def Cmd.leaveEngine (c : Cmd) : Cmd := if c.stop.isSome then { c with started := false, broken := false } else c

/-- MMA_STEP_FAULT_STOP: a step or a task's step stops at its block (09 R240, R247). -/
def execMmaStepFaultStop (cmd : Nat) (s : State) : Out :=
  .next <| match eventCmd s cmd with
    | none => s
    | some (c, t) =>
      if c.token ∧ ((c.kind = kindMma ∧ matrixTurn s c t) ∨ (c.kind = kindTtq ∧ c.started ∧ taskOp c.bytes = 0)) then
        (stopRun s cmd fun s c t => stepRun s c t c.step).modCmd cmd Cmd.leaveEngine
      else s

/-- ACCUMULATOR_COMMAND_COMPLETE: an accumulator command, or mscl, takes effect whole; one that a halt broke off asks for a
new token first (09 R235, R243, R249). -/
def execAccumulatorCommandComplete (cmd : Nat) (s : State) : Out :=
  .next <| match eventCmd s cmd with
    | none => s
    | some (c, t) =>
      if c.kind = kindMma ∨ !matrixTurn s c t then s
      else if !c.renewed then askForCmd s c
      else if c.kind = kindAcc then
        completeCmd (s.modTeam c.tk fun t => clearTile t (c.args.getD 0 0)) c [] 0
      else if c.kind = kindAcc + 7 then
        let r := outElement 0 c.fpm (dget 0 t.tiles (tileKey (c.args.getD 0 0) (c.args.getD 1 0) (c.args.getD 2 0)))
        completeCmd s c [.s (c.args.getD 3 0) (BitVec.ofNat 32 r.1)] r.2
      else if c.kind = kindMscl then
        let base : Dword := BitVec.ofNat 64 (c.args.getD 0 0)
        let ctl : Word := BitVec.ofNat 32 (c.args.getD 1 0)
        completeCmd (s.modTeam c.tk fun t =>
          if c.sub = 0 then { t with scaleBase0 := base, scaleCtl0 := ctl }
          else { t with scaleBase1 := base, scaleCtl1 := ctl }) c [] 0
      else completeRun s cmd fun s c t => imageRun s c t c.image

/-- ACCUMULATOR_FAULT_STOP: an accumulator command or a task on an image stops at its row (09 R244, R247). -/
def execAccumulatorFaultStop (cmd : Nat) (s : State) : Out :=
  .next <| match eventCmd s cmd with
    | none => s
    | some (c, t) =>
      if (kindAcc < c.kind ∧ c.kind < kindAcc + 7 ∧ matrixTurn s c t ∧ c.renewed)
          ∨ (c.kind = kindTtq ∧ c.started ∧ 2 ≤ taskOp c.bytes) then
        (stopRun s cmd fun s c t => imageRun s c t c.image).modCmd cmd Cmd.leaveEngine
      else s

/-- A task is startable but for its token: no earlier task of its team with a token it depends on, no earlier matrix
instruction of its team, its engine and its tile free (09 R247). -/
def taskReady (s : State) (c : Cmd) (t : Team) : Bool :=
  let waits (dep : Nat) : Bool := dep != 0 && s.cmds.any fun d =>
    d.tk == c.tk && d.kind == kindTtq && decide (d.seq < c.seq) && fieldAt d.bytes 0 4 == dep
  c.kind == kindTtq && !c.started && !waits (fieldAt c.bytes 4 4) && !waits (fieldAt c.bytes 8 4)
    && !(s.cmds.any fun d => d.tk == c.tk && d.isMatrix && decide (d.seq < c.seq)) && engineTakes s c t

/-- An older task of the cluster could start as well. -/
def olderStartable (s : State) (c : Cmd) (t : Team) : Bool :=
  s.cmds.any fun d => decide (d.seq < c.seq) && d.token && match cmdTeam s d with
    | some u => u.core / 8 == t.core / 8 && taskReady s d u
    | none => false

/-- TILE_TASK_START: a startable task asks for its token, then starts, oldest first (09 R247, 16 R348). -/
def execTileTaskStart (cmd : Nat) (s : State) : Out :=
  .next <| match eventCmd s cmd with
    | none => s
    | some (c, t) =>
      if !taskReady s c t then s
      else if !c.token then askForCmd s c
      else if olderStartable s c t then s
      else s.modCmd cmd fun d => { d with started := true }

/-- TILE_TASK_COMPLETE: the started task has the effect of the instruction that OP names (09 R247). -/
def execTileTaskComplete (cmd : Nat) (s : State) : Out :=
  .next <| match eventCmd s cmd with
    | none => s
    | some (c, _) =>
      if c.kind ≠ kindTtq ∨ !c.started ∨ !c.token then s
      else
        match taskOp c.bytes with
        | 0 => completeRun s cmd fun s c t => stepRun s c t c.step
        | 1 => completeCmd (s.modTeam c.tk fun t => clearTile t (byteAt c.bytes 0x0D % 4)) c [] 0
        | _ => completeRun s cmd fun s c t => imageRun s c t c.image

/-! ### A halt (09 R233, R249) -/

/-- The command is on the engine: an instruction whose turn it is, or a started task. -/
def onEngine (s : State) (c : Cmd) (t : Team) : Bool :=
  if c.kind = kindTtq then c.started
  else
    c.kind != kindAcc && c.kind != kindAcc + 7 && c.kind != kindMscl && matrixTurn s c t && (c.kind != kindMma || c.token)
      && c.renewed

/-- The commands that a halt of teams finds the engines inside of: one of those on each engine, of free choice where the work
of several of the teams could be there (09 R234, R249; log 4). -/
def insideCmds (s : State) (tks : List Nat) : State × List Nat :=
  let on := s.cmds.filterMap fun c => match eventCmd s c.id with
    | some (c, t) =>
      if tks.contains c.tk && (c.isMatrix || c.kind == kindTtq) && onEngine s c t then some (engineOf t, c.id) else none
    | none => none
  (on.map Prod.fst).eraseDups.foldl
    (fun r e =>
      let mine := on.filter fun x => x.1 == e
      let (s, k) := pick r.1 mine.length
      (s, r.2 ++ [(mine.map Prod.snd).getD k 0])) (s, [])

/-- A halt of its team finds a command inside its step or its rows: any number of the blocks or rows left has been
performed, and the progress point is recorded with its token given back; the command counts as broken off when a part of
it has been performed (09 R249; log 4). -/
def breakMatrix (s : State) (c : Cmd) (t : Team) : State :=
  State.modCmd (id := c.id) (f := fun d => { d with broken := d.prog != 0 }) <|
  if c.kind = kindMma ∨ (c.kind = kindTtq ∧ taskOp c.bytes = 0) then
    let (s, n) := pick s (c.step.k / 32 - c.prog)
    breakOff s c (stepBlocks s c (cmdAgent s c t) c.step c.flags n c.prog) (c.prog + n)
  else if c.kind = kindTtq ∧ taskOp c.bytes = 1 then breakOff s c (.done s 0) 0
  else
    let (s, n) := pick s (c.image.count - c.prog)
    breakOff s c (imageRows s c c.image c.flags n c.prog) (c.prog + n)

/-- A halt stops a team's matrix work: what the halt finds its engine inside of is broken off, and every token of its commands
goes back (09 R233, R249). -/
def haltMatrix (s : State) (inside : List Nat) (tk : Nat) : State :=
  (s.cmds.filter fun c => c.tk == tk && (c.isMatrix || c.kind == kindTtq)).foldl
    (fun s c =>
      match eventCmd s c.id with
      | some (c, t) => if inside.contains c.id then breakMatrix s c t else dropToken s c
      | none => match s.cmd c.id with
        | some c => dropToken s c
        | none => s) s

end Sys2Proof.Machine
end

