-- ==== Sys2Proof/Machine/Peuri.lean ====
section
/-!
DEFINITION. The Peuri array set of a partition and the instructions of major 0x3D (11 R276-R293).
-/
namespace Sys2Proof.Machine

/-! ### Cells and the update rule (11 R276-R278) -/

/-- The array set of a partition. -/
def State.peuri (s : State) (pn : Nat) : PeuriSet := (s.part pn).peuri
/-- Change the array set of a partition. -/
def State.modPeuri (s : State) (pn : Nat) (f : PeuriSet → PeuriSet) : State :=
  s.modPart pn fun p => { p with peuri := f p.peuri }

/-- The arrays of a partition's set. -/
def arraysOf (s : State) (pn : Nat) : Nat := popCount 4 (s.part pn).arrays.toNat

/-- The variable x of a cell (11 R276). -/
def PeuriSet.x (p : PeuriSet) (j : Nat) : Int :=
  let b : Int := if dget false p.b j then 1 else 0
  if p.spin then 2 * b - 1 else b

/-- The exact weighted sum I of a cell (11 R277). -/
def PeuriSet.sum (p : PeuriSet) (c : PCell) : Int := c.couplings.foldl (fun acc k => acc + k.2 * p.x k.1) c.bias

/-- y: beta x scale x I rounded once to FP32, to nearest even (11 R277). -/
def PeuriSet.drive (p : PeuriSet) (i : Int) : Nat :=
  match FFmt.f32.read p.beta.toNat, FFmt.f32.read p.scale.toNat with
  | .num na ma ea, .num nb mb eb =>
    (FFmt.f32.round { mode := 0, u := 0 } 0 false (xor (xor na nb) (decide (i < 0))) (ma * mb * i.natAbs) (ea + eb)).1
  | _, _ => FFmt.f32.defaultNan

/-- The new state of a cell with threshold L: y > L, strictly and ordered (11 R277). -/
def PeuriSet.draw (p : PeuriSet) (c : PCell) (l : Word) : Bool :=
  (FFmt.f32.read (p.drive (p.sum c))).order (FFmt.f32.read l.toNat) == .greater

/-- The unclamped cells of a colour, in ascending index. -/
def PeuriSet.free (p : PeuriSet) (colour : Nat) : List (PCell × Nat) :=
  p.cells.zipIdx.filter fun e => e.1.colour == colour && !dget false p.clamp e.2

/-- U: the unclamped cells of the model (11 R290). -/
def PeuriSet.unclamped (p : PeuriSet) : Nat := (p.cells.zipIdx.filter fun e => !dget false p.clamp e.2).length

/-- Thresholds drawn before colour phase k of a psweep, k counting through its sweeps (11 R278). -/
def PeuriSet.drawn (p : PeuriSet) (k : Nat) : Nat :=
  k / p.colours * p.unclamped + ((List.range (k % p.colours)).map fun c => (p.free c).length).sum

/-- The threshold that the n-th draw of a psweep takes: the stream's word, or the cell's own noise (11 R278; log 7). -/
def threshold (s : State) (p : PeuriSet) (scr : List Host.Cell) (off first n : Nat) : Word :=
  if p.replaySrc then BitVec.ofNat 32 (natOfBytes (cellsRead scr (off + 4 * n) 4)) else Config.noise (s.fresh + (n - first))

/-- Every cell in state 1 counts once more (11 R277). -/
def PeuriSet.tally (p : PeuriSet) : PeuriSet :=
  let ones := p.b.filter fun (e : Nat × Bool) => e.2
  let more := ones.foldl (fun m e => dput 0 m e.1 (min (dget 0 p.count e.1 + 1) 65535)) p.count
  { p with count := more }

/-- Colour phase k of a psweep: its cells update at once, from the states as they stood, and the last phase of a sweep
counts (11 R277). -/
def sweepPhase (s : State) (pn tk off k : Nat) : State :=
  let p := s.peuri pn
  let scr := ((s.team tk).map Team.scr).getD []
  let first := p.drawn k
  let new := (p.free (k % p.colours)).zipIdx.map fun e => (e.1.2, p.draw e.1.1 (threshold s p scr off first (first + e.2)))
  let q := { p with b := new.foldl (fun m e => dput false m e.1 e.2) p.b }
  let s := if p.replaySrc then s else { s with fresh := s.fresh + new.length }
  s.modPeuri pn fun _ => if k % p.colours + 1 = p.colours then q.tally else q

/-- n colour phases from phase k on. -/
def sweepPhases (s : State) (pn tk off : Nat) : Nat → Nat → State
  | 0, _ => s
  | n + 1, k => sweepPhases (sweepPhase s pn tk off k) pn tk off n (k + 1)

/-! ### Loading a model (11 R279-R281, R287) -/

/-- FP32 bits of a finite number. -/
def finite32 (w : Nat) : Bool := nbits w 23 8 != 255

/-- Pass 1: the header's fields, subcode 2, then GANG against the set, subcode 8 (11 R287). A GANG of 0 or above 4 is subcode 2:
pass 1 has the header's fields there, while the table of subcodes lists GANG only under 8 (DESIGN CHOICE, log 54). -/
def headerFails (bs : List Byte) (arrays : Nat) : Option Nat :=
  let n := fieldAt bs 0 4
  let gang := byteAt bs 4
  if gang < 1 || decide (4 < gang) || n < 1 || decide (65536 * gang < n) || !finite32 (fieldAt bs 8 4)
      || !finite32 (fieldAt bs 0x0C 4) || fieldAt bs 0x10 8 % 8 != 0 || fieldAt bs 0x18 8 % 4 != 0
      || !canonicalVa (BitVec.ofNat 64 (fieldAt bs 0x10 8)) || !canonicalVa (BitVec.ofNat 64 (fieldAt bs 0x18 8))
      || fieldAt bs 5 3 != 0 || fieldAt bs 0x24 28 != 0 then some 2
  else if arrays < gang then some 8
  else none

/-- What a part of a load comes to: a result, or the subcode and address at which it ends. -/
abbrev Loading (α : Type) := Except (State × AccFault) (State × Except (Nat × Nat) α)

/-- A cell's coupling entries, in entry order: neighbour and weight; an index of NCELLS or more is subcode 5. Entries past the
canonical range are read at their address modulo the line key, as `loadCell` says (DESIGN CHOICE, log 51). All of the cell's
entries are read before any is checked, so that a fault on a later entry comes before a bad J in an earlier one: 11 R287
gives no order of the reads and checks inside a cell (DESIGN CHOICE, log 53). -/
def loadCouplings (s : State) (a : Agent) (cpls first n ncells at_ : Nat) : Loading (List (Nat × Int)) :=
  match vread s a (cpls + 4 * first) (4 * n) with
  | .error e => .error e
  | .ok (s, bs) =>
    let es := (List.range n).map fun k => (fieldAt bs (4 * k) 3, sintN 8 (byteAt bs (4 * k + 3)))
    if es.any fun e => decide (ncells ≤ e.1) then .ok (s, .error (5, at_)) else .ok (s, .ok es)

/-- Pass 2 on one cell: its record, subcode 2, then its couplings. COLOUR 15 is AUTO. 11 R287 tests that CELLS and CPLS are
canonical and gives no outcome where a canonical array runs on past the canonical range: the model reads such a record at its
address modulo the line key, with no fault (DESIGN CHOICE, log 51). -/
def loadCell (s : State) (a : Agent) (hdr : List Byte) (i : Nat) : Loading PCell :=
  let at_ := fieldAt hdr 0x10 8 + 8 * i
  match vread s a at_ 8 with
  | .error e => .error e
  | .ok (s, r) =>
    let ncpl := byteAt r 2
    let colour := byteAt r 3
    if decide (32 < ncpl) || decide (8 ≤ colour ∧ colour ≠ 15) || decide (fieldAt hdr 0x20 4 < fieldAt r 4 4 + ncpl) then
      .ok (s, .error (2, at_))
    else
      match loadCouplings s a (fieldAt hdr 0x18 8) (fieldAt r 4 4) ncpl (fieldAt hdr 0 4) at_ with
      | .error e => .error e
      | .ok (s, .error e) => .ok (s, .error e)
      | .ok (s, .ok cs) => .ok (s, .ok { bias := sintN 16 (fieldAt r 0 2), colour := colour, couplings := cs })

/-- Pass 2 on n cells from cell i on. -/
def loadCells (s : State) (a : Agent) (hdr : List Byte) : Nat → Nat → Loading (List PCell)
  | 0, _ => .ok (s, .ok [])
  | n + 1, i =>
    match loadCell s a hdr i with
    | .error e => .error e
    | .ok (s, .error e) => .ok (s, .error e)
    | .ok (s, .ok c) =>
      match loadCells s a hdr n (i + 1) with
      | .error e => .error e
      | .ok (s, .error e) => .ok (s, .error e)
      | .ok (s, .ok cs) => .ok (s, .ok (c :: cs))

/-- The cell lists another as its neighbour. -/
def PCell.lists (c : PCell) (j : Nat) : Bool := c.couplings.any fun k => k.1 == j

/-- The colours that the neighbours of cell i hold; AUTO cells not yet assigned hold 15 (11 R281). -/
def takenColours (cells : List PCell) (i : Nat) : List Nat :=
  let mine (j : Nat) : Bool := match cells[i]? with
    | some c => c.lists j
    | none => false
  (cells.zipIdx.filter fun e => e.2 != i && (e.1.lists i || mine e.2)).map fun e => e.1.colour

/-- Pass 3: AUTO cells take the smallest free colour in ascending index: n cells from cell i on, or the cell that finds
all eight taken. -/
def assignColours (cells : List PCell) : Nat → Nat → Except Nat (List PCell)
  | 0, _ => .ok cells
  | n + 1, i =>
    match cells[i]? with
    | none => .ok cells
    | some c =>
      if c.colour ≠ 15 then assignColours cells n (i + 1)
      else
        match (List.range 8).find? fun k => !(takenColours cells i).contains k with
        | none => .error i
        | some k => assignColours (setAt cells i { c with colour := k }) n (i + 1)

/-- Pass 4: the first cell with a coupling to a cell of its own colour. -/
def colourClash (cells : List PCell) : Option Nat :=
  (cells.zipIdx.find? fun e => e.1.couplings.any fun k =>
    (cells[k.1]?.map PCell.colour) == some e.1.colour).map Prod.snd

/-- The set with a loaded model: every state and count 0 and no cell clamped (11 R287). -/
def PeuriSet.withModel (p : PeuriSet) (hdr : List Byte) (cells : List PCell) : PeuriSet :=
  { p with cells := cells, gang := byteAt hdr 4, scale := BitVec.ofNat 32 (fieldAt hdr 8 4),
           beta := BitVec.ofNat 32 (fieldAt hdr 0x0C 4), colours := cells.foldl (fun m c => max m (c.colour + 1)) 0,
           b := [], clamp := [], count := [] }

/-- The set without a model; encoding, source and queue stay (11 R287). -/
def PeuriSet.noModel (p : PeuriSet) : PeuriSet :=
  { PeuriSet.empty with spin := p.spin, replaySrc := p.replaySrc, queue := p.queue }

/-- A load performed from the header on (11 R287). -/
def loadRun (s : State) (c : Cmd) (t : Team) : EngineRun :=
  let pn := pnumOf c.tk
  let a := cmdAgent s c t
  let addr := c.args.getD 0 0
  match vread s a addr 64 with
  | .error (s, cause, sub, va) => .stopped s 0 0 cause sub va 1
  | .ok (s, hdr) =>
    match headerFails hdr (arraysOf s pn) with
    | some sub => .failed s 0x15 sub addr
    | none =>
      match loadCells s a hdr (fieldAt hdr 0 4) 0 with
      | .error (s, cause, sub, va) => .stopped s 0 0 cause sub va 1
      | .ok (s, .error (sub, va)) => .failed s 0x15 sub va
      | .ok (s, .ok cells) =>
        match assignColours cells cells.length 0 with
        | .error i => .failed s 0x15 3 (fieldAt hdr 0x10 8 + 8 * i)
        | .ok cells =>
          match colourClash cells with
          | some i => .failed s 0x15 4 (fieldAt hdr 0x10 8 + 8 * i)
          | none => .done (s.modPeuri pn fun p => p.withModel hdr cells) 0

/-! ### Issue (11 R286) -/

/-- A command of major 0x3D: team-level; without an array cause 0x15 subcode 0, then the function's own checks, each
precise; else it is counted on PA and joins the set's queue. -/
def peuriOp (s : State) (h : Hdr) (fn sub : Nat) (args : Issuer → List Nat)
    (check : Issuer → Option (Nat × Nat × Nat)) : Out :=
  withIssuer s fun x =>
    match x.elected h with
    | none => s.pass x 4 h.s
    | some lane =>
      if arraysOf s (pnumOf x.tk) = 0 then trapElected s x 0x15 0 0 lane
      else
        match check x with
        | some (c, sub, addr) => trapElected s x c sub (BitVec.ofNat 64 addr) lane
        | none =>
          if x.t.full PA then s.stall
          else
            issueCmd (s.modPeuri (pnumOf x.tk) fun p => { p with queue := p.queue ++ [s.nextCmd] }) x PA
              { kind := kindPeuri + fn, sub := sub, lane := lane, args := args x, bytes := [], lanes := [], token := false }
              h.s

/-- pload (11 R287). -/
def execPload (f : UA) (s : State) : Out :=
  peuriOp s f.h 0 0 (fun x => [(x.t.zr f.a.toNat).toNat]) fun x =>
    let a := x.t.zr f.a.toNat
    if !canonicalVa a then some (0x09, 0, a.toNat) else if a.toNat % 64 ≠ 0 then some (0x08, 0, a.toNat) else none

/-- pmode (11 R288). -/
def execPmode (f : PT) (s : State) : Out := peuriOp s f.h 1 f.t.toNat (fun _ => []) fun _ => none

/-- Registers s[a] and s(a+1). -/
def twoUniforms (t : Team) (a : Nat) : List Nat := [(t.sr a).toNat, (t.sr (a + 1)).toNat]

/-- pclamp (11 R289). The rule gives its three checks no order: the model takes the offset's alignment (0x08), then the count
(0x15, subcode 1), then the range (0x0C) (DESIGN CHOICE, log 51). -/
def execPclamp (f : UA) (s : State) : Out :=
  peuriOp s f.h 2 0 (fun x => twoUniforms x.t f.a.toNat) fun x =>
    let off := (x.t.sr f.a.toNat).toNat
    let n := (x.t.sr (f.a.toNat + 1)).toNat
    if off % 4 ≠ 0 then some (0x08, 0, off)
    else if n < 1 ∨ 65536 < n then some (0x15, 1, 0)
    else if x.t.scratch < off + 4 * n then some (0x0C, 0, off)
    else none

/-- psweep (11 R290). -/
def execPsweep (f : UA) (s : State) : Out := peuriOp s f.h 3 0 (fun x => twoUniforms x.t f.a.toNat) fun _ => none

/-- Bytes that pread writes for n cells (11 R291). -/
def preadBytes (sub n : Nat) : Nat := if sub = 0 then ceilDiv n 8 else 2 * n

/-- pread with its checks at issue (11 R291). ADDR of cause 0x09 is z[a] also where only the extent leaves the canonical range,
and a count of 0 leaves the base to be checked still, before the start's subcodes 5 and 7: the rule says neither (DESIGN
CHOICE, log 55). -/
def preadOp (s : State) (f : UN) (sub : Nat) : Out :=
  peuriOp s f.h 4 sub (fun x => (x.t.zr f.a.toNat).toNat :: twoUniforms x.t f.d.toNat) fun x =>
    let a := x.t.zr f.a.toNat
    if !canonicalVa a || (badExtent s x.tk x.t 0 (sintN 64 a.toNat) (preadBytes sub (x.t.sr (f.d.toNat + 1)).toNat)).isSome then
      some (0x09, 0, a.toNat)
    else if sub = 1 ∧ a.toNat % 2 ≠ 0 then some (0x08, 0, a.toNat)
    else none

/-- pread.states (11 R291). -/
def execPreadStates (f : UN) (s : State) : Out := preadOp s f 0
/-- pread.counts (11 R291). -/
def execPreadCounts (f : UN) (s : State) : Out := preadOp s f 1
/-- preset (11 R292). -/
def execPreset (f : PT) (s : State) : Out := peuriOp s f.h 5 f.t.toNat (fun _ => []) fun _ => none

/-! ### Performing commands (11 R283-R292) -/

/-- The command that the set is performing. -/
def peuriRunning (s : State) (pn : Nat) : Option Cmd := ((s.peuri pn).queue.filterMap s.cmd).find? Cmd.started

/-- The next command that may start: none while one is being performed; commands of one team keep their order
(11 R283, R285). Commands of different teams, which the spec leaves unordered, start in the order in which they joined the
queue, that of their issue (DESIGN CHOICE, log 53). -/
def peuriNext (s : State) (pn : Nat) : Option (Cmd × Team) :=
  if (peuriRunning s pn).isSome then none
  else
    let cs := (s.peuri pn).queue.filterMap s.cmd
    (cs.find? fun c => (cmdTeam s c).isSome && cs.all fun d => d.tk != c.tk || decide (c.seq ≤ d.seq)).bind fun c =>
      (cmdTeam s c).map fun t => (c, t)

/-- A clamp entry's first failing check (11 R289). -/
def clampFails (p : PeuriSet) (w : Nat) : Option Nat :=
  if p.cells.length ≤ nbits w 0 24 then some 5 else if nbits w 25 6 ≠ 0 then some 9 else none

/-- The clamp entries of a pclamp. -/
def clampList (t : Team) (c : Cmd) : List Byte := cellsRead t.scr (c.args.getD 0 0) (4 * c.args.getD 1 0)

/-- The words of a byte list. -/
def wordsOf (bs : List Byte) : List Nat := (List.range (bs.length / 4)).map fun k => fieldAt bs (4 * k) 4

/-- The checks that a command makes at its start: cause, subcode, address (11 R289-R291). -/
def startFails (s : State) (c : Cmd) (t : Team) : Option (Nat × Nat × Nat) :=
  let p := s.peuri (pnumOf c.tk)
  let x := c.args.getD 0 0
  let y := c.args.getD 1 0
  if (c.kind = kindPeuri + 2 ∨ c.kind = kindPeuri + 3 ∨ c.kind = kindPeuri + 4) ∧ p.cells.isEmpty then some (0x15, 7, 0)
  else if c.kind = kindPeuri + 2 then
    ((wordsOf (clampList t c)).findSome? (clampFails p)).map fun sub => (0x15, sub, 0)
  else if c.kind = kindPeuri + 3 ∧ x ≠ 0 ∧ p.replaySrc then
    if y % 4 ≠ 0 then some (0x08, 0, y) else if t.scratch < y + 4 * x * p.unclamped then some (0x15, 6, 0) else none
  else if c.kind = kindPeuri + 4 ∧ (c.args.getD 2 0 = 0 ∨ p.cells.length < y + c.args.getD 2 0) then some (0x15, 5, 0)
  else none

/-- A command leaves the set's queue. -/
def leavePeuri (s : State) (c : Cmd) : State :=
  s.modPeuri (pnumOf c.tk) fun p => { p with queue := p.queue.filter fun i => i != c.id }

/-- PEURI_COMMAND_START: the checks at the start; a failure ends the command with nothing done. A load discards the
previous model; a clamp reads its list (11 R283, R286, R287, R289). -/
def execPeuriCommandStart (pnum : Nat) (s : State) : Out :=
  .next <| match peuriNext s pnum with
    | none => s
    | some (c, t) =>
      match startFails s c t with
      | some (cause, sub, addr) => commandTrap (leavePeuri s c) c cause sub (BitVec.ofNat 64 addr)
      | none =>
        let s := if c.kind = kindPeuri then s.modPeuri pnum PeuriSet.noModel else s
        s.modCmd c.id fun d =>
          { d with started := true, bytes := if c.kind = kindPeuri + 2 then clampList t c else d.bytes }

/-- One clamp entry applied (11 R289). -/
def PeuriSet.apply (p : PeuriSet) (w : Nat) : PeuriSet :=
  let j := nbits w 0 24
  if nbit w 31 then { p with b := dput false p.b j (nbit w 24), clamp := dput false p.clamp j true }
  else { p with clamp := dput false p.clamp j false }

/-- The bytes that pread writes (11 R291). -/
def preadData (p : PeuriSet) (sub first n : Nat) : List Byte :=
  if sub = 0 then packElems 1 ((List.range (8 * ceilDiv n 8)).map fun k => if k < n ∧ dget false p.b (first + k) then 1 else 0)
  else (List.range n).flatMap fun k => bytesOf 2 (dget 0 p.count (first + k))

/-- A pread performed from its progress point: the lowest cell not written, a multiple of 8 for states (11 R291). -/
def preadRun (s : State) (c : Cmd) (t : Team) : EngineRun :=
  let p := s.peuri (pnumOf c.tk)
  let addr := c.args.getD 0 0
  let bs := preadData p c.sub (c.args.getD 1 0) (c.args.getD 2 0)
  let off := if c.sub = 0 then c.prog / 8 else 2 * c.prog
  match vwrite s (cmdAgent s c t) (addr + off) (bs.drop off) with
  | .error (s, cause, sub, va) => .stopped s (if c.sub = 0 then 8 * (va - addr) else (va - addr) / 2) 0 cause sub va 2
  | .ok s => .done s 0

/-- A command of the set performed, from its progress point. -/
def peuriRun (s : State) (c : Cmd) (t : Team) : EngineRun :=
  let pn := pnumOf c.tk
  match c.kind - kindPeuri with
  | 0 => loadRun s c t
  | 1 => .done (s.modPeuri pn fun p => { p with spin := nbit c.sub 0, replaySrc := nbit c.sub 1 }) 0
  | 2 => .done (s.modPeuri pn fun p => (wordsOf c.bytes).foldl PeuriSet.apply p) 0
  | 3 =>
    let total := c.args.getD 0 0 * (s.peuri pn).colours
    .done (sweepPhases s pn c.tk (c.args.getD 1 0) (total - c.prog) c.prog) 0
  | 4 => preadRun s c t
  | _ =>
    .done (s.modPeuri pn fun p =>
      { p with count := if nbit c.sub 0 then [] else p.count,
               b := if nbit c.sub 1 then p.b.filter fun e => dget false p.clamp e.1 else p.b }) 0

/-- PEURI_COMMAND_COMPLETE: the command that the set performs takes its effect whole and leaves the set; a failing check
of a load ends it (11 R283, R287). -/
def execPeuriCommandComplete (pnum : Nat) (s : State) : Out :=
  .next <| match peuriRunning s pnum with
    | none => s
    | some c =>
      match cmdTeam s c with
      | none => s
      | some t =>
        match peuriRun s c t with
        | .done s flags => completeCmd (leavePeuri s c) c [] flags
        | .stopped _ _ _ _ _ _ _ => s
        | .failed s cause sub addr => commandTrap (leavePeuri s c) c cause sub (BitVec.ofNat 64 addr)

/-- PEURI_LOAD_FAULT: a fault stops the load, or the pread, that the set performs; the set performs nothing else until it
is replayed (11 R287, R291). -/
def execPeuriLoadFault (pnum : Nat) (s : State) : Out :=
  .next <| match peuriRunning s pnum with
    | none => s
    | some c => stopRun s c.id peuriRun

/-- The colour phases that a running psweep has performed when a halt of its team stops it: any number of those left
(11 R285; log 4). -/
def haltSweep (s : State) (tk : Nat) : State :=
  match peuriRunning s (pnumOf tk) with
  | none => s
  | some c =>
    if c.tk = tk ∧ c.kind = kindPeuri + 3 then
      let left := c.args.getD 0 0 * (s.peuri (pnumOf tk)).colours - c.prog
      let (s, n) := pick s left
      (sweepPhases s (pnumOf tk) tk (c.args.getD 1 0) n c.prog).modCmd c.id fun d => { d with prog := c.prog + n }
    else s

end Sys2Proof.Machine
end

