-- ==== Sys2Proof/Machine/Volume.lean ====
section
/-!
DEFINITION. The tree walker (10 R250-R266): walks from the root, the voxel and marching instructions.
-/
namespace Sys2Proof.Machine

/-! ### Walks (10 R251-R255) -/

/-- The outcome of accesses made one after another: the state and a result, or the state and the first fault. -/
abbrev Tried := Except (State × AccFault)

/-- The trap of a tree that a walk finds corrupt (10 R259). -/
def corrupt (s : State) (t : Tree) : State × AccFault := (s, 0x12, 5, t.addr)

/-- Bits of a coordinate pattern. -/
def cbits (c : Word) (lo n : Nat) : Nat := nbits c.toNat lo n

/-- A voxel as its three coordinate patterns. -/
structure Coord where
  x : Word
  y : Word
  z : Word
  deriving DecidableEq, Repr

/-- The root key of a voxel's region, occupied (10 R251, R252). -/
def Coord.key (c : Coord) : Nat := 2 ^ 63 + cbits c.x 11 21 * 2 ^ 42 + cbits c.y 11 21 * 2 ^ 21 + cbits c.z 11 21
/-- The first slot of the probe (10 R252). -/
def Coord.first (c : Coord) (n : Nat) : Nat :=
  (cbits c.x 11 21 * 0x9E3779B1 + cbits c.y 11 21 * 0x7FEB352D + cbits c.z 11 21 * 0x846CA68B) % 2 ^ 32 / 2 ^ (32 - n)
/-- The entry index in a level-1 node (lo = 3) or a level-2 node (lo = 7). -/
def Coord.entry (c : Coord) (lo : Nat) : Nat := cbits c.x lo 4 + 16 * cbits c.y lo 4 + 256 * cbits c.z lo 4
/-- The voxel index within the leaf. -/
def Coord.voxel (c : Coord) : Nat := cbits c.x 0 3 + 8 * cbits c.y 0 3 + 64 * cbits c.z 0 3
/-- A neighbour, modulo 2^32 on each axis. -/
def Coord.shift (c : Coord) (d : Int × Int × Int) : Coord :=
  { x := c.x + wordOfInt d.1, y := c.y + wordOfInt d.2.1, z := c.z + wordOfInt d.2.2 }

/-- The slot at which a probe stops: its address and whether it holds the key; none when it probes every slot. -/
def probe (s : State) (a : Agent) (t : Tree) (c : Coord) : Nat → Nat → Tried (State × Option (Nat × Bool))
  | 0, _ => .ok (s, none)
  | n + 1, i =>
    let at_ := t.root + 16 * ((c.first t.rootlog + i) % 2 ^ t.rootlog)
    match treeNat s a at_ 8 with
    | .error e => .error e
    | .ok (s, k) =>
      if k = c.key then .ok (s, some (at_, true))
      else if k = 0 then .ok (s, some (at_, false))
      else probe s a t c n (i + 1)

/-- The root lookup of a voxel (10 R252). -/
def rootLookup (s : State) (a : Agent) (t : Tree) (c : Coord) : Tried (State × Option (Nat × Bool)) :=
  probe s a t c (2 ^ t.rootlog) 0

/-- A node entry: its address, VALUE, CHILD and FLAGS (10 R253). -/
structure Entry where
  at_ : Nat
  value : Nat
  child : Nat
  flags : Nat
  deriving DecidableEq, Repr

def Entry.hasChild (e : Entry) : Bool := nbit e.flags 0
def Entry.active (e : Entry) : Bool := nbit e.flags 1
def Entry.busy (e : Entry) : Bool := nbit e.flags 2

/-- The entry of a voxel in a node. -/
def readEntry (s : State) (a : Agent) (t : Tree) (node lo : Nat) (c : Coord) : Tried (State × Entry) := do
  let at_ := t.nodeAt node + 16 * c.entry lo
  let (s, w) ← treeNat s a at_ 16
  .ok (s, { at_ := at_, value := nbits w 0 64, child := nbits w 64 32, flags := nbits w 96 32 })

/-- What a voxel resolves to (10 R255): the level, the value's bits, its active state, the leaf's handle and address at
level 0, and the address of the entry at which a walk without a leaf ended. -/
structure Voxel where
  level : Nat
  value : Nat
  active : Bool
  handle : Nat
  leaf : Nat
  entry : Nat
  deriving DecidableEq, Repr

/-- The low b bytes of a value field. -/
def Tree.value (t : Tree) (v : Nat) : Nat := v % 256 ^ t.vb

/-- A tile's voxel. -/
def tileVoxel (t : Tree) (level : Nat) (e : Entry) : Voxel :=
  { level := level, value := t.value e.value, active := e.active, handle := 0, leaf := 0, entry := e.at_ }

/-- The voxel's leaf by its handle, before its value is read. -/
def leafPlace (t : Tree) (handle entry : Nat) : Voxel :=
  { level := 0, value := 0, active := false, handle := handle, leaf := t.leafAt handle, entry := entry }

/-- A leaf that a tree names: its handle lies below LEAFCAP and its VTYPE is the tree's (10 R259). -/
def checkLeaf (s : State) (a : Agent) (t : Tree) (handle : Nat) : Tried State := do
  if t.leafcap ≤ handle then .error (corrupt s t)
  else
    let (s, vt) ← treeNat s a (t.leafAt handle + 0x0C) 1
    if vt ≠ t.vtype then .error (corrupt s t) else .ok s

/-- The header of a leaf that a walk has found, checked likewise, as far as LIVE: the walker reads ORIGIN and LIVE with VTYPE
whether or not its pod cache has the leaf, so that nothing but time depends on that (01 R17, 10 R260; log 15). -/
def leafHeader (s : State) (a : Agent) (t : Tree) (handle : Nat) : Tried (State × List Byte) := do
  if t.leafcap ≤ handle then .error (corrupt s t)
  else
    let (s, bs) ← treeBytes s a (t.leafAt handle) 16
    if byteAt bs 0x0C ≠ t.vtype then .error (corrupt s t) else .ok (s, bs)

/-- The value and the active state of a voxel in its leaf. -/
def leafValue (s : State) (a : Agent) (t : Tree) (c : Coord) (v : Voxel) : Tried (State × Voxel) := do
  let (s, x) ← treeNat s a (v.leaf + 0x80 + c.voxel * t.vb) t.vb
  let (s, m) ← treeNat s a (v.leaf + 0x20 + c.voxel / 8) 1
  .ok (s, { v with value := x, active := nbit m (c.voxel % 8) })

/-- The level-3 result: BACKGROUND, with the descriptor for an entry (10 R255, R263). -/
def backgroundVoxel (t : Tree) : Voxel :=
  { level := 3, value := t.value t.background, active := false, handle := 0, leaf := 0, entry := t.addr }

/-- A voxel's place found from the root, with the header of its leaf if it has one; a BUSY slot reads as absent and a BUSY
entry as its tile (10 R252, R255). -/
def walkVoxel (s : State) (a : Agent) (t : Tree) (c : Coord) : Tried (State × Voxel × List Byte) := do
  let (s, slot) ← rootLookup s a t c
  match slot with
  | some (at_, true) =>
    let (s, w) ← treeNat s a (at_ + 8) 8
    if nbit w 34 then .ok (s, backgroundVoxel t, [])
    else if t.nodecap ≤ nbits w 0 32 then .error (corrupt s t)
    else
      let (s, e2) ← readEntry s a t (nbits w 0 32) 7 c
      if !e2.hasChild || e2.busy then .ok (s, tileVoxel t 2 e2, [])
      else if t.nodecap ≤ e2.child then .error (corrupt s t)
      else
        let (s, e1) ← readEntry s a t e2.child 3 c
        if !e1.hasChild || e1.busy then .ok (s, tileVoxel t 1 e1, [])
        else
          let (s, bs) ← leafHeader s a t e1.child
          .ok (s, leafPlace t e1.child e1.at_, bs)
  | _ => .ok (s, backgroundVoxel t, [])

/-! ### The pod cache (10 R260, R270) -/

/-- The leaf of a voxel as its root-to-leaf key: X, Y and Z in units of 8 voxels. -/
def Coord.origin (c : Coord) : Nat := cbits c.x 3 29 * 2 ^ 58 + cbits c.y 3 29 * 2 ^ 29 + cbits c.z 3 29

/-- ORIGIN of a leaf's header as that key, with its low bits to be zero, and LIVE. -/
def headerIs (bs : List Byte) (c : Coord) : Bool :=
  nbit (byteAt bs 0x0D) 0 && fieldAt bs 0 4 == (c.x &&& ~~~7).toNat && fieldAt bs 4 4 == (c.y &&& ~~~7).toNat
    && fieldAt bs 8 4 == (c.z &&& ~~~7).toNat

/-- An entry of the pod cache of a cluster's walker for a leaf of a tree. -/
def Pod.serves (p : Pod) (cluster gasid desc origin : Nat) : Bool :=
  p.cluster == cluster && p.gasid == gasid && p.desc == desc && p.origin == origin

/-- A walk that found a leaf fills its walker's pod cache; a full cache of 1,024 entries gives up one of the device's
choice. -/
def fillPod (s : State) (p : Pod) : State :=
  let mine := s.pods.filter fun q => q.cluster == p.cluster
  if mine.length < 1024 then { s with pods := s.pods ++ [p] }
  else
    let (s, k) := pick s mine.length
    { s with pods := (s.pods.erase (mine.getD k p)) ++ [p] }

/-- A walk has found a leaf: an entry of the pod cache serves when it names that leaf and the leaf's LIVE and ORIGIN agree; any
other is discarded, and the walk fills the cache (10 R260). -/
def meetPod (s : State) (p : Pod) (c : Coord) (header : List Byte) : State :=
  match s.pods.find? fun q => q.serves p.cluster p.gasid p.desc p.origin with
  | some q => if q.handle = p.handle ∧ headerIs header c then s else fillPod { s with pods := s.pods.erase q } p
  | none => fillPod s p

/-- A voxel's place by a walk from the root. The pod cache saves time alone: what an access finds is what a full walk finds,
whichever clusters hold the leaf's handle (01 R17, 10 R260). -/
def walkWithPod (s : State) (a : Agent) (cluster : Nat) (t : Tree) (c : Coord) : Tried (State × Voxel) := do
  let (s, v, header) ← walkVoxel s a t c
  if v.level = 0 then
    .ok (meetPod s { cluster := cluster, gasid := a.gasid, desc := t.addr, origin := c.origin, handle := v.handle } c header, v)
  else .ok (s, v)

/-- The leaves of a voxel that outstanding deletions have unlinked. -/
def ghostsOf (s : State) (a : Agent) (t : Tree) (c : Coord) : List Ghost :=
  s.ghosts.filter fun g => g.gasid == a.gasid && g.desc == t.addr && g.origin == c.origin && decide (g.handle < t.leafcap)

/-- A voxel's place. While a vdel of its leaf is outstanding no access of a walker is
ordered after it, and the device may still use the leaf's slot as it stands, until an insertion that has taken the slot is
no longer outstanding (10 R270; log 49). -/
def findVoxel (s : State) (a : Agent) (cluster : Nat) (t : Tree) (c : Coord) : Tried (State × Voxel) :=
  match ghostsOf s a t c with
  | [] => walkWithPod s a cluster t c
  | gs =>
    let (s, k) := pick s (gs.length + 1)
    match gs[k]? with
    | some g => .ok (s, leafPlace t g.handle t.addr)
    | none => walkWithPod s a cluster t c

/-- A voxel resolved, with its value and active state (10 R255). -/
def resolveVoxel (s : State) (a : Agent) (cluster : Nat) (t : Tree) (c : Coord) : Tried (State × Voxel) := do
  let (s, v) ← findVoxel s a cluster t c
  if v.level = 0 then leafValue s a t c v else .ok (s, v)

/-! ### The lane instructions (10 R257, R261-R264) -/

/-- The writes of value i of an instruction at register r on (10 R257). -/
def valueWrites (t : Tree) (r i l v : Nat) : List RegWrite :=
  if t.vb = 8 then wWrites (r + 2 * i) l (BitVec.ofNat 64 v) else [.v (r + i) l (BitVec.ofNat 32 v)]

/-- The offsets of a stencil shape in value order (10 R262). -/
def stencil (sub : Nat) : List (Int × Int × Int) :=
  let s7 : List (Int × Int × Int) := [(0, 0, 0), (-1, 0, 0), (1, 0, 0), (0, -1, 0), (0, 1, 0), (0, 0, -1), (0, 0, 1)]
  match sub with
  | 0 => s7
  | 1 => s7 ++ [(-2, 0, 0), (2, 0, 0), (0, -2, 0), (0, 2, 0), (0, 0, -2), (0, 0, 2)]
  | 2 => s7 ++ [(-1, -1, 0), (1, -1, 0), (-1, 1, 0), (1, 1, 0), (-1, 0, -1), (1, 0, -1)]
      ++ [(-1, 0, 1), (1, 0, 1), (0, -1, -1), (0, 1, -1), (0, -1, 1), (0, 1, 1)]
  | _ => (List.range 27).map fun i => ((i % 3 : Nat) - 1, (i / 3 % 3 : Nat) - 1, (i / 9 : Nat) - 1)

/-- The voxels of a stencil: their values' writes and the word of active bits. -/
def readStencil (s : State) (a : Agent) (cluster : Nat) (t : Tree) (c : Coord) (r l : Nat) :
    Nat → List (Int × Int × Int) → Tried (State × List RegWrite × Word)
  | _, [] => .ok (s, [], 0)
  | i, d :: ds => do
    let (s, v) ← resolveVoxel s a cluster t (c.shift d)
    let (s, ws, bits) ← readStencil s a cluster t c r l (i + 1) ds
    .ok (s, valueWrites t r i l v.value ++ ws, if v.active then bits ||| BitVec.twoPow 32 i else bits)

/-- The leaf of a voxel, or the missing-leaf fault with the entry at which the walk ended (10 R263). -/
def leafOf (s : State) (a : Agent) (cluster : Nat) (t : Tree) (c : Coord) : Tried (State × Voxel) := do
  let (s, v) ← findVoxel s a cluster t c
  if v.level = 0 then .ok (s, v) else .error (s, 0x13, 0, v.entry)

/-! ### vmarch (10 R266) -/

/-- FP32 in round to nearest even, neither DAZ nor FTZ. -/
def fmaRn (a b c : Nat) : Nat := (FFmt.f32.fma 0 a b c).1
def subRn (a b : Nat) : Nat := (FFmt.f32.sub 0 a b).1
def divRn (a b : Nat) : Nat := (FFmt.f32.div 0 a b).1
def f32Rn (v : Int) : Nat := (FFmt.f32.round (Rnd.ofFpm 0) 0 false (decide (v < 0)) v.natAbs 0).1
/-- a < b as FP32 values. -/
def ltF (a b : Nat) : Bool := (FFmt.f32.read a).order (FFmt.f32.read b) == Order.less
/-- The floor of a finite FP32 value. -/
def floorF (w : Nat) : Option Int :=
  match FFmt.f32.read w with
  | .num s n e =>
    let v : Int := if s then -(n : Int) else n
    some (if 0 ≤ e then v * ((2 ^ e.toNat : Nat) : Int) else v / ((2 ^ (-e).toNat : Nat) : Int))
  | _ => none
/-- The next FP32 value above a finite one. -/
def nextUp (w : Nat) : Nat := if 2 ^ 31 ≤ w then (if w = 2 ^ 31 then 1 else w - 1) else w + 1
def finiteF (w : Nat) : Bool :=
  match FFmt.f32.read w with
  | .num _ _ _ => true
  | _ => false

/-- A ray: origin, direction, start and end. -/
structure Ray where
  o : List Nat
  d : List Nat
  t0 : Nat
  t1 : Nat
  deriving DecidableEq, Repr

/-- Positive infinity. -/
def infF : Nat := 0x7F800000

/-- The exit parameter of the box of a voxel: the nearest face ahead on any axis. R266 does not define min of +0 and -0: on
equal values the one found first stays, here and where the exit meets t1, which is the model's choice (log 51). -/
def boxExit (r : Ray) (c : List Int) (size : Nat) : Nat :=
  (List.range 3).foldl
    (fun te i =>
      let d := r.d.getD i 0
      if d % 2 ^ 31 = 0 then te
      else
        let lo := c.getD i 0 / (size : Int) * (size : Int)
        let b := f32Rn (if d < 2 ^ 31 then lo + size else lo)
        let q := divRn (subRn b (r.o.getD i 0)) d
        if ltF q te then q else te) infF

/-- The four results of vmarch: t_enter, t_exit, value, status. -/
abbrev MarchOut := Nat × Nat × Nat × Nat

/-- The value and status of a hit, when the voxel is one (10 R266). An FP64 tile value that is a NaN keeps its payload in
FP32 whatever the team's NANP, since FPM does not govern vmarch: the model's choice (log 51). -/
def marchHit (s : State) (a : Agent) (t : Tree) (v : Voxel) : Tried (State × Option (Nat × Nat)) := do
  if v.level = 0 then
    let (s, m) ← treeNat s a (v.leaf + 0x20) 64
    .ok (s, some (v.handle, 1 + (if m = 0 then 0 else 16)))
  else if v.level < 3 && v.active then
    let w := if t.vb = 8 then (convertVal (.flt .f32) 32 (Rnd.ofFpm 0) 0 false (FFmt.f64.read v.value)).1 else v.value
    .ok (s, some (w % 2 ^ 32, 1 + 2 + 4 * v.level + 16))
  else .ok (s, none)

/-- The loop of vmarch with n steps left. -/
def marchFrom (s : State) (a : Agent) (cluster : Nat) (tr : Tree) (r : Ray) : Nat → Nat → Tried (State × MarchOut)
  | 0, t => .ok (s, t, t, 0, 3 * 32)
  | n + 1, t => do
    if ltF r.t1 t then .ok (s, r.t1, r.t1, 0, 32)
    else
      let fl := (List.range 3).filterMap fun i => floorF (fmaRn (r.d.getD i 0) t (r.o.getD i 0))
      if fl.length ≠ 3 ∨ fl.any (fun c => decide (c < -((2 ^ 31 : Nat) : Int)) || decide (((2 ^ 31 : Nat) : Int) ≤ c)) then
        .ok (s, t, t, 0, 2 * 32)
      else
        let c : Coord := { x := wordOfInt (fl.getD 0 0), y := wordOfInt (fl.getD 1 0), z := wordOfInt (fl.getD 2 0) }
        let (s, v) ← findVoxel s a cluster tr c
        let size := [8, 8, 128, 2048].getD v.level 2048
        let te := boxExit r fl size
        let (s, hit) ← marchHit s a tr v
        match hit with
        | some (val, st) => .ok (s, t, if ltF te r.t1 then te else r.t1, val, st)
        | none =>
          if te = infF then .ok (s, r.t1, r.t1, 0, 32)
          else marchFrom s a cluster tr r n (if ltF t te then te else nextUp t)

/-- vmarch on one lane's eight input words. -/
def march (s : State) (a : Agent) (cluster : Nat) (t : Tree) (ws : List Word) : Tried (State × MarchOut) :=
  let w := ws.map BitVec.toNat
  let r : Ray := { o := w.take 3, d := (w.drop 3).take 3, t0 := w.getD 6 0, t1 := w.getD 7 0 }
  if w.any (fun x => !finiteF x) || ltF r.t1 r.t0 then .ok (s, r.t0, r.t0, 0, 4 * 32)
  else marchFrom s a cluster t r 4096 r.t0

/-! ### Performing a lane -/

/-- The voxel named by the first three words of a lane. -/
def coordOf (ws : List Word) : Coord := { x := ws.getD 0 0, y := ws.getD 1 0, z := ws.getD 2 0 }

/-- One lane of vld, vlds, vst, vact or vmarch by the walker of a cluster: function and sub of 0x3C, quad register q, and
the lane's words. -/
def walkLane (s : State) (a : Agent) (cluster : Nat) (t : Tree) (fn sub q : Nat) (r : LaneReq) : AccOut := do
  let c := coordOf r.data
  let t := t.now s
  match fn with
  | 0 =>
    let (s, v) ← resolveVoxel s a cluster t c
    .ok (s, .v (q + 3) r.lane (BitVec.ofNat 32 (v.level + if v.active then 4 else 0)) :: valueWrites t (q + 4) 0 r.lane v.value)
  | 1 =>
    let (s, ws, bits) ← readStencil s a cluster t c (q + 4) r.lane 0 (stencil sub)
    .ok (s, .v (q + 3) r.lane bits :: ws)
  | 3 =>
    let (s, v) ← leafOf s a cluster t c
    let x := t.value ((r.data.getD 4 0).toNat + 2 ^ 32 * (r.data.getD 5 0).toNat)
    let (s, _) ← treeRmw s a t (v.leaf + 0x80 + c.voxel * t.vb) t.vb (fun _ => x)
    .ok (s, [])
  | 4 =>
    let (s, v) ← leafOf s a cluster t c
    let k := c.voxel % 8
    let (s, old) ← treeRmw s a t (v.leaf + 0x20 + c.voxel / 8) 1 fun w =>
      if sub = 0 then (if nbit w k then w - 2 ^ k else w) else if nbit w k then w else w + 2 ^ k
    .ok (s, [.v (q + 3) r.lane (if nbit old k then 1 else 0)])
  | _ =>
    let (s, t0, t1, val, st) ← march s a cluster t r.data
    .ok (s, [.v (q + 8) r.lane (BitVec.ofNat 32 t0), .v (q + 9) r.lane (BitVec.ofNat 32 t1),
             .v (q + 10) r.lane (BitVec.ofNat 32 val), .v (q + 11) r.lane (BitVec.ofNat 32 st)])

/-- Lanes performed one after another. -/
def performWith (s : State) (f : State → LaneReq → AccOut) (reqs : List LaneReq) : Performed :=
  reqs.foldl
    (fun (p : Performed) r =>
      match f p.s r with
      | .ok (s, ws) => { p with s := s, ws := p.ws ++ ws }
      | .error (s, c, sub, addr) => { p with s := s, failed := p.failed ++ [(r, c, sub, addr)] })
    { s := s, ws := [], failed := [] }

/-! ### Issue (10 R256-R259) -/

/-- The lane registers that an instruction reads, and those that an FP64 tree needs, counted from the quad (10 R256,
R257). -/
def walkerReads (fn : Nat) : Nat := if fn = 3 then 6 else if fn = 5 then 8 else 3
def walkerWide (fn sub : Nat) : Nat := if fn = 0 ∨ fn = 3 then 6 else if fn = 1 then 4 + 2 * (stencil sub).length else 0

/-- The checks of a descriptor's bytes for an instruction: cause, subcode, address (10 R257, R259, R275). -/
def treeCheck (bs : List Byte) (t : Tree) (vregs top : Nat) : Option (Nat × Nat × Nat) :=
  if treeReserved bs then some (0x12, 1, t.addr)
  else if t.bad then some (0x12, 0, t.addr)
  else
    match t.badAddress with
    | some at_ => some (0x09, 0, at_)
    | none => if t.vb = 8 ∧ vregs < top then some (0x12, 2, t.addr) else none

/-- The descriptor of an instruction read and checked: the tree, or the failing check. -/
def readTree (s : State) (a : Agent) (desc : Dword) (vregs top : Nat) : Tried (State × Except (Nat × Nat × Nat) Tree) := do
  let (s, bs) ← vread s a desc.toNat 128
  let t := treeOf desc.toNat bs
  match treeCheck bs t vregs top with
  | some e => .ok (s, .error e)
  | none => .ok (s, .ok t)

/-- The lanes' requests: addresses are the descriptor's, words as read at issue. -/
def walkerReqs (x : Issuer) (h : Hdr) (q n : Nat) (desc : Dword) : List LaneReq :=
  (x.lanes h).map fun l => { lane := l, addr := desc, data := (List.range n).map fun i => x.t.vr (q + i) l }

/-- The lanes that a replayable fault stops; those that found the tree corrupt, or an address of it that is not canonical;
and the latter alone. -/
def replayFails (f : List (LaneReq × Nat × Nat × Nat)) : List (LaneReq × Nat × Nat × Nat) :=
  f.filter fun e => e.2.1 != 0x12 && e.2.1 != 0x09
def corruptFails (f : List (LaneReq × Nat × Nat × Nat)) : List (LaneReq × Nat × Nat × Nat) :=
  f.filter fun e => e.2.1 == 0x12 || e.2.1 == 0x09
def formFails (f : List (LaneReq × Nat × Nat × Nat)) : List (LaneReq × Nat × Nat × Nat) := f.filter fun e => e.2.1 == 0x09

/-- An imprecise trap of a user team that no path, access or command of it holds: it stands in the team and is recorded
(18 R380, R383). -/
def standTrap (s : State) (tk : Nat) (t : Team) (tr : Trap) : State :=
  recordTrap (s.modTeam tk fun t => { t with expired := t.expired ++ [tr] }) tk t tr

/-- The lanes that have failed as the first has, by cause and subcode: those that its trap names (18 R381). -/
def failMask (f : List (LaneReq × Nat × Nat × Nat)) : Mask :=
  match f with
  | [] => 0
  | (_, c, sub, _) :: _ => maskOf ((f.filter fun e => e.2.1 == c && e.2.2.1 == sub).map fun e => e.1.lane)

/-- The imprecise trap of lanes that have found a corrupt tree, of which the lowest raises it, or an invalid list, which each
of them does; the other lanes have committed (10 R259, 12 R303, 18 R381). The supervisor's trap has EPC at the next
instruction, because this one has been performed in the other lanes: 15 R321 names the instruction's first byte, of traps that
perform nothing, and 19 R398 the next, of engine commands alone (DESIGN CHOICE, log 54). -/
def corruptTrap (s : State) (x : Issuer) (f : List (LaneReq × Nat × Nat × Nat)) : State :=
  match f with
  | [] => s
  | (_, c, sub, addr) :: _ =>
    if x.t.sup then supervisorTrap s x.tk x.pi c sub (x.path.pc + 4) (BitVec.ofNat 64 addr)
    else standTrap s x.tk x.t (mkTrap s x.t c sub x.path.pc (BitVec.ofNat 64 addr) x.pi (failMask f) 0 0)

/-- The address checks of a descriptor, then its read and its checks; f goes on with the tree, or `absent` with the
fault that the read met (10 R259). -/
def withTree (s : State) (x : Issuer) (ls : List Nat) (desc : Dword) (top : Nat) (absent : State → AccFault → State)
    (f : State → Tree → State) : State :=
  if !canonicalVa desc then trapLanes s x 0x09 0 desc ls
  else if desc.toNat % 128 ≠ 0 then trapLanes s x 0x08 0 desc ls
  else
    match readTree s (x.agent s) desc x.t.vregs top with
    | .error (s', e) => absent s' e
    | .ok (s, .error (c, sub, addr)) => trapLanes s x c sub (BitVec.ofNat 64 addr) ls
    | .ok (s, .ok t) => f s t

/-- The cluster of a team, by its die: its walker's number. -/
def Team.cluster (t : Team) : Nat := t.core / 8

/-- A lane instruction of the walker (10 R258-R264). An unfinished earlier access holds it back: what its walk touches is
not known before it is made (log 42). A lane that meets an address of the tree out of the canonical range traps the
instruction precisely, with nothing performed (10 R275; log 48). -/
def walkerOp (s : State) (h : Hdr) (fn sub q za : Nat) : Out :=
  withIssuer s fun x =>
    let ls := x.lanes h
    let desc := x.t.zr za
    let acc : Access := .walker fn sub q desc
    let reqs := walkerReqs x h q (walkerReads fn) desc
    if ls.isEmpty then s.pass x 4 h.s
    else if x.t.full VW || x.t.mustWait x.pi false (fun _ => true) then s.stall
    else
      withTree s x ls desc (q + walkerWide fn sub)
        (fun s' e =>
          if x.t.sup then supervisorTrap s x.tk x.pi e.1 e.2.1 x.path.pc (BitVec.ofNat 64 e.2.2)
          else
            let (s, op) := addResults s' x (some VW) []
            (addReplay s x.tk (newReplay s x.t x.pi x.path.pc acc op false)
              (reqs.map fun r => ({ r with addr := BitVec.ofNat 64 e.2.2 }, e))).pass x 4 h.s)
        fun s0 t =>
          let p := performWith s0 (fun s r => walkLane s (x.agent s) x.t.cluster t fn sub q r) reqs
          match formFails p.failed, x.t.sup, replayFails p.failed with
          | (r, c, sub, addr) :: rest, _, _ =>
            trapLanes s x c sub (BitVec.ofNat 64 addr) (r.lane :: rest.map fun e => e.1.lane)
          | [], true, (_, c, sub, addr) :: _ => supervisorTrap s x.tk x.pi c sub x.path.pc (BitVec.ofNat 64 addr)
          | [], _, fails =>
            let (s, op) := addResults p.s x (some VW) p.ws
            let s := addReplay s x.tk (newReplay s x.t x.pi x.path.pc acc op false)
              (fails.map fun e => ({ e.1 with addr := BitVec.ofNat 64 e.2.2.2 }, e.2))
            corruptTrap (s.pass x 4 h.s) x ((corruptFails p.failed).take 1)

/-- vld (10 R261). -/
def execVld (f : UN) (s : State) : Out := walkerOp s f.h 0 0 f.d.toNat f.a.toNat
/-- vlds (10 R262). -/
def execVlds (f : VS) (s : State) : Out := walkerOp s f.h 1 f.sub.toNat f.d.toNat f.a.toNat
/-- vst (10 R263). -/
def execVst (f : UN) (s : State) : Out := walkerOp s f.h 3 0 f.d.toNat f.a.toNat
/-- vact.clr (10 R264). -/
def execVactClr (f : UN) (s : State) : Out := walkerOp s f.h 4 0 f.d.toNat f.a.toNat
/-- vact.set (10 R264). -/
def execVactSet (f : UN) (s : State) : Out := walkerOp s f.h 4 1 f.d.toNat f.a.toNat
/-- vmarch (10 R266). -/
def execVmarch (f : UN) (s : State) : Out := walkerOp s f.h 5 0 f.d.toNat f.a.toNat

/-! ### vleaf (10 R265) -/

/-- The checks of a vleaf that need its descriptor: cause, subcode, address. -/
def leafCopyCheck (t : Tree) (desc : Dword) (h off scratch : Nat) : Option (Nat × Nat × Dword) :=
  if scratch < off + 128 + 512 * t.vb then some (0x0C, 0, BitVec.ofNat 64 off)
  else if t.leafcap ≤ h then some (0x12, 3, desc)
  else if !inRange (t.leafAt h) (128 + 512 * t.vb) then some (0x09, 0, BitVec.ofNat 64 (t.leafAt h))
  else none

/-- A vleaf whose descriptor could not be read: a user's joins the replay state; the supervisor's command stands with what
its descriptor read needs, and its trap waits to be taken (10 R259, 19 R398). -/
def leafCopyAbsent (s : State) (x : Issuer) (lane : Nat) (desc : Dword) (h off : Word) (e : AccFault) : State :=
  let (s, op) := addResults s x (some VW) []
  if x.t.sup then
    stopSupervisorLanes s x.tk x.pi x.path.pc (op.getD 0) (kindVol + 2) [desc.toNat, h.toNat, off.toNat, 0] 0 x.t
      [({ lane := lane, addr := desc, data := [] }, e)]
  else
    (addReplay s x.tk (newReplay s x.t x.pi x.path.pc (.walker 2 0 0 desc) op true)
      [({ lane := lane, addr := BitVec.ofNat 64 e.2.2, data := [h, off] }, e)]).modTeam x.tk fun t => t.follow x.pi

/-- vleaf: the descriptor is read and the operands checked, and the copy is handed to the walker. It is an engine command:
every access that the team issued before it has been performed, or the path stalls (10 R258, 08 R222). R265 gives its
faults no order: the offset's alignment comes before the descriptor's checks, and these before the extent, whose width the
descriptor gives, and the handle; this is the model's choice (log 51). -/
def execVleaf (f : UN) (s : State) : Out :=
  withIssuer s fun x =>
    match x.elected f.h with
    | none => s.pass x 4 f.h.s
    | some lane =>
      let desc := x.t.zr f.a.toNat
      let h := x.t.sr f.d.toNat
      let off := x.t.sr (f.d.toNat + 1)
      if !canonicalVa desc then trapElected s x 0x09 0 desc lane
      else if desc.toNat % 128 ≠ 0 then trapElected s x 0x08 0 desc lane
      else if off.toNat % 16 ≠ 0 then trapElected s x 0x08 0 (BitVec.ofNat 64 off.toNat) lane
      else if x.t.full VW || !x.t.performed then s.stall
      else
        match readTree s (x.engine s) desc x.t.vregs 0 with
        | .error (s, e) => (leafCopyAbsent s x lane desc h off e).pass x 4 f.h.s
        | .ok (s, .error (c, sub, addr)) => trapElected s x c sub (BitVec.ofNat 64 addr) lane
        | .ok (s, .ok t) =>
          match leafCopyCheck t desc h.toNat off.toNat x.t.scratch with
          | some (c, sub, addr) => trapElected s x c sub addr lane
          | none =>
            issueCmd s x VW { kind := kindVol + 2, sub := 0, lane := lane, args := [t.leafAt h.toNat, 128 + 512 * t.vb, off.toNat],
                              bytes := [], lanes := [], token := false } f.h.s

/-- The copy of n bytes of a leaf slot into the scratchpad. -/
def copyLeafSlot (s : State) (c : Cmd) (t : Team) (slot n off : Nat) : EngineRun :=
  match vread s (cmdAgent s c t) slot n with
  | .error (s, cause, sub, addr) => .stopped s 0 0 cause sub addr 1
  | .ok (s, bs) => .done (scrWrite s c.tk off bs) 0

/-- A vleaf performed; one whose descriptor could not be read at issue reads and checks it first. -/
def leafCopyRun (s : State) (c : Cmd) (t : Team) : EngineRun :=
  match c.args with
  | [desc, h, off, _] =>
    match readTree s (cmdAgent s c t) (BitVec.ofNat 64 desc) t.vregs 0 with
    | .error (s, cause, sub, addr) => .stopped s 0 0 cause sub addr 1
    | .ok (s, .error (cause, sub, addr)) => .failed s cause sub addr
    | .ok (s, .ok tree) =>
      match leafCopyCheck tree (BitVec.ofNat 64 desc) h off t.scratch with
      | some (cause, sub, addr) => .failed s cause sub addr.toNat
      | none => copyLeafSlot s c t (tree.leafAt h) (128 + 512 * tree.vb) off
  | args => copyLeafSlot s c t (args.getD 0 0) (args.getD 1 0) (args.getD 2 0)

end Sys2Proof.Machine
end

