-- ==== Sys2Proof/Machine/Curator.lean ====
section
/-!
DEFINITION. The Curator's insertions and deletions and the halo engine (10 R258, R267-R274; 07 R223).
-/
namespace Sys2Proof.Machine

/-! ### Allocation (10 R267) -/

/-- The cause by which a Curator lane tells that it met BUSY and tries again; no trap has it. -/
def curBusy : Nat := 0x100

/-- The bytes of an entry: VALUE, CHILD, FLAGS (10 R253). -/
def entryBytes (value child flags : Nat) : List Byte := bytesOf 8 value ++ bytesOf 4 child ++ bytesOf 4 flags

/-- alloc_node, every entry of the new node holding the tile given. The address that goes with cause 0x14 is the
descriptor's, here and in the other allocations: R275 says only "the faulting address" of it, and the model chooses
(log 51). -/
def allocNode (s : State) (a : Agent) (t : Tree) (value : Nat) (active : Bool) : Tried (State × Nat) := do
  let (s, n) ← treeNat s a (t.addr + 0x24) 4
  if t.nodecap ≤ n then .error (s, 0x14, 1, t.addr)
  else
    let (s, _) ← treeRmw s a t (t.addr + 0x24) 4 (fun k => k + 1)
    let s ← treeWrite s a t (t.nodeAt n) ((List.replicate 4096 (entryBytes value 0 (if active then 2 else 0))).flatten)
    .ok (s, n)

/-- alloc_leaf: the head of the free list, with a new tag, or the next slot never handed out. -/
def allocLeaf (s : State) (a : Agent) (t : Tree) : Tried (State × Nat) := do
  let (s, head) ← treeNat s a (t.addr + 0x38) 8
  if nbits head 0 32 ≠ 0xFFFFFFFF then
    let h := nbits head 0 32
    let (s, next) ← treeNat s a (t.leafAt h + 0x10) 4
    let (s, _) ← treeRmw s a t (t.addr + 0x38) 8 (fun _ => next + (nbits head 32 32 + 1) % 2 ^ 32 * 2 ^ 32)
    .ok (s, h)
  else
    let (s, n) ← treeNat s a (t.addr + 0x34) 4
    if t.leafcap ≤ n then .error (s, 0x14, 0, t.addr)
    else
      let (s, _) ← treeRmw s a t (t.addr + 0x34) 4 (fun k => k + 1)
      .ok (s, n)

/-- The bytes of a leaf just placed: empty MASK, every value the tile's (10 R254, R267). -/
def leafBytes (t : Tree) (c : Coord) (rev value : Nat) : List Byte :=
  bytesOf 4 (c.x &&& ~~~7).toNat ++ bytesOf 4 (c.y &&& ~~~7).toNat ++ bytesOf 4 (c.z &&& ~~~7).toNat ++ bytesOf 1 t.vtype
    ++ bytesOf 1 1 ++ bytesOf 2 0 ++ bytesOf 4 0xFFFFFFFF ++ bytesOf 4 (rev + 1) ++ bytesOf 104 0
    ++ (List.replicate 512 (bytesOf t.vb value)).flatten

/-! ### Insertion (10 R267, R268) -/

/-- The level-2 node of a voxel, made when its root slot is absent. -/
def insertRoot (s : State) (a : Agent) (t : Tree) (c : Coord) : Tried (State × Nat) := do
  let (s, slot) ← rootLookup s a t c
  match slot with
  | some (at_, true) =>
    let (s, w) ← treeNat s a (at_ + 8) 8
    if nbit w 34 then .error (s, curBusy, 0, at_)
    else if t.nodecap ≤ nbits w 0 32 then .error (corrupt s t)
    else .ok (s, nbits w 0 32)
  | some (at_, false) =>
    let (s, j) ← allocNode s a t (t.value t.background) false
    let (s, _) ← treeRmw s a t at_ 16 (fun _ => c.key + j * 2 ^ 64)
    .ok (s, j)
  | none => .error (s, 0x14, 2, t.addr)

/-- An entry that claims a child: its VALUE and ACTIVE kept. -/
def nameChild (s : State) (a : Agent) (t : Tree) (e : Entry) (child : Nat) : Tried State := do
  let (s, _) ← treeRmw s a t e.at_ 16 (fun _ => e.value + child * 2 ^ 64 + (1 + if e.active then 2 else 0) * 2 ^ 96)
  .ok s

/-- The level-1 node of a voxel, made when its level-2 entry is a tile. The entries of the new node take the low b bytes of the
tile's VALUE, which alone 10 R253 defines, and zero above them; the entry that names the node keeps all 8 bytes of its field
(10 R267; DESIGN CHOICE, log 53). -/
def insertMiddle (s : State) (a : Agent) (t : Tree) (c : Coord) (node : Nat) : Tried (State × Nat) := do
  let (s, e) ← readEntry s a t node 7 c
  if e.busy then .error (s, curBusy, 0, e.at_)
  else if e.hasChild then
    if t.nodecap ≤ e.child then .error (corrupt s t) else .ok (s, e.child)
  else
    let (s, j) ← allocNode s a t (t.value e.value) e.active
    let s ← nameChild s a t e j
    .ok (s, j)

/-- The leaf of a voxel, made when its level-1 entry is a tile: the word that vins returns. -/
def insertLeaf (s : State) (a : Agent) (t : Tree) (c : Coord) (node : Nat) : Tried (State × Word) := do
  let (s, e) ← readEntry s a t node 3 c
  if e.busy then .error (s, curBusy, 0, e.at_)
  else if e.hasChild then do
    let s ← checkLeaf s a t e.child
    .ok (s, BitVec.ofNat 32 (e.child % 2 ^ 31))
  else
    let (s, h) ← allocLeaf s a t
    let (s, rev) ← treeNat s a (t.leafAt h + 0x14) 4
    let s ← treeWrite s a t (t.leafAt h) (leafBytes t c rev (t.value e.value))
    let s ← nameChild s a t e h
    let (s, _) ← treeRmw s a t (t.addr + 0x40) 4 (fun k => k + 1)
    .ok (s, BitVec.ofNat 32 (h % 2 ^ 31) ||| 0x80000000)

/-- One lane of vins; a failing step leaves the tree as it was before that step (10 R268). -/
def insertLane (s : State) (a : Agent) (t : Tree) (c : Coord) : Tried (State × Word) :=
  match insertRoot s a t c with
  | .error (_, e) => .error (s, e)
  | .ok (s, j) =>
    match insertMiddle s a t c j with
    | .error (_, e) => .error (s, e)
    | .ok (s, k) =>
      match insertLeaf s a t c k with
      | .error (_, e) => .error (s, e)
      | .ok r => .ok r

/-! ### Deletion (10 R269) -/

/-- The level-1 entry of a voxel that holds a leaf, if one does; BUSY is waited for. -/
def findLeafEntry (s : State) (a : Agent) (t : Tree) (c : Coord) : Tried (State × Option Entry) := do
  let (s, slot) ← rootLookup s a t c
  match slot with
  | some (at_, true) =>
    let (s, w) ← treeNat s a (at_ + 8) 8
    if nbit w 34 then .error (s, curBusy, 0, at_)
    else if t.nodecap ≤ nbits w 0 32 then .error (corrupt s t)
    else
      let (s, e2) ← readEntry s a t (nbits w 0 32) 7 c
      if e2.busy then .error (s, curBusy, 0, e2.at_)
      else if !e2.hasChild then .ok (s, none)
      else if t.nodecap ≤ e2.child then .error (corrupt s t)
      else
        let (s, e1) ← readEntry s a t e2.child 3 c
        if e1.busy then .error (s, curBusy, 0, e1.at_)
        else if !e1.hasChild then .ok (s, none)
        else .ok (s, some e1)
  | _ => .ok (s, none)

/-- The removal of an origin from every pod cache, with the leaf kept as one that a deletion has unlinked (10 R269,
R270). -/
def unlinkLeaf (s : State) (a : Agent) (t : Tree) (c : Coord) (handle tk op : Nat) : State :=
  { s with pods := s.pods.filter fun p => !(p.gasid == a.gasid && p.desc == t.addr && p.origin == c.origin),
           ghosts := s.ghosts ++ [{ tk := tk, op := op, gasid := a.gasid, desc := t.addr, origin := c.origin,
                                    handle := handle, reused := none }] }

/-- The slot of a leaf that an outstanding deletion has unlinked is taken by an insertion (10 R270). -/
def reuseSlot (s : State) (a : Agent) (t : Tree) (handle tk op : Nat) : State :=
  { s with ghosts := s.ghosts.map fun g =>
      if g.gasid = a.gasid ∧ g.desc = t.addr ∧ g.handle = handle then { g with reused := some (tk, op) } else g }

/-- One lane of vdel, of a team and an operation: the entry becomes its tile, LIVE is cleared, the handle joins the free
list, LIVE's count falls, and the origin leaves the pod caches. -/
def deleteLane (s : State) (a : Agent) (t : Tree) (c : Coord) (tk op : Nat) : Tried (State × Unit) := do
  let (s, e) ← findLeafEntry s a t c
  match e with
  | none => .ok (s, ())
  | some e =>
    let s ← checkLeaf s a t e.child
    let leaf := t.leafAt e.child
    let (s, _) ← treeRmw s a t e.at_ 16 (fun _ => e.value + (if e.active then 2 else 0) * 2 ^ 96)
    let (s, _) ← treeRmw s a t (leaf + 0x0D) 1 (fun _ => 0)
    let (s, head) ← treeNat s a (t.addr + 0x38) 8
    let s ← treeWrite s a t (leaf + 0x10) (bytesOf 4 (nbits head 0 32))
    let (s, _) ← treeRmw s a t (t.addr + 0x38) 8 (fun _ => e.child + (nbits head 32 32 + 1) % 2 ^ 32 * 2 ^ 32)
    let (s, _) ← treeRmw s a t (t.addr + 0x40) 4 (fun k => k + 2 ^ 32 - 1)
    .ok (unlinkLeaf s a t c e.child tk op, ())

/-- One lane of a Curator instruction, whole or not at all but for the steps of an insertion that stand. -/
def curatorLane (s : State) (a : Agent) (t : Tree) (fn q tk op : Nat) (r : LaneReq) : AccOut :=
  let t := t.now s
  if fn = 6 then
    match insertLane s a t (coordOf r.data) with
    | .error e => .error e
    | .ok (s, w) =>
      .ok (if w.getLsbD 31 then reuseSlot s a t (w.toNat % 2 ^ 31) tk op else s, [.v (q + 3) r.lane w])
  else
    match deleteLane s a t (coordOf r.data) tk op with
    | .error (_, e) => .error (s, e)
    | .ok (s, _) => .ok (s, [])

/-! ### The instructions (10 R258, R267-R269) -/

def busyFails (f : List (LaneReq × Nat × Nat × Nat)) : List (LaneReq × Nat × Nat × Nat) := f.filter fun e => e.2.1 == curBusy
def faultFails (f : List (LaneReq × Nat × Nat × Nat)) : List (LaneReq × Nat × Nat × Nat) :=
  (replayFails f).filter fun e => e.2.1 != curBusy

/-- After an attempt at some lanes of a Curator command: results in flight, BUSY lanes waiting, faulted lanes stopped, and
the trap of a corrupt tree (10 R259, R267, R268). -/
def curatorAfter (p : Performed) (tk pi : Nat) (pc : Dword) (op fn q : Nat) (desc : Dword) : State :=
  let args := [desc.toNat, q]
  let s := p.s.modTeam tk fun t => t.addLong (some op) [] p.ws 0
  let busy := (busyFails p.failed).map Prod.fst
  let s := if busy.isEmpty then s else holdLanes s tk pi pc op (kindVol + fn) args 0 busy none 0
  let s := stopLanes s tk pi pc op (kindVol + fn) args 0 (.walker fn 0 q desc) (faultFails p.failed)
  match corruptFails p.failed with
  | [] => s
  | (r, c, sub, addr) :: _ => laneTrap s tk pi pc op c sub (BitVec.ofNat 64 addr) r.lane

/-- vins or vdel of the issuing path: every access that the team issued before it has been performed, or the path stalls
(08 R222). A lane that meets an address of the tree out of the canonical range traps the instruction precisely, with
nothing performed (10 R275; log 48). -/
def curatorOp (s : State) (h : Hdr) (fn q za : Nat) : Out :=
  withIssuer s fun x =>
    let ls := x.lanes h
    let desc := x.t.zr za
    let reqs := walkerReqs x h q 3 desc
    if ls.isEmpty then s.pass x 4 h.s
    else if x.t.full AL || !x.t.performed then s.stall
    else
      withTree s x ls desc 0
        (fun s e =>
          let (s, op) := nextId s
          (stopLanes (s.modTeam x.tk fun t => t.addOp op AL) x.tk x.pi x.path.pc op (kindVol + fn) [desc.toNat, q] 0
            (.walker fn 0 q desc) (reqs.map fun r => (r, e))).pass x 4 h.s)
        fun s0 t =>
          let (s, op) := nextId s0
          let p := performWith s (fun s r => curatorLane s (x.engine s) t fn q x.tk op r) reqs
          match formFails p.failed with
          | (r, c, sub, addr) :: rest =>
            trapLanes s0 x c sub (BitVec.ofNat 64 addr) (r.lane :: rest.map fun e => e.1.lane)
          | [] =>
            let s := (p.s.modTeam x.tk fun t => t.addOp op AL).pass x 4 h.s
            curatorAfter { p with s := s } x.tk x.pi x.path.pc op fn q desc

/-- vins (10 R267). -/
def execVins (f : UN) (s : State) : Out := curatorOp s f.h 6 f.d.toNat f.a.toNat
/-- vdel (10 R269). -/
def execVdel (f : UN) (s : State) : Out := curatorOp s f.h 7 f.d.toNat f.a.toNat

/-- The waiting or resumed lanes of a Curator command are tried again: the lanes that complete leave it (10 R267). -/
def curatorAgain (s : State) (c : Cmd) (t : Team) : State :=
  let fn := c.kind - kindVol
  let q := c.args.getD 1 0
  let desc : Dword := BitVec.ofNat 64 (c.args.getD 0 0)
  let a := cmdAgent s c t
  match readTree s a desc t.vregs 0 with
  | .ok (s, .ok tree) =>
    let p := performWith { s with cmds := s.cmds.filter fun d => d.id != c.id }
      (fun s r => curatorLane s a tree fn q c.tk c.op r) c.lanes
    cohortTry (curatorAfter p c.tk c.path c.pc c.op fn q desc) c.tk
  | .ok (s, .error (cause, sub, addr)) =>
    laneTrap { s with cmds := s.cmds.filter fun d => d.id != c.id } c.tk c.path c.pc c.op cause sub
      (BitVec.ofNat 64 addr) c.lane
  | .error (s, cause, sub, va) =>
    stopLanes { s with cmds := s.cmds.filter fun d => d.id != c.id } c.tk c.path c.pc c.op c.kind c.args 0
      (.walker fn 0 q desc) (c.lanes.map fun r => (r, cause, sub, va))

/-- CURATOR_LANE_RETRY: lanes that met BUSY try again at the home, in a halted team too (10 R267, 15 R325). -/
def execCuratorLaneRetry (tk k : Nat) (s : State) : Out :=
  .next <| match s.cmd k, s.team tk with
    | none, _ | _, none => s
    | some c, some t =>
      if c.stop.isNone ∧ t.live ∧ c.tk = tk ∧ (c.kind = kindVol + 6 ∨ c.kind = kindVol + 7) ∧ !c.lanes.isEmpty then curatorAgain s c t else s

/-! ### Halo (10 R272-R274, 07 R223) -/

/-- The issue checks of a halo command in their order: cause, subcode, address (10 R274). No check lists a SRCTREE that is
canonical but not 128-byte aligned: the descriptor is read at that address as it stands, which is the model's choice, and
so is SRCTREE as the address that goes with subcode 1 (log 51). -/
def haloCheck (t : Team) (off : Nat) : Option (Nat × Nat × Nat) :=
  let b := cellsRead t.scr off 32
  let count := fieldAt b 0x10 4
  let list := fieldAt b 0x14 4
  if off % 32 ≠ 0 then some (0x08, 0, off)
  else if t.scratch < off + 32 then some (0x0C, 0, off)
  else if count < 1 ∨ 65536 < count ∨ list % 16 ≠ 0 ∨ t.scratch < list + 16 * count ∨ fieldAt b 0x18 8 ≠ 0 then
    some (0x12, 1, fieldAt b 0 8)
  else if !canonicalVa (BitVec.ofNat 64 (fieldAt b 0 8)) then some (0x09, 0, fieldAt b 0 8)
  else if !canonicalVa (BitVec.ofNat 64 (fieldAt b 8 8)) then some (0x09, 0, fieldAt b 8 8)
  else if fieldAt b 8 8 % 16 ≠ 0 then some (0x08, 0, fieldAt b 8 8)
  else none

/-- halo: the header is read and checked, and the command handed to the halo engine; until every access that the team issued
before it has been performed, the path stalls (08 R222, 10 R258). -/
def execHalo (f : UD) (s : State) : Out :=
  withIssuer s fun x =>
    match x.elected f.h with
    | none => s.pass x 4 f.h.s
    | some lane =>
      let off := (x.t.sr f.d.toNat).toNat
      if !x.t.performed then s.stall
      else
        match haloCheck x.t off with
        | some (c, sub, addr) => trapElected s x c sub (BitVec.ofNat 64 addr) lane
        | none =>
          issueCmd s x CP { kind := kindVol + 8, sub := 0, lane := lane, args := [], bytes := cellsRead x.t.scr off 32,
                            lanes := [], token := false } f.h.s

/-- A descriptor as a halo entry reads it; a VTYPE that is no tree's leaves the slot size open (log 4). -/
def haloTree (s : State) (a : Agent) (at_ : Nat) : Tried (State × Tree) := do
  let (s, bs) ← treeBytes s a at_ 128
  .ok (s, treeOf at_ bs)

/-- The width of both trees of an entry, chosen when their common VTYPE is no tree's. -/
def openWidth (s : State) (t : Tree) : State × Nat :=
  match valueBytes t.vtype with
  | some b => (s, b)
  | none =>
    let (s, k) := pick s 3
    (s, [4, 2, 8].getD k 4)

/-- What an entry of a halo command comes to. -/
inductive HaloEntry where
  | copied (s : State)
  | fault (s : State) (f : AccFault) (acc : BitVec 8)
  | failed (s : State) (cause sub addr : Nat)
  deriving DecidableEq, Repr

/-- A fault that an entry meets: an address out of the canonical range ends the command (log 48). -/
def HaloEntry.ofFault (s : State) (f : AccFault) : HaloEntry :=
  if f.1 = 0x09 then .failed s 0x09 0 f.2.2 else .fault s f 1

/-- MASK and DATA of one slot copied over another's. -/
def copySlot (s : State) (a : Agent) (src dst b : Nat) : HaloEntry :=
  match vread s a (src + 0x20) 64 with
  | .error (s, e) => .fault s e 1
  | .ok (s, mask) =>
    match vread s a (src + 0x80) (512 * b) with
    | .error (s, e) => .fault s e 1
    | .ok (s, data) =>
      match vwrite s a (dst + 0x20) mask with
      | .error (s, e) => .fault s e 2
      | .ok s =>
        match vwrite s a (dst + 0x80) data with
        | .error (s, e) => .fault s e 2
        | .ok s => .copied s

/-- One entry: its checks in order, then the copy (10 R272, R274). A LEAFBASE that is not canonical is a tree address of
cause 0x09, found where the entry is (R275; log 48). Subcode 4 gives DSTTREE as its address, and subcode 3 the tree whose
cap the handle is at: R275 says only "the descriptor address", and the model chooses (log 51). -/
def haloEntry (s : State) (a : Agent) (srcTree : Nat) (e : List Byte) : HaloEntry :=
  let dt := fieldAt e 8 8
  if !canonicalVa (BitVec.ofNat 64 dt) || dt % 128 != 0 then .failed s 0x12 6 dt
  else
    match haloTree s a srcTree with
    | .error (s, f) => .ofFault s f
    | .ok (s, st) =>
      match haloTree s a dt with
      | .error (s, f) => .ofFault s f
      | .ok (s, tt) =>
        if st.leafcap ≤ fieldAt e 0 4 then .failed s 0x12 3 srcTree
        else if tt.leafcap ≤ fieldAt e 4 4 then .failed s 0x12 3 dt
        else if st.vtype ≠ tt.vtype then .failed s 0x12 4 dt
        else if !canonicalVa (BitVec.ofNat 64 st.leafbase) then .failed s 0x09 0 st.leafbase
        else if !canonicalVa (BitVec.ofNat 64 tt.leafbase) then .failed s 0x09 0 tt.leafbase
        else
          let (s, b) := openWidth s st
          let n := 128 + 512 * b
          let src := st.leafbase + fieldAt e 0 4 * n
          let dst := tt.leafbase + fieldAt e 4 4 * n
          if !inRange src n then .failed s 0x09 0 src
          else if !inRange dst n then .failed s 0x09 0 dst
          else copySlot s a src dst b

/-- An arrival at a step barrier object as one read-modify-write of its 16 bytes (10 R273). -/
def arrival (w : Nat) : Nat :=
  let expected := nbits w 0 32
  let a := (nbits w 32 32 + 1) % 2 ^ 32
  let flags := nbits w 96 32
  if expected ≤ a then
    expected + (nbits w 64 32 + 1) % 2 ^ 32 * 2 ^ 64
      + (if expected < a ∧ flags % 2 = 0 then flags + 1 else flags) * 2 ^ 96
  else expected + a * 2 ^ 32 + nbits w 64 32 * 2 ^ 64 + flags * 2 ^ 96

/-- The arrival that ends a halo command; without a barrier there is none (10 R272). -/
def haloArrive (s : State) (c : Cmd) (t : Team) (count : Nat) : EngineRun :=
  let bar := fieldAt c.bytes 8 8
  if bar = 0 then .done s 0
  else
    match vrmw s (cmdAgent s c t) bar 16 arrival with
    | .error (s, cause, sub, addr) => .stopped s count 0 cause sub addr 4
    | .ok (s, _) => .done s 0

/-- n entries from entry i on, read as the engine comes to them. -/
def haloRows (s : State) (c : Cmd) (t : Team) : Nat → Nat → EngineRun
  | 0, _ => .done s 0
  | n + 1, i =>
    let e := scrRead s c.tk (fieldAt c.bytes 0x14 4 + 16 * i) 16
    match haloEntry s (cmdAgent s c t) (fieldAt c.bytes 0 8) e with
    | .copied s => haloRows s c t n (i + 1)
    | .fault s (cause, sub, addr) acc => .stopped s i 0 cause sub addr acc
    | .failed s cause sub addr => .failed s cause sub addr

/-- The entries of a halo command. -/
def haloCount (c : Cmd) : Nat := fieldAt c.bytes 0x10 4

/-- A halo command performed from its entry, with the arrival at its end. -/
def haloRun (s : State) (c : Cmd) (t : Team) : EngineRun :=
  match haloRows s c t (haloCount c - c.prog) c.prog with
  | .done s _ => haloArrive s c t (haloCount c)
  | r => r

/-- A halt of its team finds a halo command before any of its entries still to copy, or before its arrival (10 R274,
log 4). -/
def haltHalo (s : State) (tk : Nat) : State :=
  (s.cmds.filter fun c => c.tk == tk && c.kind == kindVol + 8).foldl
    (fun s c =>
      match eventCmd s c.id with
      | some (c, t) =>
        let (s, n) := pick s (haloCount c - c.prog + 1)
        breakOff s c (haloRows s c t n c.prog) (c.prog + n)
      | none => s) s

/-- HALO_COMMAND_COMPLETE: the copies and the arrival, or the end at an entry whose checks fail (10 R272, R274). -/
def execHaloCommandComplete (cmd : Nat) (s : State) : Out :=
  .next <| match s.cmd cmd with
    | none => s
    | some c => if c.kind = kindVol + 8 then completeRun s cmd haloRun else s

/-- HALO_FAULT_STOP (10 R274). -/
def execHaloFaultStop (cmd : Nat) (s : State) : Out :=
  .next <| match s.cmd cmd with
    | none => s
    | some c => if c.kind = kindVol + 8 then stopRun s cmd haloRun else s

end Sys2Proof.Machine
end

