-- ==== Sys2Proof/Machine/Layers.lean ====
section
/-!
DEFINITION. Layered render targets: fins, resolve and lclear (12 R294-R305).
-/
namespace Sys2Proof.Machine

/-! ### The target (12 R294-R297) -/

/-- A target descriptor. -/
structure Layer where
  addr : Nat
  width : Nat
  height : Nat
  k : Nat
  merge : Nat
  cfmt : Nat
  heads : Nat
  pool : Nat
  keys : Nat
  pages : Nat
  /-- the model's own: the lines that were cached when the lane's operation began (log 43) -/
  known : List Nat
  deriving DecidableEq, Repr

/-- The descriptor in 64 bytes. -/
def layerOf (addr : Nat) (bs : List Byte) : Layer :=
  { addr := addr, width := fieldAt bs 0 2, height := fieldAt bs 2 2, k := byteAt bs 4, merge := byteAt bs 5,
    cfmt := byteAt bs 6, heads := fieldAt bs 8 8, pool := fieldAt bs 0x10 8, keys := fieldAt bs 0x18 8,
    pages := fieldAt bs 0x20 4, known := [] }

/-- Reserved bytes of a descriptor that are not zero. -/
def layerReserved (bs : List Byte) : Bool := byteAt bs 7 != 0 || fieldAt bs 0x24 28 != 0

/-- A field outside the range of 12 R294. R294 gives HEADS, POOL and KEYS an alignment and no range: one that is not canonical
passes, and the addresses formed from it are used unchecked (DESIGN CHOICE, log 51). -/
def Layer.bad (t : Layer) : Bool :=
  !(decide (1 ≤ t.width ∧ t.width ≤ 16384 ∧ 1 ≤ t.height ∧ t.height ≤ 16384) && [2, 4, 8, 16].contains t.k
    && decide (t.merge ≤ 2 ∧ t.cfmt ≤ 1 ∧ t.heads % 64 = 0 ∧ t.pool % 4096 = 0 ∧ t.keys % 4096 = 0)
    && decide (2 ≤ t.pages ∧ t.pages ≤ 65536))

/-- A node of a list: its index, 0 for a fragment that has none yet; depth, colour, key, coverage and MERGED. -/
structure Frag where
  slot : Nat
  depth : Nat
  colour : Nat
  key : Nat
  cov : Nat
  merged : Bool
  deriving DecidableEq, Repr

/-- The head record of a pixel (12 R295). -/
def Layer.head (t : Layer) (x y : Nat) : Nat := t.heads + 8 * (y * t.width + x)
/-- Node n and its key (12 R296). -/
def Layer.node (t : Layer) (n : Nat) : Nat := t.pool + 16 * n
def Layer.keyAt (t : Layer) (n : Nat) : Nat := t.keys + 4 * n
/-- A node index names a node. -/
def Layer.names (t : Layer) (n : Nat) : Bool := decide (256 ≤ n ∧ n < 256 * t.pages)

/-- A list, or a pool, that cannot be valid: subcode 4 at the descriptor address (12 R303). -/
def badList (s : State) (t : Layer) : State × AccFault := (s, 0x16, 4, t.addr)

/-- n nodes from a node index on, nearest first, and the NEXT of the last. fins reads every byte of a node, resolve and lclear
all but DEPTH, which stays 0 here (12 R303). Every list operation reads a node's key with it,
resolve and lclear too, which have no use for it: 12 R304 does not say which bytes they read, and an absent page of KEYS faults
them (DESIGN CHOICE, log 51). -/
def readNodes (s : State) (a : Agent) (t : Layer) (depth : Bool) : Nat → Nat → Tried (State × List Frag × Nat)
  | 0, next => .ok (s, [], next)
  | n + 1, i => do
    if !t.names i then .error (badList s t)
    else
      let (s, d) ← if depth then vnat s a (t.node i) 4 else .ok (s, 0)
      let (s, bs) ← vread s a (t.node i + 4) 12
      let (s, key) ← vnat s a (t.keyAt i) 4
      let link := fieldAt bs 8 4
      let f : Frag := { slot := i, depth := d, colour := fieldAt bs 0 8, key := key, cov := nbits link 24 4,
                        merged := nbit link 28 }
      let (s, rest, next) ← readNodes s a t depth n (nbits link 0 24)
      .ok (s, f :: rest, next)

/-- The list of a pixel (12 R295, R296), checked under R303: every list operation is a read-modify-write at its head
(R305). -/
def readList (s : State) (a : Agent) (t : Layer) (depth : Bool) (x y : Nat) : Tried (State × List Frag) := do
  let (s, bs) ← vreadAs s a .rmw (t.head x y) 8
  let h := natOfBytes bs
  let count := nbits h 24 8
  if t.k < count then .error (badList s t)
  else
    let (s, l, next) ← readNodes s a t depth count (nbits h 0 24)
    if count ≠ 0 ∧ next ≠ 0 then .error (badList s t) else .ok (s, l)

/-- The nodes of a list as memory holds them: index, 16 bytes, key. -/
def nodeImages : List Frag → List (Nat × List Byte × Nat)
  | [] => []
  | f :: rest =>
    let next := (rest.head?.map Frag.slot).getD 0
    (f.slot, bytesOf 4 f.depth ++ bytesOf 8 f.colour
      ++ bytesOf 4 (next + f.cov * 2 ^ 24 + if f.merged then 2 ^ 28 else 0), f.key) :: nodeImages rest

/-- The nodes that differ from those read are written. -/
def writeNodes (s : State) (a : Agent) (t : Layer) : List (Nat × List Byte × Nat) → Tried (State × Unit)
  | [] => .ok (s, ())
  | n :: rest => do
    let s ← vwriteOwn s a t.known (t.node n.1) n.2.1
    let s ← vwriteOwn s a t.known (t.keyAt n.1) (bytesOf 4 n.2.2)
    writeNodes s a t rest

/-- A pixel's list changed from old to new: nodes, links and head record. -/
def storeList (s : State) (a : Agent) (t : Layer) (x y : Nat) (old new : List Frag) : Tried (State × Unit) := do
  let was := nodeImages old
  let (s, _) ← writeNodes s a t ((nodeImages new).filter fun n => !was.contains n)
  let (s, _) ← vrmwOwn s a t.known (t.head x y) 8 (fun _ => new.length * 2 ^ 24 + (new.head?.map Frag.slot).getD 0)
  .ok (s, ())

/-- LIVENODES changes by an atomic addition (12 R297). -/
def addLive (s : State) (a : Agent) (t : Layer) (delta : Nat) : Tried (State × Unit) := do
  let (s, _) ← vrmwOwn s a t.known (t.pool + 0x14) 4 (fun n => n + delta)
  .ok (s, ())

/-- A head of a free list with a new value and its tag raised. -/
def retag (value old : Nat) : Nat := value + (nbits old 32 32 + 1) % 2 ^ 32 * 2 ^ 32

/-- Steps 2 to 4 of alloc_frag: the current page, a free page, or exhaustion, cause 0x17 (12 R297, R302). -/
def allocFresh (s : State) (a : Agent) (t : Layer) : Tried (State × Nat) := do
  let (s, cur) ← vnat s a (t.pool + 0x10) 4
  if cur ≠ 0 then
    if !t.names cur then .error (badList s t)
    else
      let (s, _) ← vrmwOwn s a t.known (t.pool + 0x10) 4 (fun n => if (n + 1) % 256 = 0 then 0 else n + 1)
      .ok (s, cur)
  else
    let (s, free) ← vnat s a t.pool 8
    let p := nbits free 0 32
    if p = 0xFFFFFFFF then .error (s, 0x17, 0, t.pool)
    else if p < 1 ∨ t.pages ≤ p then .error (badList s t)
    else
      let (s, next) ← vnat s a (t.pool + 4096 * p) 4
      let (s, _) ← vrmwOwn s a t.known t.pool 8 (retag next)
      let (s, _) ← vrmwOwn s a t.known (t.pool + 0x10) 4 (fun _ => 256 * p + 1)
      .ok (s, 256 * p)

/-- alloc_frag (12 R297). -/
def allocFrag (s : State) (a : Agent) (t : Layer) : Tried (State × Nat) := do
  let (s, free) ← vnat s a (t.pool + 8) 8
  let n := nbits free 0 24
  if n = 0 then allocFresh s a t
  else if !t.names n then .error (badList s t)
  else
    let (s, next) ← vnat s a (t.node n + 12) 4
    let (s, _) ← vrmwOwn s a t.known (t.pool + 8) 8 (retag (nbits next 0 24))
    .ok (s, n)

/-- Nodes are pushed onto NODEFREE, nearest first, each with its tag (12 R297, R304). -/
def pushNodes (s : State) (a : Agent) (t : Layer) : List Frag → Tried (State × Unit)
  | [] => .ok (s, ())
  | f :: rest => do
    let (s, free) ← vnat s a (t.pool + 8) 8
    let (s, _) ← vrmwOwn s a t.known (t.node f.slot + 12) 4 (fun w => nbits w 24 5 * 2 ^ 24 + nbits free 0 24)
    let (s, _) ← vrmwOwn s a t.known (t.pool + 8) 8 (retag f.slot)
    pushNodes s a t rest

/-- The clear of resolve.clr and lclear (12 R304). -/
def clearList (s : State) (a : Agent) (t : Layer) (x y : Nat) (l : List Frag) : Tried (State × Unit) :=
  if l.isEmpty then .ok (s, ())
  else do
    let (s, _) ← vrmwOwn s a t.known (t.head x y) 8 (fun _ => 0)
    let (s, _) ← pushNodes s a t l
    addLive s a t (2 ^ 32 - l.length)

/-! ### Colours (12 R301) -/

/-- A channel as an FP32 value: exact from FP16, rounded v / 255 from 8 bits. -/
def decChannel (cfmt colour c : Nat) : Nat :=
  if cfmt = 0 then
    match FFmt.f16.read (nbits colour (16 * c) 16) with
    | .nan _ _ _ _ => FFmt.f32.defaultNan
    | v => (FFmt.f32.deliver 0 (some v)).1
  else (FFmt.f32.deliver 0 (exactDiv 23 (.num false (nbits colour (8 * c) 8) 0) (.num false 255 0))).1

/-- An exact real as a channel of the target. -/
def encChannel (cfmt : Nat) (v : Exact) : Nat :=
  if cfmt = 0 then
    match v with
    | some (.nan _ _ _ _) | none => 0x7E00
    | v => (FFmt.f16.deliver 0 v).1
  else
    match v with
    | some (.num neg n e) =>
      if neg then 0 else if atLeast n e 0 then 255 else ({ mode := 0, u := 0 : Rnd }.mag false (255 * n) e 0).1
    | some (.inf neg) => if neg then 0 else 255
    | _ => 0

/-- The exact near.c + t x far.c, or near.c + far.c; nothing for an invalid operation or a NaN. -/
def mixExact (isOver : Bool) (t near far : Nat) : Exact :=
  let n := FFmt.f32.read near
  let f := FFmt.f32.read far
  let t := FFmt.f32.read t
  if n.isNan || f.isNan || (isOver && t.isNan) then none
  else ((if isOver then exactMul t f else some f).bind fun p => exactAdd { mode := 0, u := 0 } p n)

/-- The merged colour of two fragments (12 R301). -/
def mixColour (t : Layer) (near far : Nat) : Nat :=
  let isOver := t.merge == 0
  let w := if t.cfmt = 0 then 16 else 8
  let tt := subRn 0x3F800000 (decChannel t.cfmt near 3)
  ((List.range 4).map fun c =>
    encChannel t.cfmt (mixExact isOver tt (decChannel t.cfmt near c) (decChannel t.cfmt far c)) * 2 ^ (w * c)).sum

/-! ### Insertion (12 R299, R300) -/

/-- A fragment stands no farther than another: depth as a number, then key. -/
def Frag.upTo (m f : Frag) : Bool :=
  match (FFmt.f32.read m.depth).order (FFmt.f32.read f.depth) with
  | .less => true
  | .equal => decide (m.key ≤ f.key)
  | _ => false

/-- The exact difference of two depths, the farther first; one infinity alone is an infinite gap. -/
def depthGap (x y : Frag) : FVal :=
  let a := FFmt.f32.read x.depth
  let b := FFmt.f32.read y.depth
  if a.order b == .equal then .num false 0 0
  else
    match a, b with
    | .num _ _ _, .num _ _ _ => (exactAdd { mode := 0, u := 0 } b a.negate).getD (.num false 0 0)
    | _, _ => .inf false

/-- The index of the smallest gap between neighbours, the first of equal ones. -/
def smallestGap : List Frag → Nat × FVal
  | x :: y :: rest =>
    let g := depthGap x y
    match rest with
    | [] => (0, g)
    | _ :: _ =>
      let r := smallestGap (y :: rest)
      if r.2.order g == .less then (r.1 + 1, r.2) else (0, g)
  | _ => (0, .inf false)

/-- The list with the unplaced fragment in a slot. -/
def giveSlot (l : List Frag) (slot : Nat) : List Frag := l.map fun f => if f.slot = 0 then { f with slot := slot } else f

/-- Two neighbours as one (12 R300). -/
def mergeFrags (t : Layer) (near far : Frag) : Frag :=
  { slot := if near.slot = 0 then far.slot else near.slot, depth := near.depth, colour := mixColour t near.colour far.colour,
    key := near.key, cov := near.cov ||| far.cov, merged := true }

/-- K + 1 entries reduced to K, the new one, in slot 0, taking the slot that falls free (12 R300). -/
def reduceList (t : Layer) (l : List Frag) : List Frag :=
  if t.merge = 1 then
    match l.getLast? with
    | some f => giveSlot l.dropLast f.slot
    | none => l
  else
    let i := (smallestGap l).1
    match l[i]?, l[i + 1]? with
    | some near, some far => giveSlot (l.take i ++ mergeFrags t near far :: l.drop (i + 2)) far.slot
    | _, _ => l

/-- The new fragment of a lane of fins. -/
def newFrag (t : Layer) (d : List Word) : Frag :=
  let w (i : Nat) : Nat := (d.getD i 0).toNat
  { slot := 0, depth := w 1, colour := w 2 + (if t.cfmt = 0 then 2 ^ 32 * w 3 else 0), key := w 4, cov := nbits (w 0) 28 4,
    merged := false }

/-- The entries with the new fragment after every one that stands no farther. -/
def insertFrag (l : List Frag) (f : Frag) : List Frag :=
  let pos := (l.filter fun m => m.upTo f).length
  l.take pos ++ f :: l.drop pos

/-- One lane of fins (12 R299). -/
def finsLane (s : State) (a : Agent) (t : Layer) (x y : Nat) (d : List Word) : Tried (State × List RegWrite) := do
  let (s, l) ← readList s a t true x y
  if l.any fun m => (FFmt.f32.read m.depth).isNan then .error (badList s t)
  else
    let all := insertFrag l (newFrag t d)
    if l.length < t.k then
      let (s, n) ← allocFrag s a t
      let (s, _) ← storeList s a t x y l (giveSlot all n)
      let (s, _) ← addLive s a t 1
      .ok (s, [])
    else
      let (s, _) ← storeList s a t x y l (reduceList t all)
      .ok (s, [])

/-! ### Resolve (12 R304) -/

/-- One entry composited under the accumulated colour. -/
def blend (acc e : List Nat) : List Nat :=
  let t := subRn 0x3F800000 (acc.getD 3 0)
  (List.range 4).map fun c => fmaRn t (e.getD c 0) (acc.getD c 0)

/-- One lane of resolve: the composited colour, with the clear when asked for. An empty list goes through 12 R304's pseudocode
like any other, so that a background channel of -0 gives +0, where the prose has the lane return the background (DESIGN CHOICE,
log 54). -/
def resolveLane (s : State) (a : Agent) (t : Layer) (x y q : Nat) (clear : Bool) (r : LaneReq) :
    Tried (State × List RegWrite) := do
  let (s, l) ← readList s a t false x y
  let entries := (l.map fun m => (List.range 4).map fun c => decChannel t.cfmt m.colour c)
    ++ [(List.range 4).map fun c => (r.data.getD (4 + c) 0).toNat]
  let acc := entries.foldl blend [0, 0, 0, 0]
  let ws := acc.zipIdx.map fun e =>
    RegWrite.v (q + e.2) r.lane (BitVec.ofNat 32 (if (FFmt.f32.read e.1).isNan then 0x7FC00000 else e.1))
  let (s, _) ← if clear then clearList s a t x y l else .ok (s, ())
  .ok (s, ws)

/-- One lane of lclear. -/
def lclearLane (s : State) (a : Agent) (t : Layer) (x y : Nat) : Tried (State × List RegWrite) := do
  let (s, l) ← readList s a t false x y
  let (s, _) ← clearList s a t x y l
  .ok (s, [])

/-- The pixel that a lane names. -/
def pixelX (r : LaneReq) : Nat := nbits (r.data.getD 0 0).toNat 0 14
def pixelY (r : LaneReq) : Nat := nbits (r.data.getD 0 0).toNat 14 14

/-- One lane of a list operation, whole or not at all (12 R302, R303, R305). -/
def listLane (s : State) (a : Agent) (t : Layer) (fn sub q : Nat) (r : LaneReq) : AccOut :=
  let x := pixelX r
  let y := pixelY r
  let t := { t with known := s.cached }
  match (if fn = 0 then finsLane s a t x y r.data
      else if fn = 1 then resolveLane s a t x y q (sub == 1) r else lclearLane s a t x y) with
  | .error (_, e) => .error (s, e)
  | .ok r => .ok r

/-- Lanes in ascending order, those of one pixel as 12 R299 has them and those of different pixels, which the spec leaves
unordered, by the model's choice (DESIGN CHOICE, log 53); a lane of fins whose pixel a stopped lane names stops with it
(12 R302). -/
def performLists (s : State) (a : Agent) (t : Layer) (fn sub q : Nat) (reqs : List LaneReq) : Performed :=
  reqs.foldl
    (fun (p : Performed) r =>
      match p.failed.find? fun e => fn == 0 && e.2.1 != 0x16 && pixelX e.1 == pixelX r && pixelY e.1 == pixelY r with
      | some e => { p with failed := p.failed ++ [(r, e.2)] }
      | none =>
        match listLane p.s a t fn sub q r with
        | .ok (s, ws) => { p with s := s, ws := p.ws ++ ws }
        | .error (s, c, sub, addr) => { p with s := s, failed := p.failed ++ [(r, c, sub, addr)] })
    { s := s, ws := [], failed := [] }

/-! ### Issue (12 R298, R303) -/

/-- The check of a lane: subcode 2 beyond the target, 3 for a NaN depth in fins. -/
def laneFails (t : Layer) (fn : Nat) (r : LaneReq) : Option Nat :=
  if t.width ≤ pixelX r ∨ t.height ≤ pixelY r then some 2
  else if fn = 0 ∧ (FFmt.f32.read (r.data.getD 1 0).toNat).isNan then some 3
  else none

/-- Steps 2 and 3 of the checks: the failing subcode of cause 0x16 with the lanes that fail it. -/
def listCheck (bs : List Byte) (t : Layer) (fn : Nat) (reqs : List LaneReq) : Option (Nat × List Nat) :=
  if layerReserved bs then some (1, reqs.map LaneReq.lane)
  else if t.bad then some (0, reqs.map LaneReq.lane)
  else
    (reqs.findSome? (laneFails t fn)).map fun sub =>
      (sub, (reqs.filter fun r => laneFails t fn r == some sub).map LaneReq.lane)

/-- The descriptor of a list operation read and checked. -/
def readLayer (s : State) (a : Agent) (desc : Dword) (fn : Nat) (reqs : List LaneReq) :
    Tried (State × Except (Nat × List Nat) Layer) := do
  let (s, bs) ← vread s a desc.toNat 64
  let t := layerOf desc.toNat bs
  match listCheck bs t fn reqs with
  | some e => .ok (s, .error e)
  | none => .ok (s, .ok t)

/-- Lanes that found an invalid list, and those that a replayable fault stops. -/
def invalidFails (f : List (LaneReq × Nat × Nat × Nat)) : List (LaneReq × Nat × Nat × Nat) := f.filter fun e => e.2.1 == 0x16
def stoppedFails (f : List (LaneReq × Nat × Nat × Nat)) : List (LaneReq × Nat × Nat × Nat) := f.filter fun e => e.2.1 != 0x16

/-- Failed lanes with the addresses at which they failed. -/
def atFaults (f : List (LaneReq × Nat × Nat × Nat)) : List (LaneReq × Nat × Nat × Nat) :=
  f.map fun e => ({ e.1 with addr := BitVec.ofNat 64 e.2.2.2 }, e.2)

/-- A list operation of the issuing path, counted on FR, after every access that the team issued before it (12 R298, R303,
R305). -/
def listOp (s : State) (h : Hdr) (fn sub q za n : Nat) : Out :=
  withIssuer s fun x =>
    let ls := x.lanes h
    let desc := x.t.zr za
    let acc : Access := .list fn sub q desc
    let reqs := walkerReqs x h q n desc
    if ls.isEmpty then s.pass x 4 h.s
    else if !canonicalVa desc then trapLanes s x 0x09 0 desc ls
    else if desc.toNat % 64 ≠ 0 then trapLanes s x 0x08 0 desc ls
    else if x.t.full FR || !x.t.performed then s.stall
    else
      match readLayer s (x.engine s) desc fn reqs with
      | .error (s', c, e, va) =>
        if x.t.sup then supervisorTrap s x.tk x.pi c e x.path.pc (BitVec.ofNat 64 va)
        else
          let (s, op) := addResults s' x (some FR) []
          (addReplay s x.tk (newReplay s x.t x.pi x.path.pc acc op false)
            (atFaults (reqs.map fun r => (r, c, e, va)))).pass x 4 h.s
      | .ok (s, .error e) => trapLanes s x 0x16 e.1 desc e.2
      | .ok (s0, .ok t) =>
        let p := performLists s0 (x.engine s0) t fn sub q reqs
        match x.t.sup, stoppedFails p.failed with
        | true, (_, c, e, addr) :: _ => supervisorTrap s x.tk x.pi c e x.path.pc (BitVec.ofNat 64 addr)
        | _, fails =>
          let (s, op) := addResults p.s x (some FR) p.ws
          let s := addReplay s x.tk (newReplay s x.t x.pi x.path.pc acc op false) (atFaults fails)
          corruptTrap (s.pass x 4 h.s) x (invalidFails p.failed)

/-- fins (12 R299). -/
def execFins (f : UN) (s : State) : Out := listOp s f.h 0 0 f.d.toNat f.a.toNat 5
/-- resolve (12 R304). -/
def execResolve (f : UN) (s : State) : Out := listOp s f.h 1 0 f.d.toNat f.a.toNat 8
/-- resolve.clr (12 R304). -/
def execResolveClr (f : UN) (s : State) : Out := listOp s f.h 1 1 f.d.toNat f.a.toNat 8
/-- lclear (12 R304). -/
def execLclear (f : UN) (s : State) : Out := listOp s f.h 2 0 f.d.toNat f.a.toNat 1

end Sys2Proof.Machine
end

