-- ==== Sys2Proof/Machine/Sync.lean ====
section
/-!
DEFINITION. Fences, cohort barriers and waits (07 R189-R194).
-/
namespace Sys2Proof.Machine

/-- fence: when it acts, the path parks until every access that the team issued before it has been performed
(07 R189). -/
def execFence (f : FN) (s : State) : Out :=
  withIssuer s fun x =>
    if (x.lanes f.h).isEmpty then s.pass x 4 f.h.s
    else s.park x (.waiting (.fence f.scope.toNat f.ord.toNat s.nextTrap)) f.h.s

/-- An ordering code that includes acquire: .acq, .ar, .sc (03 R80). -/
def ordAcquires (ord : Nat) : Bool := ord == 1 || ord == 3 || ord == 4

/-- A path's fence ends once every earlier access of its team has been performed (07 R189): an sc fence takes its ticket
then, so that the order of tickets agrees with happens-before (08 R217), and one that acquires empties the team's part of
the scale cache (09 R237). -/
def fenceDone (s : State) (tk pi : Nat) : State :=
  match s.team tk with
  | none => s
  | some t =>
    match (t.path pi).map Path.st with
    | some (.waiting (.fence _ ord upTo)) =>
      if t.performedTo upTo then
        { s with ticket := if ord = 4 then s.ticket + 1 else s.ticket }.modTeam tk fun t =>
          (if ordAcquires ord then t.dropScales else t).resume pi
      else s
    | _ => s

/-- bar.c: the team arrives at its slot and waits as a whole (07 R190). -/
def execBarC (f : BAR) (s : State) : Out :=
  withIssuer s fun x =>
    if (x.lanes f.h).isEmpty then s.pass x 4 f.h.s
    else
      cohortTry (s.modTeam x.tk fun t =>
        { t.modPath x.pi fun p => { p with mark := f.h.s } with wait := .bar x.pi f.slot.toNat false }) x.tk

/-- waitn: the path counts until the counter is at most the bound read at issue (07 R192). It is a team-wide point, so
every unfinished access of the team precedes the path's later ones, and an acquire, which empties the team's part of the
scale cache (08 R208, R218, 09 R237). -/
def execWaitn (f : WN) (s : State) : Out :=
  withIssuer s fun x =>
    let bound := (x.t.sr f.d.toNat).toNat
    if (x.lanes f.h).isEmpty then s.pass x 4 f.h.s
    else
      let s := s.modTeam x.tk fun t => t.follow x.pi
      if x.t.counter f.path.toNat ≤ bound then (s.modTeam x.tk Team.dropScales).pass x 4 f.h.s
      else s.park x (.counting f.path.toNat bound) f.h.s

/-! ### waitc (07 R193, R194) -/

/-- The acquire read of waitc. -/
def waitRead (s : State) (tk : Nat) (t : Team) (addr : Dword) : Except (State × AccFault) (State × Word) :=
  if inAperture addr then
    match windowTarget s tk t (nbits addr.toNat 0 22) with
    | some (k, off) => .ok (s, BitVec.ofNat 32 (natOfBytes (scrRead s k off 4)))
    | none => .ok (s, 0)
  else
    match vnat s (teamAgent s tk t) addr.toNat 4 with
    | .error e => .error e
    | .ok (s, v) => .ok (s, BitVec.ofNat 32 v)

/-- The memory die whose table holds a global entry, or the core whose monitor holds a scratchpad's: dies 0 to 7, cores
from 8 on (07 R193). -/
def waitHome (s : State) (tk : Nat) (t : Team) (addr : Dword) : Nat :=
  if inAperture addr then
    match windowTarget s tk t (nbits addr.toNat 0 22) with
    | some (k, _) => 8 + ((s.team k).map Team.core).getD 0
    | none => 8
  else homeDie (regionLookup s (teamAgent s tk t) addr.toNat).2 addr.toNat

/-- A wait-on-address entry is registered; a full table first wakes and drops its oldest entry (07 R194). -/
def register (s : State) (w : Waiter) : State :=
  let mine := s.waits.filter fun v => v.home == w.home
  let cap := if w.home < 8 then 8192 else 16
  let s := if cap ≤ mine.length then
      match mine.head? with
      | some o => deliverWake { s with waits := s.waits.erase o } o.who
      | none => s
    else s
  { s with waits := s.waits ++ [w] }

/-- The location that a team's entry names. -/
def waitLoc (s : State) (tk : Nat) (t : Team) (addr : Dword) : WaitLoc :=
  if inAperture addr then
    match windowTarget s tk t (nbits addr.toNat 0 22) with
    | some (k, off) => .scratch k off
    | none => .scratch tk 0
  else .virt (teamAgent s tk t).gasid addr

/-- After a read of waitc's location: the team goes on when the value satisfies the condition, or registers and waits. -/
def waitcValue (s : State) (tk pi : Nat) (t : Team) (addr : Dword) (cmp : Nat) (e m : Word) (lane : Nat) (v : Word) :
    State :=
  if waitCond cmp v e m then s.modTeam tk fun t => t.leaveWait pi
  else
    let s := s.modTeam tk fun t => { t with wait := .waitc pi addr cmp e m lane false }
    register s { who := .team tk, loc := waitLoc s tk t addr, home := waitHome s tk t addr, cmp := cmp, e := e,
                 m := m }

/-- The loop of waitc: its read, whose replayable fault leaves the team waiting with the elected lane unfinished; a
fault of the supervisor is taken at the instruction (07 R193, 15 R321). -/
def waitcLoop (s : State) (tk pi : Nat) (t : Team) (addr : Dword) (cmp : Nat) (e m : Word) (lane : Nat) : State :=
  match waitRead s tk t addr with
  | .ok (s, v) => waitcValue s tk pi t addr cmp e m lane v
  | .error (s', c, sub, _) =>
    let pc := ((t.path pi).map Path.pc).getD 0
    if t.sup then supervisorTrap (s.modTeam tk fun t => { t with wait := .none }) tk pi c sub pc addr
    else
      let s := s'.modTeam tk fun t => { t with wait := .waitc pi addr cmp e m lane false }
      addReplay s tk (newReplay s t pi pc (.waitc cmp e m) none true)
        [({ lane := lane, addr := addr, data := [] }, c, sub, addr.toNat)]

/-- Every path follows the unfinished accesses: the team has passed a point that holds the whole team (08 R208). -/
def Team.followAll (t : Team) : Team := t.paths.foldl (fun t e => t.follow e.1) t

/-- waitc: team-level; the address is checked, watched at issue and read, after every unfinished access of the team that
08 R209 puts before it (07 R193, 18 R386). -/
def execWaitc (f : WC) (s : State) : Out :=
  withIssuer s fun x =>
    match x.elected f.h with
    | none => s.pass x 4 f.h.s
    | some lane =>
      let addr := x.t.zr (2 * f.za.toNat)
      match checkAtomic s x.tk x.t 4 addr with
      | some c => trapElected s x c 0 addr lane
      | none =>
        let cmp := f.cmp.toNat
        let e := x.t.sr f.se.toNat
        let m := x.t.sr f.sm.toNat
        let req : LaneReq := { lane := lane, addr := addr, data := [] }
        if x.t.pointWaits false (fun r => r.meetsAny 4 [req]) then s.stall
        else
          let s := s.modTeam x.tk fun t => t.followAll.modPath x.pi fun p => { p with mark := f.h.s }
          let held := watched s x (.waitc cmp e m) 4 [req]
          if held.1.isEmpty then waitcLoop s x.tk x.pi x.t addr cmp e m lane
          else
            addHeld (s.modTeam x.tk fun t => { t with wait := .waitc x.pi addr cmp e m lane false }) x
              (newReplay s x.t x.pi x.path.pc (.waitc cmp e m) none true) held.1 held.2

/-- A woken team that is resident and not halted runs the loop of waitc again (07 R194, 15 R325). -/
def waitcReread (s : State) (tk : Nat) : State :=
  match s.team tk with
  | none => s
  | some t =>
    match t.wait with
    | .waitc pi addr cmp e m lane true =>
      if t.halted || !onCore s t || t.replay.any (fun r => r.access == .waitc cmp e m) then s else waitcLoop s tk pi t addr cmp e m lane
    | _ => s

end Sys2Proof.Machine
end

