-- ==== Sys2Proof/Machine/Replay.lean ====
section
/-!
DEFINITION. Performing what replay state holds: REPLAY (17 R374, 07 R178, 10 R259, 12 R302) and the lanes held by
watchpoints (18 R386).
-/
namespace Sys2Proof.Machine

/-- The causes that REPLAY serves (17 R372, R374). -/
def replayable (cause sub : Nat) : Bool :=
  cause == 0x0A || cause == 0x0B || (cause == 0x03 && sub ≤ 1) || cause == 0x13 || cause == 0x14 || cause == 0x17

/-- The lanes that some path of a team still holds. -/
def Team.heldLanes (t : Team) : Mask := t.paths.foldl (fun m e => m ||| e.2.mask) 0

/-- A replayed result's writes to lanes that have not left, and its uniform writes while a path waits for them (05 R141). -/
def Team.wanted (t : Team) (owners : List Nat) (ws : List RegWrite) : List RegWrite :=
  ws.filter fun w => match w with
    | .v _ l _ | .p _ l _ => t.heldLanes.getLsbD l
    | .s _ _ | .q _ _ => owners.any fun o => (t.path o).isSome

/-- The writes of performed lanes are made. -/
def giveWrites (s : State) (tk : Nat) (owners : List Nat) (ws : List RegWrite) : State :=
  s.modTeam tk fun t => t.writes (t.wanted owners ws)

/-- Lanes that fault again join the replay state again, in the place of their instruction in team order (08 R208). -/
def faultAgain (s : State) (tk : Nat) (r : Replay) (failed : List (LaneReq × Nat × Nat × Nat)) : State :=
  match s.team tk with
  | none => s
  | some t => addReplay s tk { r with time := s.now t.die, reported := false } failed

/-- An operation that has not come about after all leaves its counter. -/
def Team.undoOp (t : Team) (id : Nat) : Team :=
  match t.ops.find? fun o => o.id == id with
  | none => t
  | some o => { t with ops := dropDone o.apath (t.ops.filter fun x => x.id != id) }.wakeCounting

/-- A check that fails when replay reads a descriptor is precise at the instruction, as if found at issue: the path stands
at it again, and its operation is not counted (10 R259, 12 R303). -/
def failReplay (s : State) (tk : Nat) (r : Replay) (cause sub : Nat) (addr : Dword) (ls : List Nat) : State :=
  match s.team tk with
  | none => s
  | some t =>
    let fl : BitVec 8 := if r.uniform then 9 else 1
    let tr := mkTrap s t cause sub r.pc addr r.path (maskOf ls) fl 0
    let s := s.modTeam tk fun t =>
      (match r.op with
       | some id => t.undoOp id
       | none => t).modPath r.path fun p => { p with pc := r.pc, st := .faulted, trap := some tr }
    recordTrap s tk t tr

/-- The trap of lanes that find a tree or a list invalid during their replay, as corruptTrap's: imprecise (10 R259, 12 R303). -/
def invalidReplay (s : State) (tk : Nat) (r : Replay) (bad : List (LaneReq × Nat × Nat × Nat)) : State :=
  match s.team tk, bad with
  | some t, (_, c, sub, addr) :: _ =>
    standTrap s tk t (mkTrap s t c sub r.pc (BitVec.ofNat 64 addr) r.path (failMask bad) 0 0)
  | _, _ => s

/-- What a replay leaves to be done once every access that it performs has been: the faults and traps of its lanes, each with
its path, so that those of one clock are raised by ascending path (18 R382). -/
abbrev Raises := List (Nat × (State → State))

/-- The lanes of a walker instruction performed again, with its descriptor read and checked (10 R259, R265). -/
def replayWalker (s : State) (tk : Nat) (t : Team) (r : Replay) (fn sub q : Nat) (desc : Dword) : State × Raises :=
  let a := if fn = 2 ∨ fn = 6 ∨ fn = 7 then engineAgent s tk t else teamAgent s tk t
  let ls := r.lanes.map LaneReq.lane
  match readTree s a desc t.vregs (q + walkerWide fn sub) with
  | .error (s, c, e, va) =>
    (s, [(r.path, fun s => faultAgain s tk r (r.lanes.map fun l => ({ l with addr := BitVec.ofNat 64 va }, c, e, va)))])
  | .ok (s, .error (c, sub, addr)) => (s, [(r.path, fun s => failReplay s tk r c sub (BitVec.ofNat 64 addr) ls)])
  | .ok (s, .ok tree) =>
    if fn = 2 then
      let d := (r.lanes.head?.map LaneReq.data).getD []
      let h := (d.getD 0 0).toNat
      let off := (d.getD 1 0).toNat
      match leafCopyCheck tree desc h off t.scratch with
      | some (c, e, addr) => (s, [(r.path, fun s => failReplay s tk r c e addr ls)])
      | none =>
        (holdLanes s tk r.path r.pc (r.op.getD 0) (kindVol + 2) [tree.leafAt h, 128 + 512 * tree.vb, off] 0
          [{ lane := ls.headD 0, addr := 0, data := [] }] none r.issued, [])
    else if fn = 6 ∨ fn = 7 then
      let p := performWith s (fun s l => curatorLane s a tree fn q tk (r.op.getD 0) l) r.lanes
      (p.s, [(r.path, fun s => curatorAfter { p with s := s } tk r.path r.pc (r.op.getD 0) fn q desc)])
    else
      let p := performWith s (fun s l => walkLane s a t.cluster tree fn sub q l) r.lanes
      (giveWrites p.s tk r.owners p.ws, [(r.path, fun s =>
        invalidReplay (faultAgain s tk r (atFaults (replayFails p.failed))) tk r ((corruptFails p.failed).take 1))])

/-- The lanes of a list operation performed again, with its descriptor read and checked (12 R302, R303). -/
def replayList (s : State) (tk : Nat) (t : Team) (r : Replay) (fn sub q : Nat) (desc : Dword) : State × Raises :=
  let a := engineAgent s tk t
  match readLayer s a desc fn r.lanes with
  | .error (s, c, e, va) => (s, [(r.path, fun s => faultAgain s tk r (atFaults (r.lanes.map fun l => (l, c, e, va))))])
  | .ok (s, .error e) => (s, [(r.path, fun s => failReplay s tk r 0x16 e.1 desc e.2)])
  | .ok (s, .ok layer) =>
    let p := performLists s a layer fn sub q r.lanes
    (giveWrites p.s tk r.owners p.ws, [(r.path, fun s =>
      invalidReplay (faultAgain s tk r (atFaults (stoppedFails p.failed))) tk r (invalidFails p.failed))])

/-- A path that waits for its launch block takes up its wait and reads it again (07 R196). -/
def replayLaunch (s : State) (tk : Nat) (r : Replay) : State :=
  match r.lanes.head? with
  | none => s
  | some l =>
    let addr := pairOf (l.data.getD 0 0) (l.data.getD 1 0)
    launchRead (s.modPath tk r.path fun p => { p with st := .waiting (.launch addr l.lane 0) }) tk r.path

/-- The unfinished lanes of one instruction performed from their replay state, in ascending lane order (07 R178), with what
is to be raised after. Stores and atomics empty the team's part of the scale cache again, so that a step that comes after
them reads what they have written or acquired (09 R237). An sc instruction took its ticket when it issued, and its lanes are
performed under that one (07 R186). -/
def replayOne (s : State) (tk : Nat) (t : Team) (r : Replay) : State × Raises :=
  match r.access with
  | .fetch => (s, [])
  | .launch => (s, [(r.path, fun s => replayLaunch s tk r)])
  | .waitc cmp e m =>
    match r.lanes.head? with
    | none => (s, [])
    | some l => (waitcLoop s tk r.path t l.addr cmp e m l.lane, [])
  | .walker fn sub q desc => replayWalker s tk t r fn sub q desc
  | .list fn sub q desc => replayList s tk t r fn sub q desc
  | acc =>
    let p := performInOrder s tk t acc r.lanes
    let s := if acc.dropsScales then p.s.modTeam tk Team.dropScales else p.s
    (giveWrites s tk r.owners p.ws, [(r.path, fun s => faultAgain s tk r p.failed)])

/-- The entries of one instruction as one: its unfinished lanes in ascending order. -/
def joinEntries (rs : List Replay) (r : Replay) : Replay :=
  { r with lanes := sortBy LaneReq.lane ((rs.filter fun q => q.issued == r.issued).flatMap Replay.lanes) }

/-- Entries by instruction, in the order in which their instructions were issued. -/
def byInstruction (rs : List Replay) : List Replay :=
  (sortBy Replay.issued rs).foldl
    (fun acc r => if acc.any fun q => q.issued == r.issued then acc else acc ++ [joinEntries rs r]) []

/-- The entries of an instruction that a test names leave the replay state and are performed, if the team is still there. -/
def replayEntry (acc : State × Raises) (tk : Nat) (which : Replay → Bool) (r : Replay) : State × Raises :=
  let s := acc.1.modTeam tk fun t => { t with replay := t.replay.filter fun q => !(q.issued == r.issued && which q) }
  match s.team tk with
  | some t =>
    if t.live then
      let out := replayOne s tk t r
      (out.1, acc.2 ++ out.2)
    else (s, acc.2)
  | none => (s, acc.2)

/-- A faulted path without a standing trap and with no faulted access left is ready again (07 R178); a launch goes on
waiting, and results that a switch marker waited for may have come. -/
def Team.readyAgain (t : Team) : Team :=
  Team.unpark
    { t with paths := t.paths.map fun (e : Nat × Path) =>
        if e.2.st == .faulted && e.2.trap.isNone && !t.hasFaulted e.1 e.2.mask then (e.1, { e.2 with st := .ready }) else e }

/-- The entries of a team's replay state that a test names are performed, instruction by instruction in issue order; what they
raise follows by ascending path, and the team's paths go on (07 R178, 18 R382). -/
def replayWhere (s : State) (tk : Nat) (which : Replay → Bool) : State :=
  match s.team tk with
  | none => s
  | some t =>
    let out := (byInstruction (t.replay.filter which)).foldl (fun acc r => replayEntry acc tk which r) (s, [])
    let s := (sortBy Prod.fst out.2).foldl (fun s e => e.2 s) out.1
    cohortTry (s.modTeam tk Team.readyAgain) tk

/-- A team's commands stopped by a replayable fault may proceed again (07 R204, 09 R240, R244, 10 R274); one that a trap has
ended may not. -/
def restartCmds (s : State) (tk : Nat) : State :=
  { s with cmds := s.cmds.map fun c =>
      if c.tk = tk ∧ c.kind ≠ kindEnded ∧ ((c.stop.map fun t => replayable t.cause t.sub).getD false) then
        { c with stop := none }
      else c }

/-- Everything of a team that a replayable fault has stopped resumes; a halted team takes it up when it resumes
(17 R374). -/
def replayTeam (s : State) (tk : Nat) : State :=
  match s.team tk with
  | none => s
  | some t =>
    if t.halted ∧ !t.sup then s.modTeam tk fun t => { t with replayDue := true }
    else replayWhere (restartCmds s tk) tk fun r => replayable r.cause r.sub

/-- A write of REPLAY: every team of the partition in the selected address spaces; none selects all (17 R374). It reaches the
teams of the live context and the supervisor; a team whose context is stored it does not (DESIGN CHOICE, log 53). -/
def replayAsid (s : State) (pn : Nat) (asid : Option Nat) : State :=
  let sv := (supAgent s pn).asid
  (s.teams.filter fun e => e.1 / 65536 == pn && e.2.live && (asid.isNone || asid == some (if e.2.sup then sv else e.2.asid))).foldl
    (fun s e => replayTeam s e.1) s

/-- An entry of the replay state stops a path. -/
def Replay.stops (r : Replay) (pi : Nat) (m : Mask) : Bool :=
  if r.uniform then r.owners.contains pi else r.lanes.any fun q => m.getLsbD q.lane

/-- A watchpoint's entry is held on a path: it stops the path, or its record names the path and its lanes have all left, so
that it stops none (18 R386). -/
def Team.holdsOn (t : Team) (pi : Nat) (r : Replay) : Bool :=
  r.cause == 0x07 && (((t.path pi).any fun p => r.stops pi p.mask)
    || (r.path == pi && !(t.paths.any fun e => r.stops e.1 e.2.mask)))

/-- PRES action 1: the lanes that a watchpoint holds on a path perform, with no watchpoint checked (18 R386). -/
def performHeld (s : State) (tk pi : Nat) : State :=
  match s.team tk with
  | none => s
  | some t => replayWhere s tk (t.holdsOn pi)

end Sys2Proof.Machine
end

