-- ==== Sys2Proof/Machine/Regs.lean ====
section
/-!
DEFINITION. The privileged registers: what a read returns, which bits a write sets, and what a write does (15 R322-R324,
16 R347, R355, 17 R371-R374, 18 R383, R385, R387, R390, R392, R393).
-/
namespace Sys2Proof.Machine

/-! ### Fields (00 R3) -/

/-- The bits of a register that a write sets, and those that a written 1 clears. -/
def privMasks (n : Nat) : Nat × Nat :=
  match n with
  | 0x02 => (0xFFFFFFFE, 0)
  | 0x09 => (0xFFFFF000, 0)
  | 0x0B => (0x0F000000, 0x80000000)
  | 0x0C => (0xFFFF0000, 0)
  | 0x0F => (0, 8)
  | 0x20 => (0xFFFFF000, 0)
  | 0x22 => (0x3FFF, 0)
  | 0x23 | 0x24 => (0x1FFF1FFF, 0)
  | 0x25 => (0x1FFF, 0)
  | 0x26 => (0xFF000000, 0)
  | 0x28 => (0xFFFF, 0)
  | 0x29 => (0x1FFFFFF, 0)
  | 0x2C => (0xFFFFFFF8, 0)
  | 0x40 => (0x3FF, 0)
  | 0x42 => (0xFFFFF, 0)
  | 0x44 => (0xFFFF, 0)
  | 0x64 | 0x67 | 0x6A | 0x6D => (0x1FFF03F7, 0)
  | 0x70 | 0x73 => (0x1FFF0203, 0)
  | 0x74 => (0xFFFFF000, 0)
  | 0x76 => (0xFFFF1F03, 0xC)
  | 0x7C => (0xFFFF01FF, 0)
  | 0x7D => (0xF, 0)
  | 0x7F => (0x10F, 0x400)
  | 0x00 | 0x01 | 0x06 | 0x0E | 0x2A | 0x2B | 0x41 | 0x60 | 0x61 | 0x7E => (0, 0)
  | _ => (0xFFFFFFFF, 0)

/-- A register's new contents when a word is written to it. -/
def privMerge (n : Nat) (old val : Word) : Word :=
  let m := privMasks n
  let set : Word := BitVec.ofNat 32 m.1
  let clear : Word := BitVec.ofNat 32 m.2
  ((old &&& ~~~set) ||| (val &&& set)) &&& ~~~(val &&& clear)

/-- CELST as it reads: STATE, BUSY, ERR (15 R323, R328). -/
def celStatus (p : Part) : Word :=
  (p.reg 0x0F &&& 8) ||| (if p.cellarOp = 0 then 0 else 4) ||| (if p.cellar.isSome then 1 else 0)

/-- What rdpr reads (15 R322); an action field reads 0 (00 R3). -/
def readPriv (s : State) (pn n : Nat) : Word :=
  let p := s.part pn
  match n with
  | 0x00 => BitVec.ofNat 32 (p.rings.toNat * 2 ^ 23 + arraysOf s pn * 2 ^ 20 + p.halves.toNat * 2 ^ 12 + pn)
  | 0x0E => BitVec.ofNat 32 (65536 * Config.celUnits)
  | 0x0F => celStatus p
  | 0x41 => BitVec.ofNat 32 (p.tokenHeld * 65536 + p.allot.toNat)
  | 0x2A | 0x2B | 0x60 | 0x61 => 0
  | 0x7C => p.reg 0x7C &&& ~~~0x100
  | 0x7E => dget 0 p.progress (nbits (p.reg 0x7D).toNat 0 4)
  | _ => p.reg n

/-! ### Resolution registers (18 R383) -/

/-- A user team of a partition by its TID, while it lives. -/
def userTeam (s : State) (pn tid : Nat) : Option Team :=
  match s.team (pn * 65536 + tid) with
  | some t => if t.live && !t.sup then some t else none
  | none => none

/-- A live team of a stored context by its key: its TID stays its own there (15 R320, R327). -/
def storedTeam (s : State) (tk : Nat) : Option Team :=
  ((storedContexts s).findSome? fun x => klook x.teams tk).filter fun t => t.live && !t.sup

/-- A write of GEND (18 R383). -/
def writeGend (s : State) (pn : Nat) (v : Word) : State :=
  let id := nbits v.toNat 0 16
  let cause := nbits v.toNat 24 6
  if nbit v.toNat 16 then
    match s.grid (pn * 65536 + id) with
    | some _ => gend s (pn * 65536 + id) none cause
    | none => s
  else
    match (userTeam s pn id).orElse fun _ => storedTeam s (pn * 65536 + id) with
    | some t => gend s t.gid (some (pn * 65536 + id)) cause
    | none => s

/-- PRES action 0: a user-trapped path goes on at PC + 4 with its full mask, parked there when the trap carries the switch
marker and results are outstanding (18 R383, 05 R142, 02 R54). -/
def Team.continueTrapped (t : Team) (pi : Nat) : Team :=
  match t.path pi with
  | none => t
  | some p =>
    if (p.trap.map Trap.cause) = some 0x04 then (t.modPath pi fun p => { p with trap := none }).pass pi 4 p.mark else t

/-- PRES action 1 on a path of a stored team: when watchpoints hold lanes on it, they are performed once the team resumes
(18 R383; log 25). -/
def Team.letHeldGo (t : Team) (pi : Nat) : Team :=
  if t.replay.any (t.holdsOn pi) then { t with letGo := t.letGo ++ [pi] } else t

/-- A write of PRES, which reaches a team wherever its context stands: a user-trapped path goes on at once; lanes that
watchpoints hold are performed at once on the device, and in a stored context once the team resumes (18 R383; log 25). -/
def writePres (s : State) (pn : Nat) (v : Word) : State :=
  let tk := pn * 65536 + nbits v.toNat 0 16
  let pi := nbits v.toNat 16 6
  let action := nbits v.toNat 22 2
  match userTeam s pn (nbits v.toNat 0 16), storedTeam s tk with
  | some _, _ =>
    if action = 0 then s.modTeam tk fun t => t.continueTrapped pi else if action = 1 then performHeld s tk pi else s
  | none, some _ =>
    s.modStored fun x => { x with
      teams := kmod x.teams tk fun t =>
        if action = 0 then t.continueTrapped pi else if action = 1 then t.letHeldGo pi else t }
  | none, none => s

/-- The address spaces that a write of REPLAY or REGINV selects: none is every one (17 R371). -/
def asidSelect (v : Word) : Option Nat := if nbit v.toNat 16 then none else some (nbits v.toNat 0 13)

/-- A write of REGINV: region-cache entries of the selected address spaces of the partition leave (17 R362, R371). -/
def regInvalidate (s : State) (pn : Nat) (asid : Option Nat) : State :=
  { s with region := s.region.filter fun e =>
      let g := nbits e.1 22 16
      !(g / 8192 == pn && (asid.isNone || asid == some (g % 8192))) }

/-! ### Trials and locks (18 R392, R393) -/

/-- The 64-bit CXLO and CXHI. -/
def trialRange (p : Part) : Dword × Dword := (BitVec.ofNat 64 (p.reg64 0x78), BitVec.ofNat 64 (p.reg64 0x7A))

/-- A write of CXCTL acts by its EN (00 R3, 18 R392): 1 starts a trial, with both counts 0 and record 10; 0 ends the trial
that runs, with record 11. Bit 8 of the stored word tells whether one runs. That a start while one runs ends it without
a record, and that 0 does nothing when none runs, is the model's choice (log 47). -/
def writeTrial (s : State) (pn : Nat) (v : Word) : State :=
  let old := (s.part pn).reg 0x7C
  let new := privMerge 0x7C old v
  let r := trialRange (s.part pn)
  let gid := nbits new.toNat 16 16
  let s := s.modPart pn fun p => p.setReg 0x7C new
  if nbit new.toNat 8 then
    catWrite (s.modPart pn fun p => { p with cxIn := 0, cxOut := 0 }) pn 10 (nbits new.toNat 0 8) 0 0xFF gid r.1 r.2
  else if nbit old.toNat 8 then
    let p := s.part pn
    catWrite s pn 11 (nbits old.toNat 0 8) 0 0xFF (nbits old.toNat 16 16) r.1 (pairOf p.cxOut p.cxIn)
  else s

/-- A write of CLKLOCK: REQ going up asks the host, REQ going down releases the lock. POINT counts at once, but one written
while the lock holds only from the next request on (18 R393). -/
def writeLock (s : State) (pn : Nat) (v : Word) : State :=
  let p := s.part pn
  let old := p.reg 0x7F
  let new := privMerge 0x7F old v
  let locked := nbit old.toNat 9
  let s := s.modPart pn fun p =>
    { p.setReg 0x7F new with lockPoint := if locked then p.lockPoint else BitVec.ofNat 4 new.toNat }
  if !nbit old.toNat 8 && nbit new.toNat 8 then fireVector s (1 + pn)
  else if nbit old.toNat 8 && !nbit new.toNat 8 && locked then
    catWrite (s.modPart pn fun p => p.setReg 0x7F (new &&& ~~~0x200)) pn 9 p.lockPoint.toNat 0 0xFF 0 0 0
  else s

/-- A lock that holds is broken: LOCKED is cleared, BROKEN and REASON set (18 R393). -/
def breakLock (s : State) (pn reason : Nat) : State :=
  let w := (s.part pn).reg 0x7F
  if nbit w.toNat 9 then
    catWrite (s.modPart pn fun p =>
      p.setReg 0x7F ((w &&& ~~~0x3A00) ||| 0x400 ||| BitVec.ofNat 32 (reason * 2048))) pn 8 reason 0 0xFF 0 0 0
  else s

/-! ### A write (15 R336: it governs every instruction issued after it) -/

/-- What wrpr does: action registers act, the others take the bits that a write sets. -/
def writePriv (s : State) (pn n : Nat) (v : Word) : State :=
  match n with
  | 0x60 => writeGend s pn v
  | 0x61 => writePres s pn v
  | 0x2A => replayAsid s pn (asidSelect v)
  | 0x2B => regInvalidate s pn (asidSelect v)
  | 0x7C => writeTrial s pn v
  | 0x7F => writeLock s pn v
  | _ =>
    let s := s.modPart pn fun p => p.setReg n (privMerge n (p.reg n) v)
    if n = 0x09 ∨ n = 0x0A ∨ n = 0x0B then tqRelease (s.modPart pn fun p => { p with heldStuck := false }) pn
    else if n = 0x7D ∧ nbit v.toNat 8 then s.modPart pn fun p => { p with progress := [] }
    else s

/-! ### The same writes as events of the opcode table -/

/-- GEND. -/
def execGend (pnum : Nat) (val : Word) (s : State) : Out := .next (writeGend s pnum val)
/-- PRES_CONTINUE. -/
def execPresContinue (pnum : Nat) (val : Word) (s : State) : Out :=
  .next (if nbits val.toNat 22 2 = 0 then writePres s pnum val else s)
/-- PRES_PERFORM_HELD. -/
def execPresPerformHeld (pnum : Nat) (val : Word) (s : State) : Out :=
  .next (if nbits val.toNat 22 2 = 1 then writePres s pnum val else s)
/-- REPLAY_ASID. -/
def execReplayAsid (pnum asid : Nat) (s : State) : Out := .next (replayAsid s pnum (some (asid % 8192)))
/-- REPLAY_ALL. -/
def execReplayAll (pnum : Nat) (s : State) : Out := .next (replayAsid s pnum none)
/-- REGINV_ASID. -/
def execReginvAsid (pnum asid : Nat) (s : State) : Out := .next (regInvalidate s pnum (some (asid % 8192)))
/-- REGINV_ALL. -/
def execReginvAll (pnum : Nat) (s : State) : Out := .next (regInvalidate s pnum none)
/-- TRAP_QUEUE_CONFIG_WRITE: a write of TQBASEL, TQBASEH or TQPTR (15 R324). -/
def execTrapQueueConfigWrite (pnum reg : Nat) (val : Word) (s : State) : Out :=
  .next (if 0x09 ≤ reg ∧ reg ≤ 0x0B then writePriv s pnum reg val else s)
/-- CAUSAL_TRIAL_START: a write of CXCTL with EN set (18 R392). -/
def execCausalTrialStart (pnum : Nat) (val : Word) (s : State) : Out :=
  .next (if nbit val.toNat 8 then writeTrial s pnum val else s)
/-- CAUSAL_TRIAL_END: a write of CXCTL with EN clear (18 R392). -/
def execCausalTrialEnd (pnum : Nat) (val : Word) (s : State) : Out :=
  .next (if nbit val.toNat 8 then s else writeTrial s pnum val)
/-- PROGRESS_COUNTER_CLEAR: a write of PROGSEL with CLR set (18 R392). -/
def execProgressCounterClear (pnum : Nat) (val : Word) (s : State) : Out :=
  .next (if nbit val.toNat 8 then writePriv s pnum 0x7D val else s)
/-- CLOCK_LOCK_REQUEST: a write of CLKLOCK with REQ set (18 R393). -/
def execClockLockRequest (pnum : Nat) (val : Word) (s : State) : Out :=
  .next (if nbit val.toNat 8 then writeLock s pnum val else s)
/-- CLOCK_LOCK_RELEASE: a write of CLKLOCK with REQ clear (18 R393). -/
def execClockLockRelease (pnum : Nat) (val : Word) (s : State) : Out :=
  .next (if nbit val.toNat 8 then s else writeLock s pnum val)

/-- FAULT_BATCH_DELIVERY: the batch is delivered on its timer or its count (17 R372). -/
def execFaultBatchDelivery (pnum : Nat) (s : State) : Out := .next (if batchDue s pnum then deliverBatch s pnum else s)

end Sys2Proof.Machine
end

