-- ==== Sys2Proof/Machine/Privileged.lean ====
section
/-!
DEFINITION. The functions of major 0x3F: cache maintenance (17 R370) and the privileged instructions (15 R319-R337, 16 R356,
18 R388-R391).
-/
namespace Sys2Proof.Machine

/-! ### Forms (15 R319, R336) -/

/-- A uniform instruction of the supervisor: cause 0x02 in user mode; else it acts once when its predicate holds. -/
def privOp (s : State) (h : Hdr) (f : Issuer → State) : Out :=
  withIssuer s fun x =>
    if !x.t.sup then trapUniform s x 0x02 0 0 else if x.uacts h then f x else s.pass x 4 h.s

/-- A short privileged instruction: its effect, and the path moves on. -/
def privShort (s : State) (h : Hdr) (f : State → Issuer → State) : Out :=
  privOp s h fun x => (f s x).pass x 4 h.s

/-- A privileged instruction whose operand is checked: cause 0x1D with a subcode, or the effect (15 R338). -/
def privChecked (s : State) (h : Hdr) (check : Issuer → Option Nat) (f : Issuer → State) : Out :=
  privOp s h fun x =>
    match check x with
    | some sub => trapUniform s x 0x1D sub 0
    | none => f x

/-! ### cflush and cwb (17 R370) -/

/-- Cache maintenance of a line: the path waits until the writes are performed, and the team's accesses that precede it
come first (08 R209). -/
def lineOp (s : State) (f : SA) (remove : Bool) : Out :=
  withIssuer s fun x =>
    let va := x.t.zr f.a.toNat
    if !x.uacts f.h then s.pass x 4 f.h.s
    else if !canonicalVa va then trapUniform s x 0x09 0 va
    else s.park x (.waiting (.maintenance va remove s.nextTrap)) f.h.s

/-- cflush (17 R370). -/
def execCflush (f : SA) (s : State) : Out := lineOp s f true
/-- cwb (17 R370). -/
def execCwb (f : SA) (s : State) : Out := lineOp s f false

/-- CACHE_MAINTENANCE_COMPLETE: after the team's earlier accesses, every copy of the line is written back, and removed by
cflush, and the path resumes (17 R370, 08 R209). -/
def execCacheMaintenanceComplete (tk path : Nat) (s : State) : Out :=
  .next <| match s.team tk with
    | none => s
    | some t =>
      match (t.path path).map Path.st with
      | some (.waiting (.maintenance va remove upTo)) =>
        if !t.performedTo upTo then s
        else
          let key := lineKey (teamAgent s tk t).gasid va.toNat
          ((if remove then flushLine s key else writeBack s key)).resume tk path
      | _ => s

/-! ### Registers and traps (15 R321-R324, R336) -/

/-- rdpr: a register of the issuing supervisor's partition (15 R322). -/
def execRdpr (f : PR) (s : State) : Out :=
  privShort s f.h fun s x => s.modTeam x.tk fun t => t.write (.s f.a.toNat (readPriv s (pnumOf x.tk) f.i.toNat))

/-- wrpr (15 R322). -/
def execWrpr (f : PR) (s : State) : Out :=
  privShort s f.h fun s x => writePriv s (pnumOf x.tk) f.i.toNat (x.t.sr f.a.toNat)

/-- tret: the return from a supervisor trap, with its switch marker at EPC (02 R54); outside a handler it is an illegal
instruction (15 R336). -/
def execTret (h : Hdr) (s : State) : Out :=
  privOp s h fun x =>
    if (s.part (pnumOf x.tk)).reg 0x01 &&& 1 = 0 then trapUniform s x 0x01 1 0
    else (supervisorReturn s x.tk x.pi).pass x 0 h.s

/-- A held record is written unless it waits for a new queue (15 R324). -/
def tqResume (s : State) (pn : Nat) : State := if (s.part pn).heldStuck then s else tqRelease s pn

/-- tqpop: the oldest record's index, or all ones when the queue is empty (15 R336). -/
def tqPop (s : State) (x : Issuer) (d : Nat) : State :=
  let pn := pnumOf x.tk
  let w := (s.part pn).reg 0x0B
  if tqHead w = tqTail w then s.modTeam x.tk fun t => t.write (.s d 0xFFFFFFFF)
  else
    let s := s.modTeam x.tk fun t => t.write (.s d (BitVec.ofNat 32 (tqHead w)))
    tqResume (s.modPart pn fun p => p.setReg 0x0B (tqPut w (tqTail w) ((tqHead w + 1) % 2 ^ tqSizeLog w))) pn

/-- tqpop (15 R336). -/
def execTqpop (f : SA) (s : State) : Out := privShort s f.h fun s x => tqPop s x f.a.toNat

/-! ### Halting (15 R325, R326) -/

/-- The user teams of a partition. -/
def userTeams (s : State) (pn : Nat) : List (Nat × Team) := s.teams.filter fun e => e.1 / 65536 == pn && !e.2.sup

/-- The grids that a selector names. -/
def namedGrids (s : State) (pn : Nat) (sel : Word) : List Nat :=
  match nbits sel.toNat 0 2 with
  | 1 => familyOf s (pn * 65536 + nbits sel.toNat 16 16)
  | 2 => (s.grids.filter fun e => e.1 / 65536 == pn).map Prod.fst
  | _ => []

/-- The live teams that a selector names. -/
def namedTeams (s : State) (pn : Nat) (sel : Word) : List Nat :=
  let live := (userTeams s pn).filter fun e => e.2.live
  match nbits sel.toNat 0 2 with
  | 0 => (live.filter fun e => e.1 == pn * 65536 + nbits sel.toNat 16 16).map Prod.fst
  | 1 => (live.filter fun e => (namedGrids s pn sel).contains e.2.gid).map Prod.fst
  | _ => live.map Prod.fst

/-- The selector's reserved field or reserved scope is used: subcode 0. -/
def selectorFails (sel : Word) : Option Nat :=
  if nbits sel.toNat 2 14 ≠ 0 ∨ nbits sel.toNat 0 2 = 3 then some 0 else none

/-- One team is marked halted, its engine commands at their progress points: a running psweep stops at a colour phase, a
matrix command at a block or a row, a copy at a row, a halo command at an entry (11 R285, 15 R325); the halt finds the
matrix engines inside the commands `inside`. -/
def haltTeam (s : State) (inside : List Nat) (tk : Nat) : State :=
  match s.team tk with
  | some t =>
    if t.halted then s
    else (haltHalo (haltCopy (haltMatrix (haltSweep s tk) inside tk) tk) tk).modTeam tk fun t => { t with halted := true }
  | none => s

/-- One halt of teams, which finds each matrix engine inside one step or command at most (09 R249). -/
def haltTeams (s : State) (tks : List Nat) : State :=
  let (s, inside) := insideCmds s tks
  tks.foldl (fun s tk => haltTeam s inside tk) s

/-- halt's effect: the named teams, their grids under scope 1, the whole partition under scope 2. -/
def haltNamed (s : State) (pn : Nat) (sel : Word) : State :=
  let grids := namedGrids s pn sel
  let s := haltTeams s (namedTeams s pn sel)
  let s := grids.foldl (fun s g => s.modGrid g fun g => { g with halted := true }) s
  if nbits sel.toNat 0 2 = 2 then s.modPart pn fun p => { p with haltAll := true } else s

/-- The selector names something to halt or to resume. -/
def namesSome (s : State) (pn : Nat) (sel : Word) : Bool :=
  nbits sel.toNat 0 2 == 2 || !(namedTeams s pn sel).isEmpty

/-- halt: the named teams are marked, and the path waits for them to meet R325. -/
def execHalt (f : SA) (s : State) : Out :=
  privChecked s f.h (fun x => selectorFails (x.t.sr f.a.toNat)) fun x =>
    let sel := x.t.sr f.a.toNat
    let pn := pnumOf x.tk
    if !namesSome s pn sel then s.pass x 4 f.h.s
    else (haltNamed s pn sel).park x (.waiting (.halt sel)) f.h.s

/-- A team meets R325: its long results have returned, its mailbox writes and Curator lanes are performed, and so are its
commands without a progress point, but for those that a fault holds back; engine commands stand at their progress points,
and a swapped-out team is halted at once (log 52). -/
def settled (s : State) (tk : Nat) : Bool :=
  match s.team tk with
  | none => true
  | some t =>
    !t.live || !onCore s t
      || (t.long.isEmpty && !(s.mails.any fun m => m.1 == tk)
        && !(s.cmds.any fun c => c.tk == tk && !c.lanes.isEmpty && c.stop.isNone && (c.kind == kindVol + 6 || c.kind == kindVol + 7))
        && !(s.cmds.any fun c => c.tk == tk && c.isWhole && (cmdTeam s c).isSome))

/-- The supervisor's path that waits in some way, with what it waits for. -/
def waitingPath (s : State) (pn : Nat) (which : PathWait → Bool) : Option (Nat × PathWait) :=
  match s.team (supKey pn) with
  | none => none
  | some t => t.paths.findSome? fun e => match e.2.st with
    | .waiting w => if which w then some (e.1, w) else none
    | _ => none

/-- HALT_SETTLE: the halting path resumes once every named team meets R325. -/
def execHaltSettle (pnum : Nat) (s : State) : Out :=
  .next <| match waitingPath s pnum fun w => match w with
      | .halt _ => true
      | _ => false with
    | some (pi, .halt sel) =>
      if (namedTeams s pnum sel).all (settled s) then s.resume (supKey pnum) pi else s
    | _ => s

/-- A team whose barrier has completed while it was halted goes on (07 R190, 15 R325). -/
def Team.afterHalt (t : Team) : Team :=
  match t.wait with
  | .bar pi _ true => t.leaveWait pi
  | _ => t

/-- One team's mark is cleared: an expired count starts again, what REPLAY or PRES asked for meanwhile is made, and its arrival
at a regroup counts again (15 R325, R326, R333, 17 R374, 18 R383). -/
def resumeTeam (s : State) (tk : Nat) : State :=
  match s.team tk with
  | none => s
  | some t =>
    if !t.halted then s
    else
      let wd := t.hasExpired 0x1B
      let fs := t.hasExpired 0x1C
      let s := s.modTeam tk fun t =>
        Team.afterHalt
          { t with halted := false, expired := t.expired.filter fun tr => tr.cause != 0x1B && tr.cause != 0x1C,
                   wdcnt := if wd then 0 else t.wdcnt, fscnt := if fs then 0 else t.fscnt, replayDue := false,
                   letGo := [] }
      let s := t.letGo.foldl (fun s pi => performHeld s tk pi) (if t.replayDue then replayTeam s tk else s)
      match t.wait with
      | .regroup _ _ => regroupTry s tk
      | _ => s

/-- The grids whose launches and placements a resume may let go on: those that its selector names, or the named team's. -/
def resumedGrids (s : State) (pn : Nat) (sel : Word) : List Nat :=
  if nbits sel.toNat 0 2 = 0 then
    ((s.team (pn * 65536 + nbits sel.toNat 16 16)).filter fun t => t.live && !t.sup).toList.map Team.gid
  else namedGrids s pn sel

/-- Grids none of whose teams is halted are halted no more (15 R326; log 52). -/
def releaseGrids (s : State) (grids : List Nat) : State :=
  grids.foldl (fun s g => s.modGrid g fun r => { r with halted := r.halted && hasHalted s g }) s

/-- resume's effect: the grids that it concerns are halted no more once none of their teams is; nor is the partition as a
whole, with its grids, after a resume of the whole or once no team of its live context is halted (15 R326; log 52). -/
def resumeNamed (s : State) (pn : Nat) (sel : Word) : State :=
  let s := (namedTeams s pn sel).foldl resumeTeam s
  if nbits sel.toNat 0 2 = 2 ∨ !((userTeams s pn).any fun e => e.2.live && e.2.halted) then
    (releaseGrids s ((s.grids.filter fun e => e.1 / 65536 == pn).map Prod.fst)).modPart pn fun p => { p with haltAll := false }
  else releaseGrids s (resumedGrids s pn sel)

/-- resume (15 R326). -/
def execResume (f : SA) (s : State) : Out :=
  privChecked s f.h (fun x => selectorFails (x.t.sr f.a.toNat)) fun x =>
    let sel := x.t.sr f.a.toNat
    let pn := pnumOf x.tk
    (if namesSome s pn sel then resumeNamed s pn sel else s).pass x 4 f.h.s

/-! ### The cellar (15 R327, R328) -/

/-- The context registers (17 R371). -/
def contextRegs : List Nat := [0x20, 0x21, 0x22, 0x26, 0x27, 0x28, 0x2C, 0x2D]

/-- cswap's operand and requirements: subcode 0 or 1. -/
def cswapFails (s : State) (pn : Nat) (w : Word) : Option Nat :=
  let p := s.part pn
  if nbits w.toNat 2 30 ≠ 0 ∨ nbits w.toNat 0 2 = 3 then some 0
  else
    let ok : Bool := match nbits w.toNat 0 2 with
      | 0 => ((userTeams s pn).all fun e => !e.2.live || e.2.halted) && p.cellarOp == 0
      | 1 => p.cellar.isSome && p.cellarOp == 0
      | _ => p.cellar.isNone && p.cellarOp == 0
    if ok then none else some 1

/-- cswap: an exchange parks the path; a drain or a fill starts in the background. -/
def execCswap (f : SA) (s : State) : Out :=
  privChecked s f.h (fun x => cswapFails s (pnumOf x.tk) (x.t.sr f.a.toNat)) fun x =>
    let op := nbits (x.t.sr f.a.toNat).toNat 0 2
    if op = 0 then s.park x (.waiting .exchange) f.h.s
    else
      (s.modPart (pnumOf x.tk) fun p => { p with cellarOp := op, celBase := BitVec.ofNat 64 (p.reg64 0x0C) }).pass x 4 f.h.s

/-- The live context of a partition (15 R327). Tokens go back and requests are withdrawn. -/
def liveContext (s : State) (pn : Nat) : Context :=
  let teams := userTeams s pn
  let tks := teams.map Prod.fst
  { teams := teams.map fun e => (e.1, { e.2.dropScales with token := false, tokenAsked := false }),
    cohorts := s.cohorts.filter fun e => e.2.gid / 65536 == pn,
    cmds := (s.cmds.filter fun c => tks.contains c.tk).map fun c => { c with token := false, asked := false },
    waits := s.waits.filter (waiterOf tks),
    mails := s.mails.filter fun m => tks.contains m.1,
    regs := contextRegs.map fun n => (n, (s.part pn).reg n) }

/-- The state without a partition's live context. -/
def withoutContext (s : State) (pn : Nat) : State :=
  let tks := (userTeams s pn).map Prod.fst
  let ids := (s.cmds.filter fun c => tks.contains c.tk).map Cmd.id
  let back := (tks.map fun k => tokensOf s k).sum
  { s with
    teams := s.teams.filter fun e => !tks.contains e.1,
    cohorts := s.cohorts.filter fun e => e.2.gid / 65536 != pn,
    cmds := s.cmds.filter fun c => !tks.contains c.tk,
    waits := s.waits.filter fun w => !waiterOf tks w,
    mails := s.mails.filter fun m => !tks.contains m.1,
    fills := s.fills.filter fun f => !tks.contains f.tk,
    replies := s.replies.filter fun r => !tks.contains r.tk }.modPart pn fun p =>
      { p with tokenHeld := p.tokenHeld - back,
               tokenReqs := p.tokenReqs.filter fun r => !(if r.1 then ids.contains r.2 else tks.contains r.2) }

/-- A context comes in: its teams halted and those at waitc woken, since no write has met their entries meanwhile. A
team whose grid has ended, or is no grid of the partition, does not come (18 R383; log 9). -/
def enterContext (s : State) (pn : Nat) (c : Context) : State :=
  let mine (gid : Nat) : Bool := (s.grid gid).isSome && gid / 65536 == pn
  let c := c.withoutGrids fun g => !mine g
  let ts := c.teams.foldl (fun (m : List (Nat × Team)) (e : Nat × Team) => kput m e.1 { e.2.wake with halted := true }) s.teams
  let cs := c.cohorts.foldl (fun (m : List (Nat × Cohort)) (e : Nat × Cohort) => kput m e.1 e.2) s.cohorts
  { s with teams := ts, cohorts := cs, cmds := s.cmds ++ c.cmds, waits := s.waits ++ c.waits,
           mails := s.mails ++ c.mails }.modPart pn fun (p : Part) =>
    c.regs.foldl (fun (p : Part) (r : Nat × Word) => p.setReg r.1 r.2) p

/-- The context of a cellar that holds none. -/
def emptyContext : Context :=
  { teams := [], cohorts := [], cmds := [], waits := [], mails := [], regs := contextRegs.map fun n => (n, 0) }

/-- The exchange of the live context with the cellar's (15 R328). -/
def exchange (s : State) (pn : Nat) : State :=
  let out := liveContext s pn
  let inn := ((s.part pn).cellar).getD emptyContext
  let s := (withoutContext s pn).modPart pn fun p => { p with cellar := if out.teams.isEmpty then none else some out }
  enterContext s pn inn

/-- No cohort of the partition stands in the shadow, and every user team has settled (15 R328, R329). -/
def exchangeReady (s : State) (pn : Nat) : Bool :=
  !(s.cohorts.any fun e => e.2.gid / 65536 == pn && e.2.place == .shadow) && (userTeams s pn).all fun e => settled s e.1

/-- CELLAR_EXCHANGE_COMPLETE. -/
def execCellarExchangeComplete (pnum : Nat) (s : State) : Out :=
  .next <| match waitingPath s pnum fun w => w == .exchange with
    | some (pi, _) => if exchangeReady s pnum then (exchange s pnum).resume (supKey pnum) pi else s
    | none => s

/-- The bytes of an image (15 R328; log 9). -/
def imageBytes (k : Nat) : List Byte := (List.range (65536 * Config.celUnits)).map (Config.imageByte k)

/-- The end of a drain or fill: BUSY falls, and ERR rises after a fault. -/
def cellarDone (s : State) (pn : Nat) (err : Bool) (c : Option Context) : State :=
  s.modPart pn fun p =>
    { (if err then p.setReg 0x0F (p.reg 0x0F ||| 8) else p) with cellarOp := 0, cellar := c }

/-- CELLAR_DRAIN_COMPLETE: the context has gone to memory, or a fault leaves it where it was (15 R328). -/
def execCellarDrainComplete (pnum : Nat) (s : State) : Out :=
  .next <| match (s.part pnum).cellar with
    | none => s
    | some c =>
      if (s.part pnum).cellarOp ≠ 1 then s
      else
        let n := s.fresh
        match vwrite { s with fresh := n + 1 } (supAgent s pnum) (s.part pnum).celBase.toNat (imageBytes n) with
        | .error (s, _) => cellarDone s pnum true (some c)
        | .ok s => cellarDone { s with images := kput s.images n c, away := s.away ++ [n] } pnum false none

/-- The context of an image is in a cellar of its partition again; in another's, where its teams cannot come in, it counts
as away still (15 R328; log 9). -/
def State.bringBack (s : State) (pn k : Nat) (c : Context) : State :=
  if c.teams.all fun e => e.1 / 65536 == pn then { s with away := s.away.filter fun n => n != k } else s

/-- n bytes that the engine of a partition's supervisor reads at a virtual address: a fault, or data with an uncorrectable
error, ends the read (15 R328). -/
def vreadClean (s : State) (pn va n : Nat) : Except State (State × List Byte) :=
  match vread s { supAgent s pn with team := some (supKey pn) } va n with
  | .error (s', _) => .error { s' with badReads := s.badReads }
  | .ok (s', bs) => if s'.badReads = s.badReads then .ok (s', bs) else .error { s' with badReads := s.badReads }

/-- CELLAR_FILL_COMPLETE: the context of the image that memory holds, whichever partition drained it on this module, or a
rejection (15 R328). -/
def execCellarFillComplete (pnum : Nat) (s : State) : Out :=
  .next <|
    if (s.part pnum).cellarOp ≠ 2 then s
    else
      match vreadClean s pnum (s.part pnum).celBase.toNat (65536 * Config.celUnits) with
      | .error s => cellarDone s pnum true none
      | .ok (s, bs) =>
        match s.images.find? fun e => imageBytes e.1 == bs with
        | some e => cellarDone (s.bringBack pnum e.1 e.2) pnum false (some e.2)
        | none => cellarDone s pnum true none

/-! ### tlbinv (15 R337, 17 R357) -/

/-- A TLB entry matches a selector of a partition. -/
def tlbMatches (pn : Nat) (sel : Dword) (key level : Nat) : Bool :=
  let w := sel.toNat
  let g := nbits key 36 16
  let unit := pageLog level - 16
  g / 8192 == pn && (nbit w 53 || g % 8192 == nbits w 0 13)
    && (nbit w 52 || nbits key 0 36 / 2 ^ unit == nbits w 16 36 / 2 ^ unit)

/-- tlbinv: the path waits until every memory die has removed the entries. -/
def execTlbinv (f : SA) (s : State) : Out :=
  privChecked s f.h (fun x => if nbits (x.t.zr f.a.toNat).toNat 54 10 ≠ 0 then some 0 else none) fun x =>
    s.park x (.waiting (.tlbinv (x.t.zr f.a.toNat))) f.h.s

/-- TLBINV_COMPLETE: the matching entries leave every TLB, and the path resumes. -/
def execTlbinvComplete (pnum : Nat) (s : State) : Out :=
  .next <| match waitingPath s pnum fun w => match w with
      | .tlbinv _ => true
      | _ => false with
    | some (pi, .tlbinv sel) =>
      { s with tlb := s.tlb.filter fun e => !tlbMatches pnum sel e.1 e.2.2 }.resume (supKey pnum) pi
    | _ => s

/-! ### Debugger holds (18 R389) -/

/-- The paths of a team that a word of dbgh or dbgr names. -/
def namedPaths (t : Team) (w : Word) : List (Nat × Path) :=
  t.paths.filter fun e => nbit w.toNat 22 || e.1 == nbits w.toNat 16 6

/-- A path's hold is set or cleared; a change is recorded in the catalogue. -/
def setHold (s : State) (tk : Nat) (t : Team) (hold : Bool) (e : Nat × Path) : State :=
  if e.2.hold = hold then s
  else
    catWrite (s.modPath tk e.1 fun p => { p with hold := hold }) (pnumOf tk) (if hold then 4 else 5) 0 (tidOf tk) e.1
      (t.gid % 65536) e.2.pc (catMask e.2.mask)

/-- The effect of dbgh or dbgr on a live team; dbgr may name the supervisor, whose paths a brk has held or its trap handler
holds (05 R143, 15 R336; log 25). -/
def holdNamed (s : State) (pn : Nat) (w : Word) (hold : Bool) : State :=
  match (s.team (pn * 65536 + nbits w.toNat 0 16)).filter fun t => t.live with
  | none => s
  | some t => (namedPaths t w).foldl (fun s e => setHold s (pn * 65536 + nbits w.toNat 0 16) t hold e) s

/-- dbgh: reserved bits, and the supervisor's own TID, raise subcode 0 (15 R336). -/
def execDbgh (f : SA) (s : State) : Out :=
  privChecked s f.h
    (fun x => let w := (x.t.sr f.a.toNat).toNat
      if nbits w 23 9 ≠ 0 ∨ nbits w 0 16 = 0 then some 0 else none)
    fun x => (holdNamed s (pnumOf x.tk) (x.t.sr f.a.toNat) true).pass x 4 f.h.s

/-- dbgr (15 R336). -/
def execDbgr (f : SA) (s : State) : Out :=
  privChecked s f.h (fun x => if nbits (x.t.sr f.a.toNat).toNat 23 9 ≠ 0 then some 0 else none)
    fun x => (holdNamed s (pnumOf x.tk) (x.t.sr f.a.toNat) false).pass x 4 f.h.s

/-! ### The rest (15 R334, R336, 16 R356, 18 R390) -/

/-- wdog: the supervisor check starts again (15 R334). -/
def execWdog (h : Hdr) (s : State) : Out :=
  privShort s h fun s x => s.modPart (pnumOf x.tk) fun p => { p with wdogAt := s.clock }

/-- hint: code 2 delivers the fault batch, code 3 starts the drain of swapped-out cohorts; placement is tried at every
placement event, so code 1 asks for nothing more (16 R356). -/
def execHint (f : SA) (s : State) : Out :=
  privShort s f.h fun s x =>
    let pn := pnumOf x.tk
    match nbits (x.t.sr f.a.toNat).toNat 0 8 with
    | 2 => if (s.part pn).batch.isEmpty then s else deliverBatch s pn
    | 3 =>
      { s with cohorts := s.cohorts.map fun (e : Nat × Cohort) =>
          if e.2.gid / 65536 = pn ∧ e.2.place = .shadow then (e.1, { e.2 with draining := true }) else e }
    | _ => s

/-- catw: a software record of the supervisor (18 R391). -/
def execCatw (f : SA) (s : State) : Out :=
  privShort s f.h fun s x =>
    catWrite s (pnumOf x.tk) 6 0 0 x.pi 0 x.path.pc ((x.t.sr f.a.toNat).setWidth 64)

end Sys2Proof.Machine
end

