-- ==== Sys2Proof/Machine/Raster.lean ====
section
/-!
DEFINITION. The raster instruction (12 R306-R308) and the ring queues (12 R309-R311).
-/
namespace Sys2Proof.Machine

/-! ### rast (12 R306) -/

/-- The eleven operands from s(a) on: the vertices signed, then origin, first index, base low and high, size. -/
structure RastArgs where
  verts : List Int
  ox : Nat
  oy : Nat
  first : Nat
  base : Nat
  width : Nat
  height : Nat
  /-- the active lanes of the issuing path -/
  mask : Nat
  deriving DecidableEq, Repr

/-- The words of the operands. -/
def rastOf (w : List Nat) (mask : Nat) : RastArgs :=
  let g (k : Nat) := w.getD k 0
  { verts := (List.range 6).map fun k => sintN 32 (g k), ox := nbits (g 6) 0 16, oy := nbits (g 6) 16 16, first := g 7,
    base := g 8 + 2 ^ 32 * g 9, width := nbits (g 10) 0 16, height := nbits (g 10) 16 16, mask := mask }

/-- The byte of the rate image for a tile, as its address (12 R306). -/
def RastArgs.rateAt (r : RastArgs) : Nat := r.base + r.oy / 16 * ceilDiv r.width 16 + r.ox / 16

/-- The first failing check: cause, subcode and address. 12 R306 and one row of R312 give cause 0x18, subcode 5, to a
non-canonical rate-image base, and another row of R312 gives 0x09: the model takes 0x18 for the base, and 0x09 where the byte's
address, formed from a canonical base, is past the canonical range (DESIGN CHOICE, log 51). Of several operands out of range
the vertices come first, then the origin and the size, the first index and the base: R306 gives no order (DESIGN CHOICE,
log 54). -/
def RastArgs.check (r : RastArgs) : Option (Nat × Nat × Nat) :=
  if r.verts.any fun v => decide (v < -8388608 ∨ 8388607 < v) then some (0x18, 0, 0)
  else if r.ox % 16 ≠ 0 ∨ r.oy % 16 ≠ 0 ∨ r.width = 0 ∨ r.height = 0 then some (0x18, 1, 0)
  else if 256 ≤ r.first then some (0x18, 2, 0)
  else if !canonicalVa (BitVec.ofNat 64 r.base) then some (0x18, 5, r.base)
  else if r.base ≠ 0 ∧ !inRange r.rateAt 1 then some (0x09, 0, r.rateAt)
  else none

/-- rast: its operands are read and checked, and the command handed to the rasteriser. -/
def execRast (f : UN) (s : State) : Out :=
  withIssuer s fun x =>
    match x.elected f.h with
    | none => s.pass x 4 f.h.s
    | some lane =>
      let ws := (List.range 11).map fun k => (x.t.sr (f.a.toNat + k)).toNat
      match (rastOf ws x.path.mask.toNat).check with
      | some (cause, sub, addr) => trapElected s x cause sub (BitVec.ofNat 64 addr) lane
      | none =>
        issueCmd s x FR { kind := kindLayer + 3, sub := 0, lane := lane, args := f.d.toNat :: x.path.mask.toNat :: ws, bytes := [],
                          lanes := [], token := false } f.h.s

/-! ### Coverage and barycentrics (12 R307, R308) -/

/-- Vertex k. -/
def RastArgs.vert (r : RastArgs) (k : Nat) : Int × Int := (r.verts.getD (2 * k) 0, r.verts.getD (2 * k + 1) 0)

/-- The edge function of the edge from vertex i to vertex j at a point. -/
def RastArgs.edge (r : RastArgs) (i j : Nat) (p : Int × Int) : Int :=
  let a := r.vert i
  let b := r.vert j
  (b.1 - a.1) * (p.2 - a.2) - (b.2 - a.2) * (p.1 - a.1)

/-- A: twice the signed area. -/
def RastArgs.area (r : RastArgs) : Int := r.edge 0 1 (r.vert 2)

/-- The ends of the edge opposite vertex k. -/
def opposite (k : Nat) : Nat × Nat := if k = 0 then (1, 2) else if k = 1 then (2, 0) else (0, 1)

/-- e k at a point. -/
def RastArgs.bary (r : RastArgs) (k : Nat) (p : Int × Int) : Int :=
  r.area.sign * r.edge (opposite k).1 (opposite k).2 p

/-- The top-left rule admits the edge opposite vertex k. -/
def RastArgs.admits (r : RastArgs) (k : Nat) : Bool :=
  let a := r.vert (opposite k).1
  let b := r.vert (opposite k).2
  let dx := -(r.area.sign * (b.2 - a.2))
  let dy := r.area.sign * (b.1 - a.1)
  decide (0 < dx) || (dx == 0 && decide (0 < dy))

/-- A fine pixel is covered. -/
def RastArgs.covers (r : RastArgs) (px py : Nat) : Bool :=
  r.area != 0 && decide (px < r.width ∧ py < r.height) && (List.range 3).all fun k =>
    let e := r.bary k (256 * px + 128, 256 * py + 128)
    decide (0 < e) || (e == 0 && r.admits k)

/-- The fine mask of a coarse pixel of factor g. -/
def RastArgs.fineMask (r : RastArgs) (g cx cy : Nat) : Nat :=
  ((List.range g).map fun w =>
    ((List.range g).map fun u => if r.covers (cx + u) (cy + w) then 2 ^ (u + 4 * w) else 0).sum).sum

/-- b k at a coarse pixel's centre, rounded once to FP32; 0 when A = 0. -/
def RastArgs.weight (r : RastArgs) (g cx cy k : Nat) : Nat :=
  let e := r.bary k (256 * cx + 128 * g, 256 * cy + 128 * g)
  if r.area = 0 then 0
  else (FFmt.f32.deliver 0 (exactDiv 23 (.num (decide (e < 0)) e.natAbs 0) (.num false r.area.natAbs 0))).1

/-- The five words of a lane at rate code rate. -/
def RastArgs.lane (r : RastArgs) (rate l : Nat) : List Nat :=
  let g := 2 ^ rate
  let n := 16 / g
  let i := r.first + l
  if n * n ≤ i then [0, 0, 0, 0, 0]
  else
    let cx := r.ox + g * (i % n)
    let cy := r.oy + g * (i / n)
    let m := r.fineMask g cx cy
    [m + (if m = 0 then 0 else 2 ^ 16) + rate * 2 ^ 17, r.weight g cx cy 0, r.weight g cx cy 1, r.weight g cx cy 2,
      cx % 65536 + cy % 65536 * 65536]

/-- The register writes of every active lane. -/
def RastArgs.writes (r : RastArgs) (q rate width : Nat) : List RegWrite :=
  (lanesOf width (BitVec.ofNat 1024 r.mask)).flatMap fun l =>
    (r.lane rate l).zipIdx.map fun e => RegWrite.v (q + e.2) l (BitVec.ofNat 32 e.1)

/-- The arguments of a rast command. -/
def Cmd.rast (c : Cmd) : RastArgs := rastOf (c.args.drop 2) (c.args.getD 1 0)

/-- A rast command performed: its writes, or the rate byte's fault or trap (12 R306). -/
def rastRun (s : State) (c : Cmd) (t : Team) : EngineRun :=
  let r := c.rast
  let finish (s : State) (rate : Nat) : EngineRun :=
    .done (s.modTeam c.tk fun t => t.writes (r.writes (c.args.getD 0 0) rate t.width)) 0
  if r.base = 0 then finish s 0
  else
    match vread s (cmdAgent s c t) r.rateAt 1 with
    | .error (s, cause, sub, addr) => .stopped s 0 0 cause sub addr 1
    | .ok (s, bs) => if 2 < byteAt bs 0 then .failed s 0x18 3 r.rateAt else finish s (byteAt bs 0)

/-! ### Ring queues (12 R309-R311) -/

/-- The key of ring n of a partition's set (12 R309, 15 R317). -/
def ringKey (s : State) (pn n : Nat) : Nat := (s.part pn).ringbase.toNat + n
/-- A ring by its key. -/
def State.ring (s : State) (k : Nat) : Ring := dget Ring.empty s.rings k
/-- Change a ring. -/
def State.modRing (s : State) (k : Nat) (f : Ring → Ring) : State :=
  { s with rings := dput Ring.empty s.rings k (f (s.ring k)) }

/-- Entries in a ring. -/
def Ring.count (r : Ring) : Nat := (r.push - r.pop).toNat

/-- The blocking commands of a kind that are outstanding at a ring. -/
def ringLoad (s : State) (kind key : Nat) : Nat :=
  (s.cmds.filter fun c => c.kind == kind && c.sub == 0 && c.args.getD 0 0 == key).length

/-- The checks of a ring command at issue: cause, subcode, address (12 R310). -/
def ringCheck (s : State) (pn : Nat) (scratch : Nat) (sel off : Word) : Option (Nat × Nat × Nat) :=
  if 256 ≤ sel.toNat then some (0x19, 1, 0)
  else if (s.part pn).rings.toNat ≤ sel.toNat then some (0x19, 0, 0)
  else if off.toNat % 64 ≠ 0 then some (0x08, 0, off.toNat)
  else if scratch < off.toNat + 64 then some (0x0C, 0, off.toNat)
  else none

/-- A ring command of the issuing path: fn 4 push, 5 pop; sub 1 the try form, which writes s[d]. -/
def ringOp (s : State) (h : Hdr) (fn sub a d : Nat) : Out :=
  withIssuer s fun x =>
    match x.elected h with
    | none => s.pass x 4 h.s
    | some lane =>
      let sel := x.t.sr a
      let off := x.t.sr (a + 1)
      match ringCheck s (pnumOf x.tk) x.t.scratch sel off with
      | some (c, e, addr) => trapElected s x c e (BitVec.ofNat 64 addr) lane
      | none =>
        let key := ringKey s (pnumOf x.tk) sel.toNat
        if sub = 0 ∧ 64 ≤ ringLoad s (kindLayer + fn) key then s.stall
        else
          issueCmd s x FR { kind := kindLayer + fn, sub := sub, lane := lane, args := [key, off.toNat, d], bytes := [], lanes := [],
                            token := false } h.s

/-- qpush (12 R310). -/
def execQpush (f : UA) (s : State) : Out := ringOp s f.h 4 0 f.a.toNat 0
/-- qpush.try (12 R310). -/
def execQpushTry (f : UN) (s : State) : Out := ringOp s f.h 4 1 f.a.toNat f.d.toNat
/-- qpop (12 R310). -/
def execQpop (f : UA) (s : State) : Out := ringOp s f.h 5 0 f.a.toNat 0
/-- qpop.try (12 R310). -/
def execQpopTry (f : UN) (s : State) : Out := ringOp s f.h 5 1 f.a.toNat f.d.toNat

/-- The command pushes. -/
def Cmd.pushes (c : Cmd) : Bool := c.kind == kindLayer + 4

/-- The waiting commands of a kind at a ring. -/
def Ring.waiters (r : Ring) (push : Bool) : List Nat := if push then r.pushers else r.poppers

/-- The ring has room for a push, or an entry for a pop. -/
def Ring.serves (r : Ring) (push : Bool) : Bool := if push then decide (r.count < 64) else decide (0 < r.count)

/-- An entry is moved: into slot P mod 64, or out of slot Q mod 64; the try form reports 1 (12 R310). -/
def ringMove (s : State) (c : Cmd) : State :=
  let key := c.args.getD 0 0
  let off := c.args.getD 1 0
  let r := s.ring key
  let out := fun (q : Ring) => { q with pushers := q.pushers.erase c.id, poppers := q.poppers.erase c.id }
  let s := if c.pushes then
      let e := scrRead s c.tk off 64
      s.modRing key fun r => { out r with slots := kput r.slots (r.push.toNat % 64) e, push := r.push + 1 }
    else
      let e := (klook r.slots (r.pop.toNat % 64)).getD []
      (scrWrite s c.tk off e).modRing key fun r => { out r with slots := kdel r.slots (r.pop.toNat % 64), pop := r.pop + 1 }
  completeCmd s c (if c.sub = 1 then [.s (c.args.getD 2 0) 1] else []) 0

/-- No older command of the team on this ring has yet to reach it (12 R310). -/
def ringArrives (s : State) (c : Cmd) : Bool :=
  !(s.cmds.any fun d => d.tk == c.tk && (d.kind == kindLayer + 4 || d.kind == kindLayer + 5) && !d.started
    && d.args.getD 0 0 == c.args.getD 0 0 && decide (d.seq < c.seq))

/-- A command reaches its ring: it is performed, fails if it is a try, or waits (12 R310). A waiting command of a halted team
counts as waiting, for a try of another team too (DESIGN CHOICE, log 55). -/
def ringReach (s : State) (c : Cmd) : State :=
  let key := c.args.getD 0 0
  let r := s.ring key
  if r.serves c.pushes && (r.waiters c.pushes).isEmpty then ringMove s c
  else if c.sub = 1 then completeCmd s c [.s (c.args.getD 2 0) 0] 0
  else
    (s.modCmd c.id fun d => { d with started := true }).modRing key fun r =>
      if c.pushes then { r with pushers := r.pushers ++ [c.id] } else { r with poppers := r.poppers ++ [c.id] }

/-- The first waiting command of a kind whose team may proceed: one of a halted team lets those behind it pass, since 12 R310
and R311 speak of no halt but the partition's (15 R325; DESIGN CHOICE, log 55). -/
def ringHead (s : State) (key : Nat) (push : Bool) : Option Nat :=
  ((s.ring key).waiters push).find? fun i => match s.cmd i with
    | some c => (cmdTeam s c).isSome
    | none => false

/-- RING_COMMAND_PERFORM: a command reaches its ring, or the first waiting one of its kind is performed once there is
room or an entry (12 R310). -/
def execRingCommandPerform (cmd : Nat) (s : State) : Out :=
  .next <| match eventCmd s cmd with
    | none => s
    | some (c, _) =>
      if c.kind ≠ kindLayer + 4 ∧ c.kind ≠ kindLayer + 5 then s
      else if !c.started then (if ringArrives s c then ringReach s c else s)
      else if (s.ring (c.args.getD 0 0)).serves c.pushes ∧ ringHead s (c.args.getD 0 0) c.pushes = some c.id then ringMove s c
      else s

end Sys2Proof.Machine
end

