-- ==== Sys2Proof/Machine/Async.lean ====
section
/-!
DEFINITION. What comes about without an instruction: results and completions (02 R53-R57), token grants (16 R347, R348, 20
R407), fault reports (07 R178) and the supervisor's engine traps (19 R398), breakpoints (18 R388), swaps of cohorts (02
R41, 15 R329), the counts (15 R333, R334), uncorrectable errors (15 R335, 20 R421), page moves (17 R375-R377).
-/
namespace Sys2Proof.Machine

/-! ### Results and completions (02 R53-R57) -/

/-- LONG_RESULT_RETURN: the k-th result in flight of a team returns, for one lane or whole (02 R53). -/
def execLongResultReturn (tk k : Nat) (lane : Option Nat) (s : State) : Out :=
  .next (cohortTry (s.modTeam tk fun t => t.returnLong k lane) tk)

/-- The commands that ASYNC_COMPLETION performs: leaf copies and rasterisations. -/
def runOf (c : Cmd) : Option (State → Cmd → Team → EngineRun) :=
  if c.kind = kindVol + 2 then some leafCopyRun else if c.kind = kindLayer + 3 then some rastRun else none

/-- An operation can complete: all of it has been performed and is back, or its one command can be performed now. -/
def opReady (s : State) (t : Team) (o : AsyncOp) : Bool :=
  t.opSettled o.id && !o.done && match s.cmds.find? fun c => c.op == o.id with
    | none => true
    | some c => (runOf c).isSome && (eventCmd s c.id).isSome

/-- An operation leaves its counter, and what waits for that goes on; with a vdel go the traces of the leaves that it has
unlinked, and with a vins those of the leaves whose slots it has taken (02 R56, R57, R59; 10 R270). -/
def endOp (s : State) (tk id : Nat) : State :=
  let ghosts := s.ghosts.filter fun g => !(g.tk == tk && g.op == id) && g.reused != some (tk, id)
  cohortTry ({ s with ghosts := ghosts }.modTeam tk fun t => t.finishOp id) tk

/-- An operation completes, or its command meets a fault. -/
def completeOp (s : State) (tk : Nat) (o : AsyncOp) : State :=
  match s.cmds.find? fun c => c.op == o.id with
  | none => endOp s tk o.id
  | some c =>
    match runOf c, eventCmd s c.id with
    | some run, some (_, t) =>
      match run s c t with
      | .stopped _ _ _ _ _ _ _ => stopRun s c.id run
      | _ => completeRun s c.id run
    | _, _ => s

/-- ASYNC_COMPLETION: the oldest operation of a path that can complete does (02 R56). -/
def execAsyncCompletion (tk apath : Nat) (s : State) : Out :=
  .next <| match s.team tk with
    | none => s
    | some t =>
      match (t.ops.filter fun o => o.apath == apath).find? (opReady s t) with
      | some o => completeOp s tk o
      | none => s

/-- FENCE_COMPLETE. -/
def execFenceComplete (tk path : Nat) (s : State) : Out := .next (fenceDone s tk path)

/-- WAITC_REREAD. -/
def execWaitcReread (tk : Nat) (s : State) : Out := .next (waitcReread s tk)

/-- ICACHE_FILL. -/
def execIcacheFill (k : Nat) (s : State) : Out := .next (fillReturn s k)

/-! ### Power tokens (16 R347, R348; 20 R407) -/

/-- The power limit in force, in watts (20 R407). -/
def wattsInForce (s : State) : Nat := if s.host.fallback then s.host.fbCap.toNat else min s.host.pwrcap.toNat 2900

/-- The size of the token pool (20 R407). -/
def tokenPool (s : State) : Nat := 512 * wattsInForce s / 2900

/-- Tokens held by the whole module. -/
def tokensHeld (s : State) : Nat := (s.parts.map fun e => e.2.tokenHeld).sum

/-- The cap of a partition: the lesser of LIMIT and ALLOT (16 R347). -/
def tokenCap (p : Part) : Nat := min (min (nbits (p.reg 0x40).toNat 0 10) 512) p.allot.toNat

/-- A grant may be made (16 R347, 20 R407). Tokens are counted for each partition and for the module, as these rules have it,
where 09 R233 speaks of the die's pool (DEDUCED, log 55). -/
def mayGrant (s : State) (pn : Nat) : Bool :=
  decide ((s.part pn).tokenHeld < tokenCap (s.part pn)) && decide (tokensHeld s < tokenPool s)

/-- POWER_TOKEN_GRANT: the oldest request of the partition gets a token (16 R348). -/
def execPowerTokenGrant (pnum : Nat) (s : State) : Out :=
  .next <| match (s.part pnum).tokenReqs with
    | [] => s
    | r :: rest =>
      if !mayGrant s pnum then s
      else
        let s := s.modPart pnum fun p => { p with tokenReqs := rest, tokenHeld := p.tokenHeld + 1 }
        if r.1 then s.modCmd r.2 fun c => { c with token := true, asked := false }
        else s.modTeam r.2 fun t => { t with token := true, tokenAsked := false }

/-! ### Fault reports and traps (07 R178, 19 R398, 18 R388) -/

/-- The path waits at the access that has faulted: a launch block, a waitc read or an instruction fetch. -/
def Access.holdsPath : Access → Bool
  | .launch => true
  | .waitc _ _ _ => true
  | .fetch => true
  | _ => false

/-- FAULT_REPORT_ARRIVAL: the k-th entry of a team's replay state is known to its core; a path that waits at the access is
faulted now, any other at its next issue attempt (07 R178). -/
def execFaultReportArrival (tk k : Nat) (s : State) : Out :=
  .next <| s.modTeam tk fun t =>
    match t.replay[k]? with
    | none => t
    | some r =>
      let t := { t with replay := setAt t.replay k { r with reported := true } }
      if r.access.holdsPath then t.modPath r.path fun p => { p with st := .faulted } else t

/-- The path that takes the trap of an engine command: the issuing one, or the lowest when that is gone. -/
def Team.trapPath (t : Team) (pi : Nat) : Option (Nat × Path) :=
  match t.path pi with
  | some p => some (pi, p)
  | none => t.paths.head?

/-- Every wait of the supervisor's path, and of the team, is abandoned (19 R398). -/
def abandonWait (s : State) (tk : Nat) : State :=
  { s.modTeam tk fun t => { t with wait := .none } with
    waits := s.waits.filter fun w => w.who != .team tk }

/-- A command that a trap has ended goes: its flags are in FST, and its operation leaves its counter when nothing else of
it is outstanding (19 R398). -/
def endCommand (s : State) (tk : Nat) (c : Cmd) : State :=
  let s := { s with cmds := s.cmds.filter fun d => d.id != c.id }.modTeam tk fun t => t.orFst c.flags
  match s.team tk with
  | none => s
  | some t => if (s.cmds.any fun d => d.tk == tk && d.op == c.op) || !t.opSettled c.op then s else endOp s tk c.op

/-- A command whose traps have all been taken and that one of them has ended is outstanding no more (19 R398). -/
def endTrapped (s : State) (pn id : Nat) : State :=
  match s.cmd id with
  | some c =>
    if c.kind = kindEnded ∧ !((s.part pn).svPending.any fun e => e.1 == id) then endCommand s (supKey pn) c else s
  | none => s

/-- The trap of a supervisor's engine command is taken, at the instruction at which the path that issued it stands now. A
supervisor all of whose paths have exited has none to take it: the trap is dropped, which is the model's choice
(19 R398; log 51). -/
def takeEngineTrap (s : State) (pn : Nat) (t : Team) (id : Nat) (tr : Trap) : State :=
  match t.trapPath (((s.cmd id).map Cmd.path).getD tr.path) with
  | none => s
  | some (pi, q) => supervisorTrap (abandonWait s (supKey pn)) (supKey pn) pi tr.cause tr.sub q.pc tr.addr

/-- SUPERVISOR_ENGINE_FAULT: the oldest waiting trap of a supervisor's engine command is taken, and the command ends if it
has none left and a trap has ended it (19 R398). -/
def execSupervisorEngineFault (cmd : Nat) (s : State) : Out :=
  .next <| match s.parts.find? fun e => e.2.svPending.any fun p => p.1 == cmd with
    | none => s
    | some (pn, p) =>
      match p.svPending.find? fun e => e.1 == cmd, s.team (supKey pn) with
      | some e, some t =>
        let s := s.modPart pn fun p => { p with svPending := p.svPending.erase e }
        if t.halted then s else endTrapped (takeEngineTrap s pn t cmd e.2) pn cmd
      | _, _ => s

/-- BREAKPOINT_STOP: the path that the team's issue slot chooses stops at a breakpoint, if one is there (18 R388). -/
def execBreakpointStop (tk : Nat) (s : State) : Out :=
  .next <| match chooseIssuer s tk with
    | (_, none) => s
    | (s', some x) =>
      match bpHit s' x with
      | some n => bpStop s' x n
      | none => s

/-! ### Swapping cohorts (02 R41, 15 R329) -/

/-- The live teams of a cohort. -/
def cohortTeams (s : State) (c : Cohort) : List (Nat × Team) :=
  (c.teams.filterMap fun k => (s.team k).map fun t => (k, t)).filter fun e => e.2.live

/-- The cores that a cohort's teams stand on. -/
def cohortCores (s : State) (c : Cohort) : List Nat := c.teams.filterMap fun k => (s.team k).map Team.core

/-- A team is parked by waitc. -/
def Team.atWaitc (t : Team) : Bool := match t.wait with
  | .waitc _ _ _ _ _ _ _ => true
  | _ => false

/-- Cohorts of a partition swapped out and not back. -/
def swappedOut (s : State) (pn : Nat) : List (Nat × Cohort) :=
  s.cohorts.filter fun e => e.2.gid / 65536 == pn && e.2.place != .resident

/-- The shadow of a cohort's cores is free: no other cohort stands there, and the cellar holds no context. A fill of the cellar
that is running does not count, and one that completes while a swapped-out cohort still stands in the shadow leaves both there
until the cohort has drained: 15 R329 speaks of neither (DESIGN CHOICE, log 54). -/
def shadowFree (s : State) (c : Cohort) : Bool :=
  (s.part (c.gid / 65536)).cellar.isNone
    && !(s.cohorts.any fun e => e.2.place == .shadow && (cohortCores s e.2).any fun k => (cohortCores s c).contains k)

/-- A cohort may be swapped out: each of its teams is parked by waitc or has retired (02 R41, 15 R329). What its teams
have outstanding goes on meanwhile (log 33). -/
def maySwapOut (s : State) (c : Cohort) : Bool :=
  let live := cohortTeams s c
  c.place == .resident && !live.isEmpty && (live.all fun e => e.2.atWaitc) && shadowFree s c
    && decide ((swappedOut s (c.gid / 65536)).length < nbits ((s.part (c.gid / 65536)).reg 0x28).toNat 0 16)

/-- COHORT_SWAP_OUT. -/
def execCohortSwapOut (cid : Nat) (s : State) : Out :=
  .next <| match klook s.cohorts cid with
    | none => s
    | some c =>
      if maySwapOut s c then
        { s with cohorts := kmod s.cohorts cid fun c => { c with place := .shadow, draining := true } }
      else s

/-- The bytes of a swapped-out cohort in its slot of the swap area: their number and values are not architected, and at most
a slot of 16 MiB is written (17 R371; log 9). -/
def swapBytes (k : Nat) : List Byte := (List.range (min Config.swapLength 16777216)).map (Config.imageByte k)

/-- COHORT_DRAIN_COMPLETE: the cohort's state is written to the lowest free slot of the swap area, and its shadow is free;
while a write of it faults, it stays in the shadow (15 R329, 17 R371; log 33). -/
def execCohortDrainComplete (cid : Nat) (s : State) : Out :=
  .next <| match klook s.cohorts cid with
    | none => s
    | some c =>
      if c.place = .shadow ∧ c.draining then
        let used := (swappedOut s (c.gid / 65536)).filterMap fun e => match e.2.place with
          | .drained n => some n
          | _ => none
        let slot := lowestFree used 65536 0
        let pn := c.gid / 65536
        match vwrite { s with fresh := s.fresh + 1 } (supAgent s pn) ((s.part pn).reg64 0x26 + 16777216 * slot)
            (swapBytes s.fresh) with
        | .error (s, _) => s
        | .ok s => { s with cohorts := kmod s.cohorts cid fun c => { c with place := .drained slot, draining := false } }
      else s

/-- A wake has come for one of the cohort's teams. -/
def cohortWoken (s : State) (c : Cohort) : Bool :=
  (cohortTeams s c).any fun e => match e.2.wait with
    | .waitc _ _ _ _ _ _ woken => woken
    | _ => false

/-- Where a swapped-out cohort fits on its die: by the search of 16 R345 from the processor's pointer, which does not move,
whether or not a head cohort waits there, and with room for its retired teams too. The spec says only that the cohort is
restored (02 R41, 15 R329; DESIGN CHOICE, log 53). -/
def swapInFit (s : State) (c : Cohort) : Option (Nat × Option Nat × List Resv) :=
  match s.grid c.gid with
  | none => none
  | some g =>
    let pn := c.gid / 65536
    findSpan s (s.part pn).halves c.die (((klook (s.part pn).procs c.die).map Proc.ptr).getD 0) g.lpb c.teams.length

/-- The wait-on-address entries of teams are removed, each with a wake (07 R194). -/
def wakeTeams (s : State) (tks : List Nat) : State :=
  tks.foldl (fun s tk => deliverWake s (.team tk)) { s with waits := s.waits.filter fun w => !waiterOf tks w }

/-- COHORT_SWAP_IN: a woken cohort is restored where it fits, and every team of it at waitc is woken with it (02 R41, 07 R194,
15 R329). -/
def execCohortSwapIn (cid : Nat) (s : State) : Out :=
  .next <| match klook s.cohorts cid with
    | none => s
    | some c =>
      if c.place = .resident ∨ !cohortWoken s c then s
      else
        match swapInFit s c with
        | none => s
        | some (cluster, block, rs) =>
          let s := wakeTeams ((c.teams.zip rs).foldl (fun (s : State) (e : Nat × Resv) => s.modTeam e.1 fun t => t.at_ e.2) s) c.teams
          { s with cohorts := kmod s.cohorts cid fun c =>
              { c with place := .resident, draining := false, cluster := cluster, block := block } }

/-! ### Counts (15 R333, R334) -/

/-- A count of a team has expired: its cohort is halted and the trap queued, standing in the team (15 R333). -/
def expire (s : State) (tk cause : Nat) : State :=
  match s.team tk with
  | none => s
  | some t =>
    let s := haltTeams s ((cohortLive s tk t).map Prod.fst)
    let tr := mkTrap s t cause 0 0 0 0xFF 0 2 0
    recordTrap (s.modTeam tk fun t => { t with expired := t.expired ++ [tr] }) tk t tr

/-- A limit of a team's counts has been reached: the register's limit, 0 when disabled, in units of 1,024 clocks. -/
def countReached (s : State) (tk reg : Nat) (count : Nat) : Bool :=
  let lim := ((s.part (pnumOf tk)).reg reg).toNat
  lim != 0 && decide (lim * 1024 ≤ count)

/-- A count of a live user team has reached its limit and its trap does not stand yet; the team may be halted, which
does not stop the fault-stall count (15 R333). -/
def countExpires (s : State) (tk : Nat) (t : Team) (cause reg count : Nat) : Bool :=
  t.live && !t.sup && !t.hasExpired cause && countReached s tk reg count

/-- WATCHDOG_EXPIRY: WDCNT has reached WDLIM (15 R333). -/
def execWatchdogExpiry (tk : Nat) (s : State) : Out :=
  .next <| match s.team tk with
    | none => s
    | some t =>
      if countExpires s tk t 0x1B 0x10 t.wdcnt then expire s tk 0x1B else s

/-- FAULT_STALL_EXPIRY: the fault-stall count has reached FSLIM (15 R333). -/
def execFaultStallExpiry (tk : Nat) (s : State) : Out :=
  .next <| match s.team tk with
    | none => s
    | some t =>
      if countExpires s tk t 0x1C 0x11 t.fscnt then expire s tk 0x1C else s

/-- The supervisor's check is due (15 R334). -/
def svCheckDue (s : State) (pn : Nat) : Bool :=
  let lim := ((s.part pn).reg 0x12).toNat
  lim != 0 && hasSupervisor s pn && decide ((s.part pn).wdogAt + lim * 1024 ≤ s.clock)

/-- SUPERVISOR_WATCHDOG_EXPIRY: the host is alerted, and the supervisor continues (15 R334, 20 R403). -/
def execSupervisorWatchdogExpiry (pnum : Nat) (s : State) : Out :=
  .next (if svCheckDue s pnum then (setAlert s 5).modPart pnum fun p => { p with wdogAt := s.clock } else s)

/-! ### Uncorrectable errors (15 R335, 20 R421) -/

/-- The cohort may be relaunched. -/
def Grid.mayRelaunch (g : Grid) : Bool := g.lpb.flags.getLsbD 0 && g.lpb.mode != 2 && decide (g.retry < 3)

/-- One cohort is ended and leaves the device with its reservations. -/
def endCohort (s : State) (cid : Nat) : State :=
  match klook s.cohorts cid with
  | none => s
  | some c =>
    let s := c.teams.foldl endTeam s
    { s with teams := s.teams.filter fun e => !c.teams.contains e.1, cohorts := kdel s.cohorts cid }

/-- The trap record of an uncorrectable error, which the device has already acted on: cause 0x1A with FL.HANDLED, naming no
path and no lane (15 R335, R338; 18 R378, R381). -/
def errorTrap (s : State) (tk : Nat) (t : Team) (addr : Dword) : State :=
  let tr := mkTrap s t 0x1A 0 0 addr 0xFF 0 4 0
  tqDeliver { s with nextTrap := s.nextTrap + 1 } (pnumOf tk) (trapRecord 1 tk t tr)

/-- After the end of a cohort by an error, which COUNT counts: its index is placed again, or its grid ends with cause 0x1A,
counting the cohorts that hold a standing trap as well (15 R335, 02 R33, 18 R383). -/
def relaunchOrEnd (s : State) (t : Team) (die : Nat) (addr : Dword) : State :=
  match s.grid t.gid with
  | none => s
  | some g =>
    if g.mayRelaunch then
      s.modGrid t.gid fun g =>
        { g with retry := g.retry + 1, errCount := g.errCount + 1, unplaced := g.unplaced ++ [(die, t.cohort)] }
    else
      let e : ErrInfo := { cause := 0x1A, cohort := t.cohort, pc := 0, addr := addr, team := t.team, lane := 0xFFFF }
      endGrids s (familyOf s t.gid) fun s i => if i = t.gid then (e, 1 + trappedCohorts s i) else gendInfo none 0 s i

/-- An uncorrectable error meets a user team on the device: its cohort ends at once. -/
def cohortError (s : State) (tk : Nat) (addr : Dword) : State :=
  match s.team tk with
  | none => s
  | some t =>
    match klook s.cohorts t.cid with
    | none => s
    | some c => relaunchOrEnd (endCohort (errorTrap s tk t addr) t.cid) t c.die addr

/-- An uncorrectable error during a drain or fill of a partition ends it with ERR (15 R328). -/
def cellarBroken (s : State) (pn : Nat) : State :=
  if (s.part pn).cellarOp = 0 then s else cellarDone s pn true (s.part pn).cellar

/-- An uncorrectable error meets a team whose context is in the cellar: its cohort leaves the cellar (15 R335). -/
def cellarError (s : State) (tk : Nat) (addr : Dword) : State :=
  let s := cellarBroken s (pnumOf tk)
  match (s.part (pnumOf tk)).cellar with
  | none => s
  | some x =>
    match klook x.teams tk with
    | none => s
    | some t =>
      match klook x.cohorts t.cid with
      | none => s
      | some c =>
        let s := forgetStored (errorTrap s tk t addr) c.teams (x.idsOf c.teams)
        let s := s.modPart (pnumOf tk) fun p => { p with cellar := some (x.dropTeams c.teams fun e => e.1 == t.cid) }
        relaunchOrEnd s t c.die addr

/-- An uncorrectable error in the supervisor's reservation fails it (15 R335). -/
def supervisorError (s : State) (pn : Nat) (t : Team) : State :=
  if hasSupervisor s pn then failSupervisor s pn 4 0 ((t.paths.head?.map fun e => e.2.pc).getD 0) else s

/-- STORAGE_UNCORRECTABLE_ERROR: an error in a team's reservation, state block or cellar image, at a space-3 address
(15 R335). -/
def execStorageUncorrectableError (tk : Nat) (addr : Dword) (s : State) : Out :=
  .next <| match s.team tk with
    | none => cellarError s tk addr
    | some t =>
      if t.sup then supervisorError s (pnumOf tk) t else cohortError s tk addr

/-- The address lies where a fill of the partition's cellar reads (15 R328). -/
def fillReads (s : State) (pn : Nat) (va : Dword) : Bool :=
  let p := s.part pn
  p.cellarOp == 2 && decide (p.celBase.toNat ≤ va.toNat) && decide (va.toNat < p.celBase.toNat + 65536 * Config.celUnits)

/-- A team's access has read data with an uncorrectable error: its cohort ends, the supervisor fails, and a fill of the
cellar that read it ends with ERR (20 R421, 15 R328, R335). -/
def readerError (s : State) (tk : Nat) (va : Dword) : State :=
  match s.team tk with
  | none => s
  | some t =>
    if !t.sup then cohortError s tk va
    else if fillReads s (pnumOf tk) va then cellarBroken s (pnumOf tk)
    else supervisorError s (pnumOf tk) t

/-- Every team noted as a reader of such data is dealt with, by ascending TID, and for one team in the order of its reads
(18 R382, 20 R421). -/
def endReaders (s : State) : State :=
  (sortBy Prod.fst s.badReads).foldl (fun s e => readerError s e.1 e.2) { s with badReads := [] }

/-- HBM_UNCORRECTABLE_ERROR: HBMERR and ALERT.HBMUE, and the data is poisoned from then on; the event may name a team whose
access is the one that finds it (20 R421). -/
def execHbmUncorrectableError (pa : Nat) (reader : Option (Nat × Dword)) (s : State) : Out :=
  .next <|
    let s := setAlert { s with host := { s.host with hbmerr := BitVec.ofNat 64 pa },
                               poison := if s.poison.contains pa then s.poison else s.poison ++ [pa] } 3
    match reader with
    | none => s
    | some (tk, va) => readerError s tk va

/-! ### Page moves (17 R375-R377, 20 R404) -/

/-- A move record's 10 ms have passed: it is removed and NC cleared (17 R377). -/
def expireMove (s : State) (r : MoveRec) : State :=
  if r.t0 + moveWindow ≤ s.clock then
    let s := { s with moves := s.moves.filter fun q => q != r }
    if 3 ≤ r.n then setNc s (r.gasid / 8192) (r.gasid % 8192) r.page false else s
  else s

/-- Every move record whose 10 ms have passed expires. -/
def expireMoves (s : State) : State := s.moves.foldl expireMove s

/-- MOVE_RECORD_EXPIRY of the k-th record (17 R377). -/
def execMoveRecordExpiry (k : Nat) (s : State) : Out :=
  .next <| match s.moves[k]? with
    | none => s
    | some r => expireMove s r

/-- A push ends: STAT, and the partition's vector fires (20 R402, R404). -/
def pushDone (s : State) (pn stat : Nat) : State :=
  fireVector (s.modPart pn fun p => { p with migStat := BitVec.ofNat 3 stat }) (1 + pn)

/-- A page's leaf when it can be pushed to a destination: striped, 64 KiB, MIG set, in device memory, to LOC 1 or 2
(17 R375, 20 R404). -/
def pushLeaf (s : State) (pn : Nat) (va dst : Dword) (asid : Nat) : Option Leaf :=
  let a : Agent := { supAgent s pn with asid := asid }
  match (regionLookup s a va.toNat).2, walk s pn asid none va.toNat with
  | none, .ok lf =>
    if lf.level = 0 ∧ pteMig lf.pte ∧ pteLoc lf.pte = 0 ∧ (pteLoc dst = 1 ∨ pteLoc dst = 2) then some lf else none
  | _, _ => none

/-- The move of a page to host or peer memory, with its frame returned to the pool: none when the push is refused
(17 R375, R376). One whose access to the pool faults is refused too: the spec names no outcome (DESIGN CHOICE, log 55). -/
def movePage (s : State) (pn : Nat) (lf : Leaf) (va dst : Dword) (asid : Nat) : Option State :=
  let gasid := pn * 8192 + asid
  let page := va.toNat / 65536
  match returnFrame s pn (pteFrame lf.pte) with
  | .error _ => none
  | .ok (_, false) => none
  | .ok (s, true) =>
    let s := flushPage s gasid page
    let s := copyPage s 0 (fun o => physOf none lf (page * 65536 + o)) (pteLoc dst) fun o => 65536 * pteFrame dst + o
    let s := deviceWrite s 0 lf.at_ (bytesOf 8 (writtenPte dst).toNat)
    some (noteMove (dropPageTlb s gasid page) (homeDie none (page * 65536)) gasid page)

/-- The end of a push that has been accepted: STAT and the state. -/
def pushEnd (s : State) (pn : Nat) (va dst : Dword) (asid : Nat) : Nat × State :=
  match pushLeaf s pn va dst asid with
  | none => (4, s)
  | some lf =>
    if moveSettles s (pn * 8192 + asid) (va.toNat / 65536) then (3, setNc s pn asid (va.toNat / 65536) true)
    else
      match movePage s pn lf va dst asid with
      | some s' => (2, s')
      | none => (4, s)

/-- MIGRATION_MOVE_COMPLETE: the push under way ends: moved, settled or refused (17 R375-R377, 20 R404). -/
def execMigrationMoveComplete (pnum : Nat) (s : State) : Out :=
  .next <| match (s.part pnum).migRun with
    | none => s
    | some (va, dst, asid) =>
      let r := pushEnd s pnum va dst asid
      pushDone (r.2.modPart pnum fun p => { p with migRun := none }) pnum r.1

end Sys2Proof.Machine
end

