-- ==== Sys2Proof/Machine/Partition.lean ====
section
/-!
DEFINITION. The partition map and the start and end of a partition (15 R317, R318), and the host's command queues (16
R339-R342, 20 R405).
-/
namespace Sys2Proof.Machine

/-! ### Starting and ending partitions (15 R317, R318) -/

/-- Two ring sets share a ring. -/
def ringsMeet (p q : Part) : Bool :=
  p.rings != 0 && q.rings != 0 && overlap p.ringbase.toNat p.rings.toNat q.ringbase.toNat q.rings.toNat

/-- ENABLE of an entry is refused (15 R317); in early service that of any but partition 0 with halves 0 and 1 is too
(20 R417). -/
def enableRefused (s : State) (pn : Nat) : Bool :=
  let p := s.part pn
  (p.halves == 0) || decide (256 < p.ringbase.toNat + p.rings.toNat)
    || (s.parts.any fun e => e.1 != pn && e.2.enable
        && ((e.2.halves &&& p.halves) != 0 || (e.2.arrays &&& p.arrays) != 0 || ringsMeet e.2 p))
    || (s.host.stage == 2 && (pn != 0 || p.halves != 3))

/-- The partition's registers and the state kept for it when it starts; the map entry and the host's own registers
stay (15 R318, R323). -/
def Part.started (p : Part) (clock : Nat) : Part :=
  { Part.reset with
    halves := p.halves, arrays := p.arrays, ringbase := p.ringbase, rings := p.rings, enable := true, svlpb := p.svlpb,
    wdogAt := clock, svFailed := p.svFailed, svCause := p.svCause, svPc := p.svPc, queues := p.queues, allot := p.allot,
    migVa := p.migVa, migDst := p.migDst, migStat := p.migStat, migAsid := p.migAsid, migRun := p.migRun }

/-- Every team, cohort and grid of a partition ends, with no error record and no completion increment (15 R318). -/
def endPartition (s : State) (pn : Nat) : State :=
  let tks := (s.teams.filter fun e => e.1 / 65536 == pn).map Prod.fst
  let s := dropStored (tks.foldl endTeam s) fun g => g / 65536 == pn
  { s with teams := s.teams.filter fun e => e.1 / 65536 != pn, cohorts := s.cohorts.filter fun e => e.2.gid / 65536 != pn,
           grids := s.grids.filter fun e => e.1 / 65536 != pn }

/-- The block of a supervisor is as R318 asks (15 R318, 02 R32). -/
def Lpb.supervisorOk (l : Lpb) : Bool :=
  l.valid && l.mode == 0 && l.mf 0 * l.mf 1 * l.mf 2 == 1 && l.teams == 1 && l.span == 1 && l.teamw == 32 && l.acct == 0

/-- The supervisor in its start state on core 0 of the lowest cluster of the lowest half; FLAGS bits 1 and 2 of its block
are its debug and profile bits (15 R318, 05 R141, 18 R386). -/
def supervisorTeam (pn half : Nat) (l : Lpb) : Team :=
  { launchTeam l with sup := true, debug := l.flags.getLsbD 1, profile := l.flags.getLsbD 2, gid := pn * 65536, core := 512 * (half / 2) + 256 * (half % 2) }

/-- The lowest half of a partition. -/
def lowestHalf (halves : BitVec 8) : Nat := ((List.range 8).find? fun h => halves.getLsbD h).getD 0

/-- The supervisor is placed from the block at SVLPB, a device physical address; a block that fails places nothing, which
the host reads as a failure (15 R318, 20 R404). So does, by the model's choice, a block that early service cannot reach
(20 R417; DESIGN CHOICE, log 54). -/
def placeSupervisor (s : State) (pn : Nat) : State :=
  let p := s.part pn
  let l := lpbOf (physRead s 0 p.svlpb.toNat 256)
  if l.supervisorOk && s.serves p.svlpb.toNat && s.serves (p.svlpb.toNat + 255) then
    let s := deviceWrite (deviceWrite s 0 (p.svlpb.toNat + 0x40) (bytesOf 8 0)) 0 (p.svlpb.toNat + 0x1A) (bytesOf 1 1)
    s.setTeam (supKey pn) (supervisorTeam pn (lowestHalf p.halves) l)
  else failSupervisor s pn 3 0 0

/-- A partition starts: its registers, rings, arrays and cellar, then its supervisor (15 R318). -/
def startPartition (s : State) (pn : Nat) : State :=
  let p := (s.part pn).started s.clock
  let lo := p.ringbase.toNat
  placeSupervisor
    { s.setPart pn p with rings := s.rings.filter fun e => !(decide (lo ≤ e.1) && decide (e.1 < lo + p.rings.toNat)) } pn

/-- A write of CTL: ENABLE and RESET (15 R317, R318). -/
def writePartCtl (s : State) (pn : Nat) (v : Word) : State :=
  let on := (s.part pn).enable
  if v.getLsbD 0 then
    if !on then (if enableRefused s pn then s else startPartition s pn)
    else if v.getLsbD 1 then startPartition (endPartition s pn) pn
    else s
  else if on then (endPartition s pn).modPart pn fun p => { p with enable := false }
  else s

/-- A write of another word of a map entry: ignored while the entry is enabled (15 R317). -/
def writePartMap (s : State) (pn off : Nat) (v : Word) : State :=
  if (s.part pn).enable then s
  else
    s.modPart pn fun p =>
      match off with
      | 0x00 => { p with halves := v.setWidth 8 }
      | 0x04 => { p with arrays := v.setWidth 4 }
      | 0x08 => { p with ringbase := v.setWidth 16, rings := (v >>> 16).setWidth 16 }
      | 0x10 => { p with svlpb := pairOf v (hiWord p.svlpb) }
      | 0x14 => { p with svlpb := pairOf (loWord p.svlpb) v }
      | _ => p

/-! ### Command queues (16 R340-R342) -/

/-- Queue k of a partition. -/
def Part.queue (p : Part) (k : Nat) : Queue := dget Queue.reset p.queues k

/-- Change a queue. -/
def State.modQueue (s : State) (pn k : Nat) (f : Queue → Queue) : State :=
  s.modPart pn fun p => { p with queues := dput Queue.reset p.queues k (f (p.queue k)) }

/-- log2 of the entries of a ring (16 R340). -/
def Queue.log (q : Queue) : Nat := if 6 ≤ q.sizelog.toNat ∧ q.sizelog.toNat ≤ 16 then q.sizelog.toNat else 6

/-- The local ASID of queue k: QASIDA, QASIDB (17 R357, R371). -/
def queueAsid (p : Part) (k : Nat) : Nat :=
  nbits (p.reg (if k < 2 then 0x23 else 0x24)).toNat (if k % 2 = 0 then 0 else 16) 13

/-- The agent of a queue's accesses (16 R340; log 20). -/
def queueAgent (s : State) (pn k : Nat) : Agent := { supAgent s pn with asid := queueAsid (s.part pn) k, sup := false }

/-- The queue reads an entry now: enabled, in an enabled partition, with an entry to read and none in progress. -/
def queueReady (s : State) (pn k : Nat) : Bool :=
  let q := (s.part pn).queue k
  q.enable && (s.part pn).enable && q.head != q.tail && q.waiting.isNone

/-- The entry is done: QHEAD advances. -/
def queueNext (s : State) (pn k : Nat) : State := s.modQueue pn k fun q => { q with head := q.head + 1, waiting := none }

/-- An entry that cannot be performed stops its queue (16 R342, 20 R402). -/
def queueStop (s : State) (pn k err : Nat) : State :=
  fireVector (s.modQueue pn k fun q =>
    { q with enable := false, err := BitVec.ofNat 8 err, errIdx := q.head.setWidth 24, waiting := none }) (1 + pn)

/-- An entry's reserved bytes are not all zero. -/
def reservedSet (bs : List Byte) : Bool := ((bs.drop 1).take 7 ++ bs.drop 24).any fun b => b != 0

/-- A launch entry (16 R341-R343, 02 R32). PARENT and DEPTH are written before the checks of R32, so that a block that fails
them has them too, which the spec does not say (DESIGN CHOICE, log 55). -/
def queueLaunch (s : State) (pn k : Nat) (addr : Dword) : State :=
  if !canonicalVa addr ∨ addr.toNat % 64 ≠ 0 then queueStop s pn k 2
  else
    let a := queueAgent s pn k
    match vread s a addr.toNat 256 with
    | .error (s, _) => queueStop s pn k 4
    | .ok (s, bs) =>
      let l := lpbOf bs
      if l.done.toNat % 8 ≠ 0 then queueStop s pn k 2
      else
        match vwrite s a (addr.toNat + 0x40) (bytesOf 8 0) with
        | .error (s, _) => queueStop s pn k 4
        | .ok s =>
          match vwrite s a (addr.toNat + 0x1A) (bytesOf 1 1) with
          | .error (s, _) => queueStop s pn k 4
          | .ok s => queueNext (launchGrid s pn addr l 1 none k a.asid) pn k

/-- The read of a wait entry's counter: the bound is reached, or the queue waits at its low 4 bytes (16 R341). -/
def queueWait (s : State) (pn k : Nat) (addr : Dword) (bound : Nat) : State :=
  let a := queueAgent s pn k
  match place s a .read addr.toNat with
  | .error (s, _) => queueStop s pn k 4
  | .ok (s, p) =>
    if bound ≤ natOfBytes (placeRead s p addr.toNat 8) then queueNext s pn k
    else
      let s := s.modQueue pn k fun q => { q with waiting := some (false, addr, bound) }
      register s
        { who := .queue pn k, loc := .virt a.gasid addr, home := homeDie (regionLookup s a addr.toNat).2 addr.toNat,
          cmp := 6, e := 0, m := 0xFFFFFFFF }

/-- A signal entry (16 R341). -/
def queueSignal (s : State) (pn k : Nat) (addr : Dword) (v : Nat) : State :=
  match vwrite s (queueAgent s pn k) addr.toNat (bytesOf 8 v) with
  | .error (s, _) => queueStop s pn k 4
  | .ok s => queueNext s pn k

/-- An entry read from the ring, performed. -/
def queueEntry (s : State) (pn k : Nat) (bs : List Byte) : State :=
  let op := byteAt bs 0
  let addr : Dword := BitVec.ofNat 64 (fieldAt bs 8 8)
  if 3 < op ∨ reservedSet bs then queueStop s pn k 1
  else if op = 0 then queueLaunch s pn k addr
  else if op = 3 then queueNext s pn k
  else if !canonicalVa addr ∨ addr.toNat % 8 ≠ 0 then queueStop s pn k 3
  else if op = 1 then queueWait s pn k addr (fieldAt bs 16 8)
  else queueSignal s pn k addr (fieldAt bs 16 8)

/-- The next entry of a queue is read and, when its OP is one that the event stands for, performed; an entry that cannot
be read, or whose OP is invalid, stops the queue (16 R340-R342). A QBASE that is not canonical is no error of R342's table: the
entry is read at its address modulo the size of a line's key (DESIGN CHOICE, log 55). -/
def queueStep (s : State) (pn k : Nat) (mine : Nat → Bool) : State :=
  if 4 ≤ k ∨ !queueReady s pn k then s
  else
    let q := (s.part pn).queue k
    match vread s (queueAgent s pn k) (q.base.toNat + 64 * (q.head.toNat % 2 ^ q.log)) 64 with
    | .error (s, _) => queueStop s pn k 4
    | .ok (s', bs) => if mine (byteAt bs 0) then queueEntry s' pn k bs else s

/-- QUEUE_LAUNCH; an entry with an invalid OP stops its queue here too. -/
def execQueueLaunch (pnum k : Nat) (s : State) : Out := .next (queueStep s pnum k fun op => op == 0 || decide (3 < op))
/-- QUEUE_WAIT. -/
def execQueueWait (pnum k : Nat) (s : State) : Out := .next (queueStep s pnum k fun op => op == 1)
/-- QUEUE_SIGNAL. -/
def execQueueSignal (pnum k : Nat) (s : State) : Out := .next (queueStep s pnum k fun op => op == 2)
/-- QUEUE_NOP. -/
def execQueueNop (pnum k : Nat) (s : State) : Out := .next (queueStep s pnum k fun op => op == 3)

/-- QUEUE_WAIT_REREAD: a woken wait reads its counter again (16 R341). -/
def execQueueWaitReread (pnum k : Nat) (s : State) : Out :=
  .next <| match ((s.part pnum).queue k).waiting with
    | some (true, addr, bound) => if (s.part pnum).enable then queueWait s pnum k addr bound else s
    | _ => s

/-- A write of a queue's control block (16 R340). -/
def writeQueue (s : State) (pn k off : Nat) (v : Word) : State :=
  s.modQueue pn k fun q =>
    match off with
    | 0x00 => if q.enable then q else { q with base := pairOf (v &&& 0xFFFFF000) (hiWord q.base) }
    | 0x04 => if q.enable then q else { q with base := pairOf (loWord q.base) v }
    | 0x08 => { q with enable := v.getLsbD 8, sizelog := if q.enable then q.sizelog else v.setWidth 5 }
    | 0x10 => { q with tail := v }
    | _ => q

end Sys2Proof.Machine
end

