-- ==== Sys2Proof/Machine/HostOps.lean ====
section
/-!
DEFINITION. The host's side of the module (20 R399-R422): module registers, power, clock locks, migration requests, bring-up
and firmware, BAR0 and BAR2, attestation.
-/
namespace Sys2Proof.Machine

/-! ### Health (20 R419, R420) -/

/-- HEALTH.REPLACE is set, with ALERT.REPLACE when it becomes so. -/
def setReplace (s : State) : State :=
  if s.host.replace then s else setAlert { s with host := { s.host with replace := true } } 2

/-- RETIRED above RETTHR asks for replacement. -/
def checkRetired (s : State) : State := if s.host.retthr.toNat < s.host.retired.toNat then setReplace s else s

/-! ### Operating points and the sequencer (20 R406-R408) -/

/-- The command registers' last values: a die's PSCMD, a link's LINKCMD. -/
def HostRegs.lastPoint (h : HostRegs) (d : Nat) : Nat := dget 0 h.pscmd d
def HostRegs.lastWidth (h : HostRegs) (l : Nat) : Nat := dget 0 h.linkcmd l

/-- The compute dies at the ends of a link (20 R407). -/
def linkDies (l : Nat) : List Nat :=
  if l < 8 then [l / 2]
  else [[0, 1], [0, 2], [0, 3], [1, 2], [1, 3], [2, 3], [0]].getD (l - 8) []

/-- A register's pending command replaces the one it had. -/
def HostRegs.enqueue (h : HostRegs) (c : Bool × Nat × Nat) : HostRegs :=
  { h with pending := (h.pending.filter fun d => !(d.1 == c.1 && d.2.1 == c.2.1)) ++ [c] }

/-- A pending frequency command waits for the pending link commands at its die: the tie rule. -/
def HostRegs.blocked (h : HostRegs) (c : Bool × Nat × Nat) : Bool :=
  !c.1 && h.pending.any fun d => d.1 && (linkDies d.2.1).contains c.2.1

/-- The command that the sequencer applies next: the oldest that the tie rule lets pass (20 R408). -/
def HostRegs.nextCommand (h : HostRegs) : Option (Bool × Nat × Nat) :=
  if h.running.isSome then none else h.pending.find? fun c => !h.blocked c

/-- The sequencer starts its next command, if it is of a kind. -/
def sequencerStart (s : State) (link : Bool) : State :=
  match s.host.nextCommand with
  | some c =>
    if c.1 = link then { s with host := { s.host with running := some c, pending := s.host.pending.erase c } } else s
  | none => s

/-- The running command of a kind has been applied. -/
def sequencerDone (s : State) (link : Bool) : State :=
  match s.host.running with
  | some (l, n, v) =>
    if l ≠ link then s
    else if l then { s with host := { s.host with running := none, widths := dput 0 s.host.widths n (if v = 3 then 0 else v) } }
    else { s with host := { s.host with running := none, points := dput 0 s.host.points n v } }
  | none => s

/-- SEQUENCER_LINK_APPLY. -/
def execSequencerLinkApply (s : State) : Out := .next (sequencerStart s true)
/-- SEQUENCER_FREQUENCY_APPLY. -/
def execSequencerFrequencyApply (s : State) : Out := .next (sequencerStart s false)
/-- LINK_RETRAIN_COMPLETE. -/
def execLinkRetrainComplete (s : State) : Out := .next (sequencerDone s true)
/-- CLOCK_CHANGE_COMPLETE. -/
def execClockChangeComplete (s : State) : Out := .next (sequencerDone s false)

/-! ### Clock locks (18 R393, 20 R409-R411) -/

/-- The partitions that have a half on a die. -/
def partsOnDie (s : State) (d : Nat) : List Nat := (s.parts.filter fun e => (diesOf e.2.halves).contains d).map Prod.fst

/-- Held clock locks break (18 R393). -/
def breakLocks (s : State) (pns : List Nat) (reason : Nat) : State := pns.foldl (fun s p => breakLock s p reason) s

/-- Every partition number that has state. -/
def allParts (s : State) : List Nat := s.parts.map Prod.fst

/-- The operating point of a die: in early service, in which only die 0 runs, it is 4 whatever PSCMD0 commands (20 R406,
R417; log 28). -/
def HostRegs.pointOf (h : HostRegs) (d : Nat) : Nat := if h.stage = 2 then 4 else dget 0 h.points d

/-- A command is pending or running for a die's clock. -/
def HostRegs.clockBusy (h : HostRegs) (d : Nat) : Bool :=
  (h.pending.any fun c => !c.1 && c.2.1 == d) || match h.running with
    | some c => !c.1 && c.2.1 == d
    | none => false

/-- A write of 1 to CLKREQ.GRANT (20 R411). -/
def grantLock (s : State) (pn : Nat) : State :=
  let p := s.part pn
  let w := p.reg 0x7F
  let point := p.lockPoint.toNat
  let ready := (diesOf p.halves).all fun d => s.host.pointOf d == point && !s.host.clockBusy d
  if nbit w.toNat 8 && !nbit w.toNat 9 && ready then
    catWrite (s.modPart pn fun p => p.setReg 0x7F (w ||| 0x200)) pn 7 point 0 0xFF 0 0 0
  else s

/-! ### Writes of the power registers (20 R407-R410) -/

/-- A write of a die's PSCMD: locks break, in the fallback state too; then the command is pending, which it is not in the
fallback state; a point that does not exist is ignored (20 R406, R408, R410, R411). -/
def writePscmd (s : State) (d : Nat) (v : Word) : State :=
  let point := nbits v.toNat 0 4
  if 4 ≤ d ∨ 7 ≤ point then s
  else
    let s := { s with host := { s.host with pscmd := dput 0 s.host.pscmd d point } }
    let s := breakLocks s (partsOnDie s d) 2
    if s.host.fallback then s else { s with host := s.host.enqueue (false, d, point) }

/-- A write of a link's LINKCMD (20 R407, R408, R410). -/
def writeLinkcmd (s : State) (l : Nat) (v : Word) : State :=
  if 15 ≤ l then s
  else
    let width := nbits v.toNat 0 2
    let h := { s.host with linkcmd := dput 0 s.host.linkcmd l width }
    { s with host := if h.fallback then h else h.enqueue (true, l, width) }

/-- A write of PWRCAP (20 R407, R410). -/
def writePwrcap (s : State) (v : Word) : State := { s with host := { s.host with pwrcap := v.setWidth 12 } }

/-- The sequencer is given the last value of every command register (20 R410). -/
def HostRegs.reapply (h : HostRegs) : HostRegs :=
  let h := (List.range 4).foldl (fun (h : HostRegs) (d : Nat) => h.enqueue (false, d, h.lastPoint d)) h
  (List.range 15).foldl (fun (h : HostRegs) (l : Nat) => h.enqueue (true, l, h.lastWidth l)) h

/-- A write of FBCTL; EXIT leaves the fallback state, and the commands that it gives to every die break the locks that
were granted there (20 R407, R410, R411). -/
def writeFbctl (s : State) (v : Word) : State :=
  let h := { s.host with fbCap := (v >>> 16).setWidth 16, fbPoint := v.setWidth 4 }
  if v.getLsbD 4 && h.fallback then
    let s := breakLocks s (allParts s) 2
    { s with host := { h with fallback := false }.reapply }
  else { s with host := h }

/-! ### The thermal alert (20 R409) -/

/-- 1 ms in clocks of 1.05 GHz (00 R2). -/
def thermWindow : Nat := 1050000

/-- THERM is set and not yet examined, and the clock of examination has come. -/
def thermDue (s : State) : Bool :=
  match s.host.thermAt with
  | some t => decide (t + thermWindow ≤ s.clock)
  | none => false

/-- The fallback state is entered (20 R409). -/
def enterFallback (s : State) : State :=
  let h := s.host
  let points := if h.fbPoint.toNat < 7 then
      (List.range 4).foldl (fun (m : List (Nat × Nat)) (d : Nat) => dput 0 m d h.fbPoint.toNat) h.points
    else h.points
  let running := match h.running with
    | some (true, c) => some (true, c)
    | _ => none
  let s := setAlert { s with host := { h with fallback := true, pending := [], running := running, points := points } } 1
  breakLocks s (allParts s) 1

/-- The examination: THERM still set puts the module into the fallback state. -/
def examineTherm (s : State) : State :=
  if !thermDue s then s
  else
    let s := { s with host := { s.host with thermAt := none } }
    if s.host.alert.getLsbD 0 then enterFallback s else s

/-- THERMAL_ALERT: a die's sensor reaches its alert temperature; held locks break with reason 3. -/
def execThermalAlert (_die : Nat) (s : State) : Out :=
  .next <|
    let at_ := if s.host.alert.getLsbD 0 then s.host.thermAt else some s.clock
    let s := setAlert { s with host := { s.host with thermAt := at_ } } 0
    breakLocks s (allParts s) 3

/-- THERMAL_EXAMINATION. -/
def execThermalExamination (s : State) : Out := .next (examineTherm s)

/-! ### Reset, firmware and bring-up (20 R416-R419) -/

/-- The largest body of a firmware image. -/
def maxBody : Nat := 2096992

/-- What the check of an image gives: 1 accepted, 2 signature or format refused, 3 revision below the minimum
(20 R403, R416). -/
def verifyImage (m : List Host.Cell) : Nat :=
  let h := cellsRead m 0 160
  if fieldAt h 0 4 ≠ 0x57464B4A ∨ maxBody < fieldAt h 8 4 then 2
  else if !Config.signatureValid (cellsRead m 0 (160 + fieldAt h 8 4)) then 2
  else if fieldAt h 4 4 < Config.minRevision then 3
  else 1

/-- The module after reset: reset values everywhere, what lies outside the module as it was, and the boot ROM's check of
the flash image: early service, or awaiting a reload (00 R4, 20 R403, R416). -/
def moduleReset (s : State) : State :=
  { State.reset with
    agenda := s.agenda, turn := s.turn, fresh := s.fresh, steps := s.steps, hostMem := s.hostMem, peerMem := s.peerMem,
    images := s.images.map fun (e : Nat × Context) => (e.1, e.2.withoutGrids fun _ => true), flash := s.flash, irqs := s.irqs,
    answers := s.answers, wire := s.wire,
    host := { HostRegs.reset with stage := if verifyImage s.flash = 1 then 2 else 15 } }

/-- MODULE_RESET. -/
def execModuleReset (s : State) : Out := .next (moduleReset s)

/-- A write of FWCTL.LOAD starts the check of the staged image (20 R416). -/
def firmwareLoad (s : State) : State := { s with host := { s.host with fwBusy := true } }

/-- FIRMWARE_LOAD. -/
def execFirmwareLoad (s : State) : Out := .next (firmwareLoad s)

/-- The bytes of a staged image. -/
def stagedImage (s : State) : List Host.Cell :=
  cellsWrite [] 0 (cellsRead s.staging 0 (160 + fieldAt (cellsRead s.staging 8 4) 0 4))

/-- FIRMWARE_VERIFY_COMPLETE: a refused image sets RESULT and ALERT.FWFAIL; an accepted one goes to flash and the module
resets (20 R416). -/
def execFirmwareVerifyComplete (s : State) : Out :=
  .next <|
    if !s.host.fwBusy then s
    else
      let r := verifyImage s.staging
      if r = 1 then moduleReset { s with flash := stagedImage s }
      else setAlert { s with host := { s.host with fwBusy := false, fwResult := BitVec.ofNat 2 r } } 7

/-- HBM_TRAINING_COMPLETE: the stacks that run at half rate, and those that fail even that (20 R419, R420). -/
def execHbmTrainingComplete (weak failed : BitVec 8) (s : State) : Out :=
  .next <|
    if s.host.stage ≠ 2 ∨ s.host.hbmdone then s
    else
      let s := { s with host := { s.host with weak := weak, hbmdone := failed == 0 } }
      if weak ≠ 0 ∨ failed ≠ 0 then setReplace s else s

/-- A write of BOOTCTL.FULL: full service, when every stack has trained and no partition is enabled. The flat memory, which
State holds where device memory has the same addresses, is written to HBM on memory dies 0 and 1, and that ends the errors of
what stood there; the home caches, which have held no line, cache again (20 R417, R418, R421; logs 8, 46). -/
def fullService (s : State) : State :=
  if s.host.stage = 2 ∧ s.host.hbmdone ∧ !(s.parts.any fun e => e.2.enable) then
    { s with host := { s.host with stage := 3, points := [], pscmd := [] },
             poison := s.poison.filter fun pa => !flatPa pa }
  else s

/-- FULL_SERVICE_ENTRY. -/
def execFullServiceEntry (s : State) : Out := .next (fullService s)

/-! ### Partition blocks (20 R404) -/

/-- A write of ALLOT, clipped so that the allotments stay within the pool (20 R404, R407). -/
def writeAllot (s : State) (pn : Nat) (v : Word) : State :=
  let others := ((s.parts.filter fun e => e.1 != pn).map fun e => e.2.allot.toNat).sum
  s.modPart pn fun p => { p with allot := BitVec.ofNat 10 (min (nbits v.toNat 0 10) (tokenPool s - others)) }

/-- A write of MIGCMD starts a push, or is refused (17 R375, 20 R404). -/
def writeMigcmd (s : State) (pn : Nat) (v : Word) : State :=
  let asid := nbits v.toNat 0 13
  let s := s.modPart pn fun p => { p with migAsid := v.setWidth 13 }
  let p := s.part pn
  if p.migRun.isSome ∨ (pushLeaf s pn p.migVa p.migDst asid).isNone then pushDone s pn 4
  else s.modPart pn fun p => { p with migStat := 1, migRun := some (p.migVa, p.migDst, asid) }

/-- A write of a partition's block after its queues. -/
def writePartBlock (s : State) (pn off : Nat) (v : Word) : State :=
  match off with
  | 0x100 => writeAllot s pn v
  | 0x104 => if v.getLsbD 0 then s.modPart pn fun p => { p with svFailed := false } else s
  | 0x110 => if v.getLsbD 0 then grantLock s pn else s
  | 0x118 => s.modPart pn fun p => { p with migVa := pairOf (v &&& 0xFFFF0000) (hiWord p.migVa) }
  | 0x11C => s.modPart pn fun p => { p with migVa := pairOf (loWord p.migVa) v }
  | 0x120 => s.modPart pn fun p => { p with migDst := pairOf v (hiWord p.migDst) }
  | 0x124 => s.modPart pn fun p => { p with migDst := pairOf (loWord p.migDst) v }
  | 0x128 => writeMigcmd s pn v
  | _ => s

/-! ### BAR0 (20 R402, R403, R407, R412) -/

/-- A write of a module register. A write of ALERT comes after an examination that is due (20 R409). -/
def writeModule (s : State) (off : Nat) (v : Word) : State :=
  match off with
  | 0x008 => if v.getLsbD 0 then fullService s else s
  | 0x00C =>
    let s := examineTherm s
    { s with host := { s.host with alert := s.host.alert &&& ~~~(v.setWidth 8) } }
  | 0x010 => { s with host := { s.host with alerten := v.setWidth 8 } }
  | 0x018 => checkRetired { s with host := { s.host with retired := v } }
  | 0x01C => checkRetired { s with host := { s.host with retthr := v } }
  | 0x028 => if v.getLsbD 0 then firmwareLoad s else s
  | _ => s

/-- A write of a power register. -/
def writePower (s : State) (off : Nat) (v : Word) : State :=
  if off = 0x2000 then writePwrcap s v
  else if off = 0x2008 then writeFbctl s v
  else if 0x2010 ≤ off ∧ off < 0x2020 ∧ off % 4 = 0 then writePscmd s ((off - 0x2010) / 4) v
  else if 0x2040 ≤ off ∧ off < 0x207C ∧ off % 4 = 0 then writeLinkcmd s ((off - 0x2040) / 4) v
  else s

/-- A write of a port's register. -/
def writePort (s : State) (n off : Nat) (v : Word) : State :=
  let p := dget Port.reset s.ports n
  let p := match off with
    | 0x08 => { p with qpbase := pairOf v (hiWord p.qpbase) }
    | 0x0C => { p with qpbase := pairOf (loWord p.qpbase) v }
    | 0x10 => { p with qpcnt := v.setWidth 17 }
    | _ => p
  { s with ports := dput Port.reset s.ports n p }

/-- With STAGE 15 only the module registers and the staging window answer (20 R416). -/
def barAnswers (s : State) (off : Nat) : Bool :=
  s.host.stage != 15 || decide (off < 0x1000) || (decide (0x100000 ≤ off) && decide (off < 0x300000))

/-- A 32-bit write of the host in BAR0 (20 R402). -/
def writeBar (s : State) (off : Nat) (v : Word) : State :=
  if !barAnswers s off ∨ off % 4 ≠ 0 then s
  else if off < 0x1000 then writeModule s off v
  else if off < 0x1100 then
    (if (off - 0x1000) % 32 = 0x0C then writePartCtl s ((off - 0x1000) / 32) v
     else writePartMap s ((off - 0x1000) / 32) ((off - 0x1000) % 32) v)
  else if 0x2000 ≤ off ∧ off < 0x3000 then writePower s off v
  else if 0x3000 ≤ off ∧ off < 0x3200 then writePort s ((off - 0x3000) / 64) ((off - 0x3000) % 64) v
  else if 0x10000 ≤ off ∧ off < 0x90000 then
    (if off % 0x10000 < 0x80 then writeQueue s (off / 0x10000 - 1) (off % 0x10000 / 32) (off % 32) v
     else writePartBlock s (off / 0x10000 - 1) (off % 0x10000) v)
  else if 0x100000 ≤ off ∧ off < 0x300000 then { s with staging := cellsWrite s.staging (off - 0x100000) (bytesOf 4 v.toNat) }
  else if 0x300000 ≤ off ∧ off < 0x300090 then { s with msix := dput 0 s.msix off v }
  else s

/-- REGISTER_WRITE: a write of the host in BAR0. -/
def execRegisterWrite (off : Nat) (val : Word) (s : State) : Out := .next (writeBar s off val)
/-- PWRCAP_WRITE (20 R407). -/
def execPwrcapWrite (val : Word) (s : State) : Out := .next (writeBar s 0x2000 val)
/-- PSCMD_WRITE (20 R407). -/
def execPscmdWrite (die : Nat) (val : Word) (s : State) : Out := .next (if die < 4 then writeBar s (0x2010 + 4 * die) val else s)
/-- LINKCMD_WRITE (20 R407). -/
def execLinkcmdWrite (link : Nat) (val : Word) (s : State) : Out :=
  .next (if link < 15 then writeBar s (0x2040 + 4 * link) val else s)
/-- FALLBACK_EXIT: a write of FBCTL with EXIT set (20 R410). -/
def execFallbackExit (val : Word) (s : State) : Out := .next (if val.getLsbD 4 then writeBar s 0x2008 val else s)
/-- RETIRED_WRITE: a write of RETIRED or RETTHR (20 R420). -/
def execRetiredWrite (off : Nat) (val : Word) (s : State) : Out :=
  .next (if off = 0x18 ∨ off = 0x1C then writeBar s off val else s)

/-- The offset of a partition's map entry. -/
def mapOff (pn : Nat) : Nat := 0x1000 + 32 * pn
/-- The offset of a partition's block. -/
def blockOff (pn : Nat) : Nat := 0x10000 + 0x10000 * pn

/-- PARTITION_ENABLE: CTL.ENABLE goes from 0 to 1 (15 R318). -/
def execPartitionEnable (pnum : Nat) (s : State) : Out :=
  .next (if pnum < 8 ∧ !(s.part pnum).enable then writeBar s (mapOff pnum + 12) 1 else s)
/-- PARTITION_RESET: CTL.RESET written to an enabled entry (15 R318). -/
def execPartitionReset (pnum : Nat) (s : State) : Out :=
  .next (if pnum < 8 ∧ (s.part pnum).enable then writeBar s (mapOff pnum + 12) 3 else s)
/-- PARTITION_DISABLE: CTL.ENABLE goes from 1 to 0 (15 R318). -/
def execPartitionDisable (pnum : Nat) (s : State) : Out :=
  .next (if pnum < 8 ∧ (s.part pnum).enable then writeBar s (mapOff pnum + 12) 0 else s)

/-- QUEUE_DOORBELL: a write of QTAIL (16 R340, 20 R405). -/
def execQueueDoorbell (pnum k : Nat) (val : Word) (s : State) : Out :=
  .next (if pnum < 8 ∧ k < 4 then writeBar s (blockOff pnum + 32 * k + 0x10) val else s)
/-- QUEUE_ENABLE: a write of QCTL with ENABLE set (16 R340). -/
def execQueueEnable (pnum k : Nat) (val : Word) (s : State) : Out :=
  .next (if pnum < 8 ∧ k < 4 ∧ val.getLsbD 8 then writeBar s (blockOff pnum + 32 * k + 8) val else s)
/-- QUEUE_DISABLE: a write of QCTL with ENABLE clear; the entry in progress goes on (16 R340). -/
def execQueueDisable (pnum k : Nat) (val : Word) (s : State) : Out :=
  .next (if pnum < 8 ∧ k < 4 ∧ !val.getLsbD 8 then writeBar s (blockOff pnum + 32 * k + 8) val else s)

/-- ALLOT_WRITE (20 R404). -/
def execAllotWrite (pnum : Nat) (val : Word) (s : State) : Out :=
  .next (if pnum < 8 then writeBar s (blockOff pnum + 0x100) val else s)
/-- MIGRATION_PUSH_REQUEST: a write of MIGCMD (20 R404). -/
def execMigrationPushRequest (pnum : Nat) (val : Word) (s : State) : Out :=
  .next (if pnum < 8 then writeBar s (blockOff pnum + 0x128) val else s)
/-- CLOCK_LOCK_GRANT: a write of 1 to CLKREQ.GRANT (20 R411). -/
def execClockLockGrant (pnum : Nat) (s : State) : Out :=
  .next (if pnum < 8 then writeBar s (blockOff pnum + 0x110) 1 else s)

/-! ### What BAR0 reads (20 R402-R404, R407, R412, R416; 16 R340) -/

/-- A bit as a word. -/
def bit (b : Bool) (k : Nat) : Nat := if b then 2 ^ k else 0

/-- A module register as it reads. -/
def readModule (s : State) (off : Nat) : Nat :=
  let h := s.host
  match off with
  | 0x000 => 0x4A4B4000
  | 0x004 => h.weak.toNat * 256 + bit h.hbmdone 4 + h.stage.toNat
  | 0x00C => h.alert.toNat
  | 0x010 => h.alerten.toNat
  | 0x014 => bit h.replace 31
  | 0x018 => h.retired.toNat
  | 0x01C => h.retthr.toNat
  | 0x020 => (loWord h.hbmerr).toNat
  | 0x024 => (hiWord h.hbmerr).toNat
  | 0x028 => h.fwResult.toNat * 4 + bit h.fwBusy 1
  | _ => 0

/-- A map entry as it reads. -/
def readPartMap (s : State) (pn off : Nat) : Nat :=
  let p := s.part pn
  match off with
  | 0x00 => p.halves.toNat
  | 0x04 => p.arrays.toNat
  | 0x08 => p.ringbase.toNat + 65536 * p.rings.toNat
  | 0x0C => bit p.enable 0
  | 0x10 => (loWord p.svlpb).toNat
  | 0x14 => (hiWord p.svlpb).toNat
  | _ => 0

/-- A command register's BUSY: its command is pending or running. -/
def HostRegs.busy (h : HostRegs) (link : Bool) (n : Nat) : Bool :=
  (h.pending.any fun c => c.1 == link && c.2.1 == n) || match h.running with
    | some c => c.1 == link && c.2.1 == n
    | none => false

/-- A power register as it reads. -/
def readPower (s : State) (off : Nat) : Nat :=
  let h := s.host
  if off = 0x2000 then h.pwrcap.toNat
  else if off = 0x2004 then bit (!h.pending.isEmpty) 1 + bit h.fallback 0
  else if off = 0x2008 then h.fbCap.toNat * 65536 + h.fbPoint.toNat
  else if 0x2010 ≤ off ∧ off < 0x2020 then
    bit (h.busy false ((off - 0x2010) / 4)) 31 + h.lastPoint ((off - 0x2010) / 4)
  else if 0x2040 ≤ off ∧ off < 0x207C then
    bit (h.busy true ((off - 0x2040) / 4)) 31 + h.lastWidth ((off - 0x2040) / 4)
  else 0

/-- A port's register as it reads. -/
def readPort (s : State) (n off : Nat) : Nat :=
  let p := dget Port.reset s.ports n
  match off with
  | 0x00 => bit p.up 0
  | 0x08 => (loWord p.qpbase).toNat
  | 0x0C => (hiWord p.qpbase).toNat
  | 0x10 => p.qpcnt.toNat
  | _ => 0

/-- A queue's control block as it reads; QTAIL rings the doorbell on each write, so it is an action field, which reads 0 (00 R3,
16 R340): the index it was given last is the model's `tail`. -/
def readQueue (s : State) (pn k off : Nat) : Nat :=
  let q := (s.part pn).queue k
  match off with
  | 0x00 => (loWord q.base).toNat
  | 0x04 => (hiWord q.base).toNat
  | 0x08 => bit q.enable 8 + q.sizelog.toNat
  | 0x0C => q.errIdx.toNat * 256 + q.err.toNat
  | 0x14 => q.head.toNat
  | _ => 0

/-- A partition's block after its queues as it reads; MIGCMD.ASID is an action field, which reads 0 (00 R3). -/
def readPartBlock (s : State) (pn off : Nat) : Nat :=
  let p := s.part pn
  match off with
  | 0x100 => p.allot.toNat
  | 0x104 => p.svCause.toNat * 256 + p.svReason.toNat * 2 + bit p.svFailed 0
  | 0x108 => (loWord p.svPc).toNat
  | 0x10C => (hiWord p.svPc).toNat
  | 0x110 => bit (nbit (p.reg 0x7F).toNat 8) 8
  | 0x118 => (loWord p.migVa).toNat
  | 0x11C => (hiWord p.migVa).toNat
  | 0x120 => (loWord p.migDst).toNat
  | 0x124 => (hiWord p.migDst).toNat
  | 0x128 => p.migStat.toNat * 8192
  | _ => 0

/-- A 32-bit read of the host in BAR0. It changes nothing, and no step of the opcode table stands for it. -/
def readBar (s : State) (off : Nat) : Word :=
  BitVec.ofNat 32 <|
    if !barAnswers s off then 0
    else if off < 0x1000 then readModule s off
    else if off < 0x1100 then readPartMap s ((off - 0x1000) / 32) ((off - 0x1000) % 32)
    else if 0x2000 ≤ off ∧ off < 0x3000 then readPower s off
    else if 0x3000 ≤ off ∧ off < 0x3200 then readPort s ((off - 0x3000) / 64) ((off - 0x3000) % 64)
    else if 0x10000 ≤ off ∧ off < 0x90000 then
      (if off % 0x10000 < 0x80 then readQueue s (off / 0x10000 - 1) (off % 0x10000 / 32) (off % 32)
       else readPartBlock s (off / 0x10000 - 1) (off % 0x10000))
    else if 0x100000 ≤ off ∧ off < 0x300000 then natOfBytes (cellsRead s.staging (off - 0x100000) 4)
    else if 0x300000 ≤ off ∧ off < 0x300090 then (dget 0 s.msix off).toNat
    else 0

/-! ### BAR2, the host link and attestation (20 R399, R400, R422) -/

/-- HOST_MEMORY_ACCESS: a read or a write at BAR2 + PA, performed at HBM; one that reaches 2^39 is unsupported. A write is
evaluated against the wait entries of its bytes, and a read of data with an uncorrectable error is poisoned (20 R400,
R421, 17 R369, 07 R194). -/
def execHostMemoryAccess (off len : Nat) (store : Option (List Byte)) (s : State) : Out :=
  .next <|
    let n := (store.map List.length).getD len
    if 2 ^ 39 < off + n ∨ 2 ^ 39 ≤ off ∨ (s.host.stage ≠ 2 ∧ s.host.stage ≠ 3) then s.answer true false []
    else
      match store with
      | some bs => deviceWrite s 0 off bs
      | none => s.answer false (s.poisonedAt off n) (physRead s 0 off n)

/-- A write of the host in its own memory (LOC 1), or of a CXL peer in its (LOC 2): no device cache holds a copy, and the
wait entries of its bytes are evaluated (17 R369, 20 R399, R405, 07 R194). -/
def outsideWrite (s : State) (loc addr : Nat) (bs : List Byte) : State :=
  deviceWrite s loc addr bs

/-- HOST_LINK_TRAINING: the link stands at a width of at most 16 lanes and a rate of at most PCI Express 6.0 (20 R399). -/
def execHostLinkTraining (width rate : Nat) (s : State) : Out :=
  .next <|
    if (width = 1 ∨ width = 2 ∨ width = 4 ∨ width = 8 ∨ width = 16) ∧ 1 ≤ rate ∧ rate ≤ 6 then
      { s with host := { s.host with linkWidth := width, linkRate := rate } }
    else s

/-- An answer of the SPDM responder (20 R422; log 16). -/
def spdmAnswer (s : State) (bytes : List Byte) : State := s.answer false false bytes

/-- A request that names what the device does not have, or that comes before the algorithms have been negotiated, is
answered with an error. -/
def spdmError (s : State) : State := s.answer true false []

/-- What a measurement is of: the boot ROM, the running firmware image with REV, the fused configuration (20 R422). -/
def measured (s : State) (index : Nat) : List Byte :=
  match index with
  | 1 => Config.bootRom
  | 2 => cellsRead s.flash 0 (160 + fieldAt (cellsRead s.flash 8 4) 0 4) ++ cellsRead s.flash 4 4
  | _ => Config.fuses

/-- The measurements that an index of GET_MEASUREMENTS asks for: one of three digests, their number (0), or all of them
(255). -/
def measurements (s : State) (index : Nat) : List Byte :=
  if index = 0 then [3]
  else if index = 255 then [1, 2, 3].flatMap fun i => Config.digest (measured s i)
  else Config.digest (measured s index)

/-- A signed answer: what it says, and a signature of that with the requester's nonce. -/
def spdmSigned (s : State) (bytes nonce : List Byte) : State :=
  spdmAnswer { s with fresh := s.fresh + 1 } (bytes ++ Config.signature (bytes ++ nonce) s.fresh)

/-- A request that the responder takes: with STAGE 15 nothing but the module registers and the staging window answers, and a
request then has no answer (20 R416). -/
def responder (s answered : State) : Out := .next (if s.host.stage = 15 then s else answered)

/-- SPDM_GET_VERSION: a new negotiation begins. -/
def execSpdmGetVersion (s : State) : Out := responder s (spdmAnswer { s with spdm := false } (Config.spdmBytes 0))
/-- SPDM_GET_CAPABILITIES. -/
def execSpdmGetCapabilities (s : State) : Out := responder s (spdmAnswer s (Config.spdmBytes 1))
/-- SPDM_NEGOTIATE_ALGORITHMS: the only algorithms are ECDSA with P-384 and SHA-384, which the request must offer. -/
def execSpdmNegotiateAlgorithms (req : List Byte) (s : State) : Out :=
  responder s (if Config.offersAlgorithms req then spdmAnswer { s with spdm := true } (Config.spdmBytes 2) else spdmError s)
/-- SPDM_GET_DIGESTS: the digest of the certificate in slot 0. -/
def execSpdmGetDigests (s : State) : Out :=
  responder s (if s.spdm then spdmAnswer s (Config.digest Config.certificate) else spdmError s)
/-- SPDM_GET_CERTIFICATE: slot 0 holds the certificate of the identity key. -/
def execSpdmGetCertificate (slot off len : Nat) (s : State) : Out :=
  responder s (if s.spdm ∧ slot = 0 then spdmAnswer s ((Config.certificate.drop off).take len) else spdmError s)
/-- SPDM_CHALLENGE: signed with the identity key, whose certificate's digest it names. -/
def execSpdmChallenge (slot : Nat) (nonce : List Byte) (s : State) : Out :=
  responder s (if s.spdm ∧ slot = 0 then spdmSigned s (Config.digest Config.certificate) nonce else spdmError s)
/-- SPDM_GET_MEASUREMENTS: indices 1 to 3, their number (0) or all of them (255), signed. -/
def execSpdmGetMeasurements (index : Nat) (nonce : List Byte) (s : State) : Out :=
  responder s (if s.spdm ∧ (index ≤ 3 ∨ index = 255) then spdmSigned s (measurements s index) nonce else spdmError s)

end Sys2Proof.Machine
end

