-- ==== Sys2Proof/Machine/Agenda.lean ====
section
/-!
DEFINITION. The model's own scheduling (log 3): which agent moves when State.agenda lists no move. Every event of the device
that can come about is offered in turn, and a core chooses among its teams as 16 R349 says.
-/
namespace Sys2Proof.Machine

/-! ### Time (02 R43, 15 R333) -/

/-- The watchdog count of a team rises in a clock (15 R333). -/
def watchRuns (s : State) (t : Team) : Bool :=
  t.live && !t.sup && !t.halted && onCore s t
    && !(!t.paths.isEmpty && (t.paths.all (fun e => e.2.hold) || t.paths.all fun e => e.2.st == .faulted))

/-- A team's counts after n clocks (15 R333). -/
def Team.counted (s : State) (n : Nat) (t : Team) : Team :=
  { t with wdcnt := if watchRuns s t then t.wdcnt + n else t.wdcnt,
           fscnt := if t.live && !t.sup && t.paths.any (fun e => e.2.st == .faulted) then t.fscnt + n else 0 }

/-- The clocks of the step about to be made: one, and a free number more (log 5). -/
def State.stepLength (s : State) : Nat := 1 + Config.stepClocks s.steps

/-- Twenty-firsts of a 1.05 GHz clock in which a compute die's arithmetic clock makes one period of its own, by operating
point (20 R406). -/
def pointRate (point : Nat) : Nat := [21, 19, 17, 15, 12, 9, 6].getD point 0

/-- The rate of a die's clock: its point's, or none while the sequencer changes it; in early service only die 0 runs, at its
one point (20 R406, R408, R417). -/
def HostRegs.rate (h : HostRegs) (d : Nat) : Nat :=
  let stopped : Bool := if h.stage = 2 then d != 0 else match h.running with
    | some (false, n, _) => n == d
    | _ => false
  if stopped then 0 else pointRate (h.pointOf d)

/-- The phases of the compute dies' clocks after n periods of 1.05 GHz (02 R43, 20 R406). -/
def advancePhases (h : HostRegs) (phase : List (Nat × Nat)) (n : Nat) : List (Nat × Nat) :=
  (List.range 4).foldl (fun (m : List (Nat × Nat)) (d : Nat) => dput 0 m d (dget 0 m d + n * h.rate d)) phase

/-- What the passing of a time brings with it, at that time and no later: the end of the cohorts that have read data with an
uncorrectable error, the end of move windows, the delivery of fault batches whose TIME has run out, and the examination of
THERM exactly 1 ms after it was set (20 R421, 17 R377, R372, 20 R409). -/
def State.onTime (s : State) : State := examineTherm (deliverTimed (expireMoves (endReaders s)))

/-- Time passes: the clocks and the counts of every team. -/
def State.tick (s : State) : State :=
  State.onTime
    { s with clock := s.clock + s.stepLength, phase := advancePhases s.host s.phase s.stepLength, steps := s.steps + 1,
             cur := none, teams := s.teams.map fun (e : Nat × Team) => (e.1, e.2.counted s s.stepLength) }

/-- A member of a list by the number of the step, so that none is passed over for ever. -/
def rotate {α : Type} (s : State) (l : List α) : Option α := l[s.steps / 2 % l.length]?

noncomputable section

/-! ### Issue (16 R349) -/

/-- The team's next instruction waits for its line, or for a token that the team has asked for (16 R348, R350). -/
def knownBlocked (s : State) (tk : Nat) : Bool :=
  match chooseIssuer s tk with
  | (_, none) => false
  | (s', some x) =>
    (s.fills.any fun f => f.tk == tk && f.path == x.pi && !f.ahead) || (x.t.tokenAsked &&
      match fetchWord s' x with
      | .error _ => false
      | .ok w =>
        match decodeAt s' x w with
        | .ok i => lacksToken x i
        | .error _ => false)

/-- Teams that are ready for an issue slot (16 R349). -/
def readyTeams (s : State) : List (Nat × Team) :=
  s.teams.filter fun e => teamMayIssue s e.2 && (lowestPath e.2.paths).isSome && !knownBlocked s e.1

/-- Of a core's ready teams, the first in ascending slot order after the slot that issued last, wrapping (16 R349). -/
def coreChoice (s : State) (ready : List (Nat × Team)) (core : Nat) : Option Nat :=
  let last := dget 15 s.lastSlot core
  let mine := sortBy (fun (e : Nat × Team) => (e.2.slot + 15 - last) % 16) (ready.filter fun e => e.2.core == core)
  (mine.head?).map Prod.fst

/-- The core that gets the next issue slot: those with a ready team take turns. -/
def nextCore (s : State) : Option Nat := rotate s ((readyTeams s).map fun e => e.2.core).eraseDups

/-! ### Events of the device that can come about -/

/-- Events of a team. -/
def teamEvents (s : State) (tk : Nat) (t : Team) : List Instr :=
  (List.range t.long.length).map (fun k => .longResultReturn tk k none)
    ++ ((List.range 8).filter fun a => t.ops.any fun o => o.apath == a && opReady s t o).map (fun a => .asyncCompletion tk a)
    ++ ((t.replay.zipIdx).filter fun e => !e.1.reported).map (fun e => .faultReportArrival tk e.2)
    ++ (match t.wait with
        | .waitc _ _ _ _ _ _ true => [.waitcReread tk]
        | _ => [])
    ++ t.paths.flatMap (fun e => match e.2.st with
        | .waiting (.fence _ _ _) => [.fenceComplete tk e.1]
        | .waiting (.maintenance _ _ _) => [.cacheMaintenanceComplete tk e.1]
        | .waiting (.launch _ _ _) => [.launchBlockRead tk e.1]
        | _ => [])
    ++ (if Team.spent s tk t then [.teamRetire tk] else [])
    ++ (if countExpires s tk t 0x1B 0x10 t.wdcnt then [.watchdogExpiry tk] else [])
    ++ (if countExpires s tk t 0x1C 0x11 t.fscnt then [.faultStallExpiry tk] else [])
    ++ (s.cmds.filter fun c => c.tk == tk && (c.kind == kindVol + 6 || c.kind == kindVol + 7) && !c.lanes.isEmpty).map
        fun c => .curatorLaneRetry tk c.id

/-- Events of an engine command. -/
def cmdEvents (c : Cmd) : List Instr :=
  if c.kind = kindEnded then []
  else if c.kind = kindCp then
    (if c.started then [.rdmaAcknowledgement c.id] else [.copyCommandComplete c.id, .copyFaultStop c.id])
  else if c.kind = kindMma then [.mmaStepComplete c.id, .mmaStepFaultStop c.id]
  else if c.kind = kindTtq then [.tileTaskStart c.id, .tileTaskComplete c.id, .mmaStepFaultStop c.id, .accumulatorFaultStop c.id]
  else if c.kind < kindVol then [.accumulatorCommandComplete c.id, .accumulatorFaultStop c.id]
  else if c.kind < kindPeuri then [.haloCommandComplete c.id, .haloFaultStop c.id]
  else if c.kind = kindLayer + 4 ∨ c.kind = kindLayer + 5 then [.ringCommandPerform c.id]
  else []

/-- Events of a partition's queue. -/
def queueEvents (s : State) (pn k : Nat) : List Instr :=
  (if queueReady s pn k then [.queueLaunch pn k, .queueWait pn k, .queueSignal pn k, .queueNop pn k] else [])
    ++ match ((s.part pn).queue k).waiting with
      | some (true, _, _) => [.queueWaitReread pn k]
      | _ => []

/-- Events of a partition. -/
def partEvents (s : State) (pn : Nat) (p : Part) : List Instr :=
  (if !p.tokenReqs.isEmpty && mayGrant s pn then [.powerTokenGrant pn] else [])
    ++ (if batchDue s pn then [.faultBatchDelivery pn] else [])
    ++ p.svPending.map (fun e => .supervisorEngineFault e.1)
    ++ (if svCheckDue s pn then [.supervisorWatchdogExpiry pn] else [])
    ++ (if p.peuri.queue.isEmpty then [] else [.peuriCommandStart pn, .peuriCommandComplete pn, .peuriLoadFault pn])
    ++ (if (waitingPath s pn fun _ => true).isSome then [.haltSettle pn, .cellarExchangeComplete pn, .tlbinvComplete pn] else [])
    ++ (if p.cellarOp = 1 then [.cellarDrainComplete pn] else if p.cellarOp = 2 then [.cellarFillComplete pn] else [])
    ++ p.procs.flatMap (fun e =>
        (if canClaim s pn e.1 then [.cohortClaim pn e.1] else [])
          ++ if (headFit s pn e.1).isSome then [.cohortPlacement pn e.1] else [])
    ++ (if p.migRun.isSome then [.migrationMoveComplete pn] else [])
    ++ (List.range 4).flatMap (queueEvents s pn)

/-- Events of a cohort: swapped out only while some cohort waits for a place (02 R41). -/
def cohortEvents (s : State) (cid : Nat) (c : Cohort) : List Instr :=
  (if maySwapOut s c && s.grids.any (fun e => !e.2.unplaced.isEmpty) then [.cohortSwapOut cid] else [])
    ++ (if c.draining then [.cohortDrainComplete cid] else [])
    ++ (if c.place != .resident && cohortWoken s c && (swapInFit s c).isSome then [.cohortSwapIn cid] else [])

/-- Events of the module. -/
def moduleEvents (s : State) : List Instr :=
  (List.range s.fills.length).map (fun k => .icacheFill k)
    ++ (List.range s.mails.length).map (fun k => .fetchMailboxWrite k)
    ++ ((s.moves.zipIdx).filter fun e => decide (e.1.t0 + moveWindow ≤ s.clock)).map (fun e => .moveRecordExpiry e.2)
    ++ (s.grids.filter fun e => Grid.spent s e.1 e.2).map (fun e => .gridRetire e.1)
    ++ (match s.host.nextCommand with
        | some (true, _) => [.sequencerLinkApply]
        | some (false, _) => [.sequencerFrequencyApply]
        | none => [])
    ++ (match s.host.running with
        | some (true, _) => [.linkRetrainComplete]
        | some (false, _) => [.clockChangeComplete]
        | none => [])
    ++ (if thermDue s then [.thermalExamination] else [])
    ++ (if s.host.fwBusy then [.firmwareVerifyComplete] else [])

/-- Every event that can come about without an input from outside. -/
def internalEvents (s : State) : List Instr :=
  moduleEvents s ++ (s.teams.filter fun e => e.2.live).flatMap (fun e => teamEvents s e.1 e.2) ++ s.cmds.flatMap cmdEvents
    ++ s.parts.flatMap (fun e => partEvents s e.1 e.2) ++ s.cohorts.flatMap (fun e => cohortEvents s e.1 e.2)

/-- The move made when no move is listed: events and issue slots in turn, idle time when neither is possible. -/
def defaultMove (s : State) : Move :=
  let ev := (rotate s (internalEvents s)).map Move.event
  let is := (nextCore s).map Move.issue
  ((if s.turn then is.orElse fun _ => ev else ev.orElse fun _ => is)).getD .idle

end

end Sys2Proof.Machine
end

