-- ==== Sys2Proof/Machine/LoadStore.lean ====
section
/-!
DEFINITION. Loads and stores (07 R180-R183).
-/
namespace Sys2Proof.Machine

/-- The requests of the acting lanes, with their data registers from d on. -/
def Issuer.requests (x : Issuer) (h : Hdr) (addr : Nat → Dword) (d n : Nat) : List LaneReq :=
  (x.lanes h).map fun l =>
    { lane := l, addr := addr l, data := (List.range n).map fun k => x.t.vr (d + k) l }

/-- A global lane access with its checks (07 R177, R180). -/
def globalAccess (s : State) (x : Issuer) (acc : Access) (width : Nat) (far : Option Nat) (reqs : List LaneReq)
    (mark : Bool) : State :=
  match failingLanes reqs (checkGlobal width) with
  | some (c, addr, ls) => trapLanes s x c 0 addr ls
  | none => laneAccess s x acc width far none reqs mark

/-- Each lane's address z[zb] + sext64 v[i] (07 R180). -/
def globalAddr (f : M) (t : Team) (l : Nat) : Dword := t.zr (2 * f.zb.toNat) + (t.vr f.i.toNat l).signExtend 64

/-- ld.g: long, counted on LD (07 R180). -/
def execLdG (f : M) (s : State) : Out :=
  withIssuer s fun x =>
    globalAccess s x (.load f.sz.toNat f.d.toNat) (szBytes f.sz.toNat) (some LD)
      (x.requests f.h (globalAddr f x.t) 0 0) f.h.s

/-- st.g (07 R180, R181). -/
def execStG (f : M) (s : State) : Out :=
  withIssuer s fun x =>
    globalAccess s x (.store f.sz.toNat) (szBytes f.sz.toNat) none
      (x.requests f.h (globalAddr f x.t) f.d.toNat (szRegs f.sz.toNat)) f.h.s

/-- Each lane's scratchpad address uint v[i] + ofs3 x width, in unbounded integers (07 R182). -/
def scrAddr (f : MS) (t : Team) (l : Nat) : Dword :=
  BitVec.ofNat 64 ((t.vr f.i.toNat l).toNat + f.ofs.toNat * szBytes f.sz.toNat)

/-- The bytes of a scratchpad that an address names: the team's own, or the window's (07 R172). -/
def scrTarget (s : State) (x : Issuer) (window : Bool) (a : Dword) : Option (Nat × Nat) :=
  if window then windowTarget s x.tk x.t a.toNat else some (x.tk, a.toNat)

/-- The checks of a scratchpad access (07 R177). -/
def scrCheck (s : State) (x : Issuer) (window : Bool) (width : Nat) (a : Dword) : Option Nat :=
  if window then checkWindow s x.tk x.t width a else checkLocal x.t width a

/-- A scratchpad load, long, counted on SP through the window (07 R182). It waits for an unfinished acquire of its path
(08 R209). -/
def scrLoad (s : State) (f : MS) (window : Bool) : Out :=
  withIssuer s fun x =>
    let width := szBytes f.sz.toNat
    let reqs := x.requests f.h (scrAddr f x.t) 0 0
    match failingLanes reqs (scrCheck s x window width) with
    | some (c, addr, ls) => trapLanes s x c 0 addr ls
    | none =>
      let ws := reqs.flatMap fun r =>
        match scrTarget s x window r.addr with
        | some (k, off) => loadWrites f.sz.toNat f.d.toNat r.lane (natOfBytes (scrRead s k off width))
        | none => []
      if !reqs.isEmpty && ((window && x.t.full SP) || scratchWaits x.t x.pi) then s.stall
      else (addResults s x (if window && !reqs.isEmpty then some SP else none) ws).1.pass x 4 f.h.s

/-- A scratchpad store: of the lanes that name one location, one of the device's choice is stored (07 R181, R182). It
waits for an unfinished acquire of its path (08 R209). -/
def scrStore (s : State) (f : MS) (window : Bool) : Out :=
  withIssuer s fun x =>
    let width := szBytes f.sz.toNat
    let reqs := x.requests f.h (scrAddr f x.t) f.d.toNat (szRegs f.sz.toNat)
    match failingLanes reqs (scrCheck s x window width) with
    | some (c, addr, ls) => trapLanes s x c 0 addr ls
    | none =>
      if !reqs.isEmpty && scratchWaits x.t x.pi then s.stall
      else
        let s := (sameAddress reqs).foldl
          (fun s g =>
            let (s, i) := pick s g.length
            match g[i]? with
            | none => s
            | some r =>
              match scrTarget s x window r.addr with
              | some (k, off) => scrWrite s k off (storeBytes f.sz.toNat r.data)
              | none => s) s
        s.pass x 4 f.h.s

/-- ld.s (07 R182). -/
def execLdS (f : MS) (s : State) : Out := scrLoad s f false
/-- st.s (07 R182). -/
def execStS (f : MS) (s : State) : Out := scrStore s f false
/-- ld.c (07 R182). -/
def execLdC (f : MS) (s : State) : Out := scrLoad s f true
/-- st.c (07 R182). -/
def execStC (f : MS) (s : State) : Out := scrStore s f true

/-- A uniform load, long, counted on LD: its failing check and its fault name no lane (07 R183). -/
def uniformLoad (s : State) (f : LDU) (wide : Bool) : Out :=
  withIssuer s fun x =>
    if x.uacts f.h then
      let addr := x.t.zr (2 * f.b.toNat) + BitVec.ofNat 64 (4 * f.i.toNat)
      let width := if wide then 8 else 4
      match checkGlobal width addr with
      | some c => trapUniform s x c 0 addr
      | none =>
        laneAccess s x (.loadU wide f.d.toNat) width (some LD) none [{ lane := 0, addr := addr, data := [] }] f.h.s
    else s.pass x 4 f.h.s

/-- ld.u.b32 (07 R183). -/
def execLdUB32 (f : LDU) (s : State) : Out := uniformLoad s f false
/-- ld.u.b64 (07 R183). -/
def execLdUB64 (f : LDU) (s : State) : Out := uniformLoad s f true

end Sys2Proof.Machine
end

