-- ==== Sys2Proof/Machine/Atomic.lean ====
section
/-!
DEFINITION. Atomics and reductions (07 R184-R188).
-/
namespace Sys2Proof.Machine

/-- An atomic instruction: op is 8 x (major - 0x33) + op, n the operand registers from d on. A returning form is long,
counted on LD for global addresses and on SP for the aperture (07 R185, R186). -/
def atomicInstr (s : State) (f : AT) (op n : Nat) (wide returns : Bool) : Out :=
  withIssuer s fun x =>
    let width := if wide then 8 else 4
    let reqs := x.requests f.h (fun l => x.t.wr f.a.toNat l) f.d.toNat n
    match failingLanes reqs (checkAtomic s x.tk x.t width) with
    | some (c, addr, ls) => trapLanes s x c 0 addr ls
    | none =>
      let dst := if returns then some f.d.toNat else none
      laneAccess s x (.atomic op f.os.toNat wide dst x.t.fpm) width (dst.map fun _ => LD) (dst.map fun _ => SP) reqs f.h.s

/-- atom.add (07 R187). -/
def execAtomAdd (f : AT) (s : State) : Out := atomicInstr s f 0 1 false true

/-- atom.min.s (07 R187). -/
def execAtomMinS (f : AT) (s : State) : Out := atomicInstr s f 1 1 false true

/-- atom.min.n (07 R187). -/
def execAtomMinN (f : AT) (s : State) : Out := atomicInstr s f 2 1 false true

/-- atom.max.s (07 R187). -/
def execAtomMaxS (f : AT) (s : State) : Out := atomicInstr s f 3 1 false true

/-- atom.max.n (07 R187). -/
def execAtomMaxN (f : AT) (s : State) : Out := atomicInstr s f 4 1 false true

/-- atom.and (07 R187). -/
def execAtomAnd (f : AT) (s : State) : Out := atomicInstr s f 5 1 false true

/-- atom.or (07 R187). -/
def execAtomOr (f : AT) (s : State) : Out := atomicInstr s f 6 1 false true

/-- atom.xor (07 R187). -/
def execAtomXor (f : AT) (s : State) : Out := atomicInstr s f 7 1 false true

/-- atom.exch (07 R187). -/
def execAtomExch (f : AT) (s : State) : Out := atomicInstr s f 8 1 false true

/-- atom.cas (07 R187). -/
def execAtomCas (f : AT) (s : State) : Out := atomicInstr s f 9 2 false true

/-- atom.add.f32 (07 R187, R188). -/
def execAtomAddF32 (f : AT) (s : State) : Out := atomicInstr s f 10 1 false true

/-- atom.add.64 (07 R187). -/
def execAtomAdd64 (f : AT) (s : State) : Out := atomicInstr s f 11 2 true true

/-- atom.exch.64 (07 R187). -/
def execAtomExch64 (f : AT) (s : State) : Out := atomicInstr s f 12 2 true true

/-- atom.cas.64 (07 R187). -/
def execAtomCas64 (f : AT) (s : State) : Out := atomicInstr s f 13 4 true true

/-- atom.ld (07 R187). -/
def execAtomLd (f : AT) (s : State) : Out := atomicInstr s f 14 0 false true

/-- atom.st (07 R187). -/
def execAtomSt (f : AT) (s : State) : Out := atomicInstr s f 15 1 false false

/-- red.add (07 R187). -/
def execRedAdd (f : AT) (s : State) : Out := atomicInstr s f 16 1 false false

/-- red.add.f32 (07 R187, R188). -/
def execRedAddF32 (f : AT) (s : State) : Out := atomicInstr s f 17 1 false false

/-- red.min.s (07 R187). -/
def execRedMinS (f : AT) (s : State) : Out := atomicInstr s f 18 1 false false

/-- red.max.s (07 R187). -/
def execRedMaxS (f : AT) (s : State) : Out := atomicInstr s f 19 1 false false

/-- red.and (07 R187). -/
def execRedAnd (f : AT) (s : State) : Out := atomicInstr s f 20 1 false false

/-- red.or (07 R187). -/
def execRedOr (f : AT) (s : State) : Out := atomicInstr s f 21 1 false false

/-- red.xor (07 R187). -/
def execRedXor (f : AT) (s : State) : Out := atomicInstr s f 22 1 false false

/-- red.add.64 (07 R187). -/
def execRedAdd64 (f : AT) (s : State) : Out := atomicInstr s f 23 2 true false

end Sys2Proof.Machine
end

