-- ==== Sys2Proof/Machine/Control.lean ====
section
/-!
DEFINITION. Control flow and control functions (03 R76-R78, 05 R137-R143).
-/
namespace Sys2Proof.Machine

/-- The next PC of every active lane: the target where the instruction acts, the following instruction elsewhere. -/
def Issuer.nextPcs (x : Issuer) (h : Hdr) (target : Nat → Dword) : List (Nat × Nat) :=
  (lanesOf x.t.width x.path.mask).map fun l =>
    (l, (if (x.acts h).getLsbD l then target l else x.path.pc + 4).toNat)

/-- bra: by the lane predicate (05 R137). -/
def execBra (f : BR) (s : State) : Out :=
  withIssuer s fun x => branchLanes s x f.h.s [] (x.nextPcs f.h fun _ => branchTarget x.path.pc f.off)

/-- bra.u: the whole path by the uniform predicate (05 R137). -/
def execBraU (f : BR) (s : State) : Out :=
  withIssuer s fun x =>
    let next := if x.uacts f.h then branchTarget x.path.pc f.off else x.path.pc + 4
    s.modTeam x.tk fun t => (t.modPath x.pi fun p => { p with pc := next }).pass x.pi 0 f.h.s

/-- call: the return address to the acting lanes' pair, then as bra (05 R138). -/
def execCall (f : CL) (s : State) : Out :=
  withIssuer s fun x =>
    branchLanes s x f.h.s ((x.lanes f.h).flatMap fun l => wWrites (2 * f.w.toNat) l (x.path.pc + 4))
      (x.nextPcs f.h fun _ => branchTarget x.path.pc f.off)

/-- An indirect transfer: an odd target raises the fetch fault before any lane moves (03 R77, 05 R139). -/
def jumpLanes (s : State) (x : Issuer) (h : Hdr) (a : Nat) (ws : List RegWrite) : State :=
  match (x.lanes h).filter fun l => (x.t.wr a l).getLsbD 0 with
  | [] => branchLanes s x h.s ws (x.nextPcs h fun l => x.t.wr a l)
  | l :: ls => trapLanes s x 0x03 2 (x.t.wr a l) (l :: ls)

/-- jmp (05 R139). -/
def execJmp (f : UA) (s : State) : Out := withIssuer s fun x => jumpLanes s x f.h f.a.toNat []

/-- callr: the targets are read before the return address is written (05 R139). -/
def execCallr (f : UN) (s : State) : Out :=
  withIssuer s fun x =>
    jumpLanes s x f.h f.a.toNat ((x.lanes f.h).flatMap fun l => wWrites f.d.toNat l (x.path.pc + 4))

/-- ret: the effect of jmp (05 R139). -/
def execRet (f : UA) (s : State) : Out := withIssuer s fun x => jumpLanes s x f.h f.a.toNat []

/-- adr: the target address to a uniform pair (05 R140). -/
def execAdr (f : CL) (s : State) : Out :=
  shortOp s f.h 4 fun x =>
    (if x.uacts f.h then zWrites (2 * f.w.toNat) (branchTarget x.path.pc f.off) else [], 0)

/-- nop (05 R141). -/
def execNop (h : Hdr) (s : State) : Out := shortOp s h 4 fun _ => ([], 0)

/-- Lanes leave a path: their results in flight are discarded, and an emptied path is deleted (02 R48, 05 R141). -/
def Team.exitLanes (t : Team) (pi : Nat) (gone : Mask) (mark : Bool) : Team :=
  let t := t.discardLong gone
  match t.path pi with
  | none => t
  | some p =>
    if p.mask &&& ~~~gone = 0 then
      { t with
        paths := kdel t.paths pi,
        long := t.long.map fun (r : LongRes) => { r with owners := r.owners.filter fun i => i != pi },
        replay := t.replay.map fun (r : Replay) =>
          { r with owners := r.owners.filter fun i => i != pi, before := r.before.filter fun i => i != pi } }
    else (t.modPath pi fun p => { p with mask := p.mask &&& ~~~gone }).pass pi 4 mark

/-- The supervisor's engine commands of a path that has ended, and their traps that wait to be taken, belong to no path,
whichever comes to bear its index (19 R398). -/
def forgetPath (s : State) (tk pi : Nat) : State :=
  match s.team tk with
  | some t =>
    if t.sup && (t.path pi).isNone then renameCmds s tk [pi] 0xFF else s
  | none => s

/-- exit (02 R48). -/
def execExit (h : Hdr) (s : State) : Out :=
  withIssuer s fun x => forgetPath (s.modTeam x.tk fun t => t.exitLanes x.pi (x.acts h) h.s) x.tk x.pi

/-- trap: a user trap with its code, when a lane acts (05 R142); its switch marker acts when the path goes on (02 R54). -/
def execTrap (f : CTI) (s : State) : Out :=
  withIssuer s fun x =>
    if (x.lanes f.h).isEmpty then s.pass x 4 f.h.s
    else
      takeTrap (s.modPath x.tk x.pi fun p => { p with mark := f.h.s }) x 0x04 f.i.toNat 0 (x.acts f.h) 0 (f.i.setWidth 32)

/-- prog: a progress counter of the partition counts, when the launch is profiled and a lane acts (05 R141). -/
def execProg (f : CTP) (s : State) : Out :=
  withIssuer s fun x =>
    let s := if x.t.profile && !(x.lanes f.h).isEmpty then
        s.modPart (pnumOf x.tk) fun p =>
          { p with progress := dput 0 p.progress f.i.toNat (dget 0 p.progress f.i.toNat + 1) }
      else s
    s.pass x 4 f.h.s

/-- rand vd: each acting lane gets its own word, a long result (05 R141, log 7). -/
def execRand (f : UD) (s : State) : Out :=
  withIssuer s fun x =>
    let ls := x.lanes f.h
    let ws := ls.zipIdx.map fun e => RegWrite.v f.d.toNat e.1 (Config.entropy (s.fresh + e.2))
    let s := { s with fresh := s.fresh + ls.length }
    (s.modTeam x.tk fun t => t.addLong none [x.pi] ws 0).pass x 4 f.h.s

/-- rand sd: one word (05 R141, log 7). -/
def execRandUniform (f : UD) (s : State) : Out :=
  withIssuer s fun x =>
    let ws := if x.uacts f.h then [RegWrite.s f.d.toNat (Config.entropy s.fresh)] else []
    let s := { s with fresh := s.fresh + ws.length }
    (s.modTeam x.tk fun t => t.addLong none [x.pi] ws 0).pass x 4 f.h.s

/-- brk: in a debugged team with an acting lane, the path is held after the instruction and the stop is recorded
(05 R143, 18 R388). -/
def execBrk (f : CTI) (s : State) : Out :=
  withIssuer s fun x =>
    let s' := s.pass x 4 f.h.s
    if x.t.debug && !(x.lanes f.h).isEmpty then
      debugStop (s'.modPath x.tk x.pi fun p => { p with hold := true }) x.tk x.t x.pi x.path.pc x.path.mask 1 f.i.toNat
    else s'

end Sys2Proof.Machine
end

