-- ==== Sys2Proof/Machine/IntLane.lean ====
section
/-!
DEFINITION. Integer and logic instructions of the lanes (03 R62, 05 R127-R133, R136).
-/
namespace Sys2Proof.Machine

/-- iadd.c (03 R62). -/
def execIaddC (f : C16) (s : State) : Out := laneC s f (fun a b => a + b)

/-- isub.c (03 R62). -/
def execIsubC (f : C16) (s : State) : Out := laneC s f (fun a b => a - b)

/-- iand.c (03 R62). -/
def execIandC (f : C16) (s : State) : Out := laneC s f (fun a b => a &&& b)

/-- ior.c (03 R62). -/
def execIorC (f : C16) (s : State) : Out := laneC s f (fun a b => a ||| b)

/-- ixor.c (03 R62). -/
def execIxorC (f : C16) (s : State) : Out := laneC s f (fun a b => a ^^^ b)

/-- ishl.c (03 R62). -/
def execIshlC (f : C16) (s : State) : Out := laneC s f (fun a b => shl a b.toNat)

/-- ishr.c (03 R62). -/
def execIshrC (f : C16) (s : State) : Out := laneC s f (fun a b => shr a b.toNat)

/-- isar.c (03 R62). -/
def execIsarC (f : C16) (s : State) : Out := laneC s f (fun a b => sar a b.toNat)

/-- mov.c (03 R62). -/
def execMovC (f : C16) (s : State) : Out := laneC s f (fun _ b => b)

/-- addi.c (03 R62). -/
def execAddiC (f : C16I) (s : State) : Out := 
  laneShort s (cHdr f.s) 2 fun t l => [.v f.d.toNat l (t.vr f.d.toNat l + f.i.signExtend 32)]

/-- imul.c (03 R62). -/
def execImulC (f : C16) (s : State) : Out := laneC s f (fun a b => a * b)

/-- iadd (05 R127). -/
def execIadd (f : RR) (s : State) : Out := laneRR s f (fun a b => a + b)

/-- isub (05 R127). -/
def execIsub (f : RR) (s : State) : Out := laneRR s f (fun a b => a - b)

/-- imul (05 R127). -/
def execImul (f : RR) (s : State) : Out := laneRR s f (fun a b => a * b)

/-- imad (05 R127). -/
def execImad (f : RR) (s : State) : Out := lane3 s f (fun a b d => a * b + d)

/-- mulhi.s (05 R127). -/
def execMulhiS (f : RR) (s : State) : Out := laneRR s f (mulhiS)

/-- mulhi.n (05 R127). -/
def execMulhiN (f : RR) (s : State) : Out := laneRR s f (mulhiN)

/-- mulw.s (05 R127). -/
def execMulwS (f : RR) (s : State) : Out := laneRRW s f mulwS

/-- mulw.n (05 R127). -/
def execMulwN (f : RR) (s : State) : Out := laneRRW s f mulwN

/-- iand (05 R127). -/
def execIand (f : RR) (s : State) : Out := laneRR s f (fun a b => a &&& b)

/-- ior (05 R127). -/
def execIor (f : RR) (s : State) : Out := laneRR s f (fun a b => a ||| b)

/-- ixor (05 R127). -/
def execIxor (f : RR) (s : State) : Out := laneRR s f (fun a b => a ^^^ b)

/-- iandn (05 R127). -/
def execIandn (f : RR) (s : State) : Out := laneRR s f (fun a b => a &&& ~~~b)

/-- ishl (05 R128). -/
def execIshl (f : RR) (s : State) : Out := laneRR s f (fun a b => shl a b.toNat)

/-- ishr (05 R128). -/
def execIshr (f : RR) (s : State) : Out := laneRR s f (fun a b => shr a b.toNat)

/-- isar (05 R128). -/
def execIsar (f : RR) (s : State) : Out := laneRR s f (fun a b => sar a b.toNat)

/-- irot (05 R128). -/
def execIrot (f : RR) (s : State) : Out := laneRR s f (fun a b => rot a b.toNat)

/-- imin.s (05 R127). -/
def execIminS (f : RR) (s : State) : Out := laneRR s f (fun a b => if a.toInt ≤ b.toInt then a else b)

/-- imin.n (05 R127). -/
def execIminN (f : RR) (s : State) : Out := laneRR s f (fun a b => if a.toNat ≤ b.toNat then a else b)

/-- imax.s (05 R127). -/
def execImaxS (f : RR) (s : State) : Out := laneRR s f (fun a b => if b.toInt ≤ a.toInt then a else b)

/-- imax.n (05 R127). -/
def execImaxN (f : RR) (s : State) : Out := laneRR s f (fun a b => if b.toNat ≤ a.toNat then a else b)

/-- bfe.s (05 R129). -/
def execBfeS (f : RR) (s : State) : Out := laneRR s f (bfe true)

/-- bfe.n (05 R129). -/
def execBfeN (f : RR) (s : State) : Out := laneRR s f (bfe false)

/-- bfi (05 R129). -/
def execBfi (f : RR) (s : State) : Out := lane3 s f bfInsert

/-- sel: every active lane, with the selector in the predicate field (05 R130). -/
def execSel (f : RR) (s : State) : Out := 
  laneShort s (cHdr f.h.s) 4 fun t l =>
    [.v f.d.toNat l (if (predMask t f.h).getLsbD l then t.vr f.a.toNat l else t.vr f.b.toNat l)]

/-- iadd.64 (05 R131). -/
def execIadd64 (f : RR) (s : State) : Out := laneWWW s f (fun a b => a + b)

/-- isub.64 (05 R131). -/
def execIsub64 (f : RR) (s : State) : Out := laneWWW s f (fun a b => a - b)

/-- ishl.64 (05 R131). -/
def execIshl64 (f : RR) (s : State) : Out := laneWWV s f (fun a b => shl a b.toNat)

/-- ishr.64 (05 R131). -/
def execIshr64 (f : RR) (s : State) : Out := laneWWV s f (fun a b => shr a b.toNat)

/-- addi (05 R132). -/
def execAddi (f : RI) (s : State) : Out := laneRI s f (fun a i => a + imm6 i)

/-- shli (05 R132). -/
def execShli (f : RI) (s : State) : Out := laneRI s f (fun a i => shl a i.toNat)

/-- shri (05 R132). -/
def execShri (f : RI) (s : State) : Out := laneRI s f (fun a i => shr a i.toNat)

/-- sari (05 R132). -/
def execSari (f : RI) (s : State) : Out := laneRI s f (fun a i => sar a i.toNat)

/-- popc (05 R133). -/
def execPopc (f : UN) (s : State) : Out := laneUN s f (fun a => BitVec.ofNat 32 (popCount 32 a.toNat))

/-- clz (05 R133). -/
def execClz (f : UN) (s : State) : Out := laneUN s f (fun a => BitVec.ofNat 32 (leadingZeros 32 a.toNat))

/-- ctz (05 R133). -/
def execCtz (f : UN) (s : State) : Out := laneUN s f (fun a => BitVec.ofNat 32 (trailingZeros 32 a.toNat))

/-- brev (05 R133). -/
def execBrev (f : UN) (s : State) : Out := laneUN s f (fun a => BitVec.ofNat 32 (reverseBits 32 a.toNat))

/-- ineg (05 R133). -/
def execIneg (f : UN) (s : State) : Out := laneUN s f (fun a => 0 - a)

/-- inot (05 R133). -/
def execInot (f : UN) (s : State) : Out := laneUN s f (fun a => ~~~a)

/-- iabs (05 R133). -/
def execIabs (f : UN) (s : State) : Out := laneUN s f (fun a => if a.toInt < 0 then 0 - a else a)

/-- sext.b8 (05 R133). -/
def execSextB8 (f : UN) (s : State) : Out := laneUN s f (fun a => (a.setWidth 8).signExtend 32)

/-- sext.b16 (05 R133). -/
def execSextB16 (f : UN) (s : State) : Out := laneUN s f (fun a => (a.setWidth 16).signExtend 32)

/-- zext.b8 (05 R133). -/
def execZextB8 (f : UN) (s : State) : Out := laneUN s f (fun a => a &&& 0xFF)

/-- zext.b16 (05 R133). -/
def execZextB16 (f : UN) (s : State) : Out := laneUN s f (fun a => a &&& 0xFFFF)

/-- popc.64 (05 R133). -/
def execPopc64 (f : UN) (s : State) : Out := laneUNW s f (fun a => BitVec.ofNat 32 (popCount 64 a.toNat))

/-- clz.64 (05 R133). -/
def execClz64 (f : UN) (s : State) : Out := laneUNW s f (fun a => BitVec.ofNat 32 (leadingZeros 64 a.toNat))

/-- ineg.64 (05 R133). -/
def execIneg64 (f : UN) (s : State) : Out := laneUNWW s f (fun a => 0 - a)

/-- setp with u = 0 (05 R136). -/
def execSetp (f : PC) (s : State) : Out := 
  laneShort s f.h 4 fun t l => [.p f.pd.toNat l (intCond f.cc.toNat (t.vr f.a.toNat l) (t.vr f.b.toNat l))]

end Sys2Proof.Machine
end

