-- ==== Sys2Proof/Machine/LaneCross.lean ====
section
/-!
DEFINITION. Lane-cross instructions (05 R145-R150).
-/
namespace Sys2Proof.Machine

/-- shfl: each participating lane reads va from its source lane, or keeps its own va (05 R146). -/
def shflOp (s : State) (f : RR) (src : Nat → Nat → Option Nat) : Out :=
  crossOp s f.h fun x =>
    ((x.lanes f.h).map fun l =>
      let from_ := match src l (x.t.vr f.b.toNat l).toNat with
        | some k => if k < x.t.width ∧ (x.acts f.h).getLsbD k then k else l
        | none => l
      RegWrite.v f.d.toNat l (x.t.vr f.a.toNat from_), 0)

/-- shfl.idx (05 R146). -/
def execShflIdx (f : RR) (s : State) : Out := shflOp s f fun _ k => some k
/-- shfl.xor (05 R146). -/
def execShflXor (f : RR) (s : State) : Out := shflOp s f fun l k => some (l ^^^ k)
/-- shfl.up (05 R146). -/
def execShflUp (f : RR) (s : State) : Out := shflOp s f fun l k => if k ≤ l then some (l - k) else none
/-- shfl.down (05 R146). -/
def execShflDown (f : RR) (s : State) : Out := shflOp s f fun l k => some (l + k)

/-- The participating lanes in which predicate ps holds (05 R147). -/
def Issuer.voters (x : Issuer) (h : Hdr) (ps : BitVec 3) : List Nat := (x.lanes h).filter fun l => x.t.pr ps.toNat l

/-- vote into a lane predicate (05 R147). -/
def votePred (s : State) (f : VTP) (g : Issuer → Bool) : Out :=
  crossOp s f.h fun x => ((x.lanes f.h).map fun l => RegWrite.p f.pd.toNat l (g x), 0)

/-- vote into a uniform predicate, unless no lane participates (05 R147). -/
def votePredU (s : State) (f : VTP) (g : Issuer → Bool) : Out :=
  crossOp s f.h fun x => (if (x.lanes f.h).isEmpty then [] else [RegWrite.q f.pd.toNat (g x)], 0)

/-- Some participating lane has the predicate. -/
def voteSome (h : Hdr) (ps : BitVec 3) (x : Issuer) : Bool := !(x.voters h ps).isEmpty
/-- Every participating lane has the predicate. -/
def voteEvery (h : Hdr) (ps : BitVec 3) (x : Issuer) : Bool := (x.voters h ps).length == (x.lanes h).length

/-- vote.any (05 R147). -/
def execVoteAny (f : VTP) (s : State) : Out := votePred s f (voteSome f.h f.ps)
/-- vote.any into a uniform predicate (05 R147). -/
def execVoteAnyUniform (f : VTP) (s : State) : Out := votePredU s f (voteSome f.h f.ps)
/-- vote.all (05 R147). -/
def execVoteAll (f : VTP) (s : State) : Out := votePred s f (voteEvery f.h f.ps)
/-- vote.all into a uniform predicate (05 R147). -/
def execVoteAllUniform (f : VTP) (s : State) : Out := votePredU s f (voteEvery f.h f.ps)

/-- Ballot word j (05 R147). -/
def ballot (x : Issuer) (h : Hdr) (ps : BitVec 3) (j : Nat) : Word := maskWord (maskOf (x.voters h ps)) j

/-- vote.count (05 R147). -/
def execVoteCount (f : VTR) (s : State) : Out :=
  crossOp s f.h fun x =>
    ((x.lanes f.h).map fun l => RegWrite.v f.d.toNat l (BitVec.ofNat 32 (x.voters f.h f.ps).length), 0)
/-- vote.count into a uniform register (05 R147). -/
def execVoteCountUniform (f : VTR) (s : State) : Out :=
  crossOp s f.h fun x =>
    (if (x.lanes f.h).isEmpty then [] else [RegWrite.s f.d.toNat (BitVec.ofNat 32 (x.voters f.h f.ps).length)], 0)
/-- vote.ballot: each lane gets its pass's word (05 R147). -/
def execVoteBallot (f : VTR) (s : State) : Out :=
  crossOp s f.h fun x => ((x.lanes f.h).map fun l => RegWrite.v f.d.toNat l (ballot x f.h f.ps (l / 32)), 0)
/-- vote.ballot into consecutive uniform registers (05 R147). -/
def execVoteBallotUniform (f : VTR) (s : State) : Out :=
  crossOp s f.h fun x =>
    (if (x.lanes f.h).isEmpty then []
     else (List.range (x.t.width / 32)).map fun j => RegWrite.s (f.d.toNat + j) (ballot x f.h f.ps j), 0)

/-- scan: prefix sums in ascending lane order, from a start value and by an addition with flags (05 R148). -/
def scanOp (s : State) (f : UN) (exclusive : Bool) (start : Word) (add : Word → Word → Word → Word × Word) : Out :=
  crossOp s f.h fun x =>
    let r := (x.lanes f.h).foldl
      (fun (acc : List RegWrite × Word × Word) l =>
        let sum := add x.t.fpm acc.2.1 (x.t.vr f.a.toNat l)
        (acc.1 ++ [RegWrite.v f.d.toNat l (if exclusive then acc.2.1 else sum.1)], sum.1, acc.2.2 ||| sum.2))
      ([], start, 0)
    (r.1, r.2.2)

/-- Wrapping integer addition. -/
def addI32 (_fpm a b : Word) : Word × Word := (a + b, 0)
/-- fadd32 with its flags (05 conventions). -/
def addF32 (fpm a b : Word) : Word × Word :=
  let r := FFmt.f32.add fpm a.toNat b.toNat
  (BitVec.ofNat 32 r.1, r.2)

/-- scan.inc.i32 (05 R148). -/
def execScanIncI32 (f : UN) (s : State) : Out := scanOp s f false 0 addI32
/-- scan.exc.i32 (05 R148). -/
def execScanExcI32 (f : UN) (s : State) : Out := scanOp s f true 0 addI32
/-- scan.inc.f32, from -0.0 (05 R148). -/
def execScanIncF32 (f : UN) (s : State) : Out := scanOp s f false 0x80000000 addF32
/-- scan.exc.f32, from -0.0 (05 R148). -/
def execScanExcF32 (f : UN) (s : State) : Out := scanOp s f true 0x80000000 addF32

/-- The participating lanes with lane l's key, ascending (05 R149). -/
def Issuer.group (x : Issuer) (f : MT) (l : Nat) : List Nat :=
  (x.lanes f.h).filter fun k => x.t.vr f.a.toNat k == x.t.vr f.a.toNat l

/-- The leader of lane l's group: its lowest lane. -/
def Issuer.leader (x : Issuer) (f : MT) (l : Nat) : Nat := (x.group f l).headD l

/-- The predicate that match gives every participating lane (05 R149). -/
def matchPreds (x : Issuer) (f : MT) : List RegWrite :=
  (x.lanes f.h).map fun l => RegWrite.p f.pd.toNat l (x.leader f l == l)

/-- match.lead (05 R149). -/
def execMatchLead (f : MT) (s : State) : Out :=
  crossOp s f.h fun x =>
    (matchPreds x f ++ (x.lanes f.h).map fun l => RegWrite.v f.d.toNat l (BitVec.ofNat 32 (x.leader f l)), 0)
/-- match.rank (05 R149). -/
def execMatchRank (f : MT) (s : State) : Out :=
  crossOp s f.h fun x =>
    (matchPreds x f ++ (x.lanes f.h).map fun l =>
      RegWrite.v f.d.toNat l (BitVec.ofNat 32 ((x.group f l).filter fun k => k < l).length), 0)

/-- match.sum: each leader's vd becomes the sum of its group's in ascending lane order (05 R149). -/
def matchSum (s : State) (f : MT) (start : Word) (add : Word → Word → Word → Word × Word) : Out :=
  crossOp s f.h fun x =>
    ((x.lanes f.h).filter fun l => x.leader f l == l).foldl
      (fun (acc : List RegWrite × Word) l =>
        let r := (x.group f l).foldl
          (fun (a : Word × Word) k =>
            let sum := add x.t.fpm a.1 (x.t.vr f.d.toNat k)
            (sum.1, a.2 ||| sum.2)) (start, 0)
        (acc.1 ++ [RegWrite.v f.d.toNat l r.1], acc.2 ||| r.2))
      (matchPreds x f, 0)

/-- match.sum.i32 (05 R149). -/
def execMatchSumI32 (f : MT) (s : State) : Out := matchSum s f 0 addI32
/-- match.sum.f32, from -0.0 (05 R149). -/
def execMatchSumF32 (f : MT) (s : State) : Out := matchSum s f 0x80000000 addF32

/-- regroup: a team with one path waits for its cohort, its lanes' keys read; with more it raises the divergent-regroup trap
(02 R59, 05 R125, R150). -/
def execRegroup (f : RG) (s : State) : Out :=
  withIssuer s fun x =>
    if 2 ≤ x.t.paths.length then trapNone s x 0x06 0 0
    else
      cohortTry (s.modTeam x.tk fun t =>
        { t.modPath x.pi fun p => { p with mark := f.s } with
            wait := .regroup x.pi ((lanesOf x.t.width x.path.mask).map fun l => (l, x.t.vr f.a.toNat l)) }) x.tk

end Sys2Proof.Machine
end

