-- ==== Sys2Proof/Machine/Mode.lean ====
section
/-!
DEFINITION. FMT, FPM and FST moves (04 R117).
-/
namespace Sys2Proof.Machine

/-- A uniform register from the format or mode state. -/
def uniReads (s : State) (f : UD) (g : Issuer → Word) : Out :=
  shortOp s f.h 4 fun x => (if x.uacts f.h then [.s f.d.toNat (g x)] else [], 0)

/-- rdfmt (04 R117). -/
def execRdfmt (f : UD) (s : State) : Out := uniReads s f (fun x => x.path.fmt)

/-- wrfmt: the current FMT of the path; its entry FMT stays (04 R117). -/
def execWrfmt (f : UA) (s : State) : Out := 
  withIssuer s fun x =>
    (if x.uacts f.h then s.modPath x.tk x.pi fun p => { p with fmt := x.t.sr f.a.toNat } else s).pass x 4 f.h.s

/-- rdfpm (04 R117). -/
def execRdfpm (f : UD) (s : State) : Out := uniReads s f (fun x => x.t.fpm)

/-- wrfpm: a reserved value raises the illegal-instruction trap when it acts (04 R117). -/
def execWrfpm (f : UA) (s : State) : Out := 
  withIssuer s fun x =>
    let v := x.t.sr f.a.toNat
    if x.uacts f.h && (decide (2 ≤ nbits v.toNat 5 2) || decide (5 ≤ nbits v.toNat 0 3)) then trapNone s x 0x01 1 0
    else
      (if x.uacts f.h then s.modTeam x.tk fun t => { t with fpm := v &&& 0xFF } else s).pass x 4 f.h.s

/-- rdfst (04 R117). -/
def execRdfst (f : UD) (s : State) : Out := uniReads s f (fun x => x.t.fst)

/-- wrfst (04 R117). -/
def execWrfst (f : UA) (s : State) : Out := 
  withIssuer s fun x =>
    (if x.uacts f.h then s.modTeam x.tk fun t => { t with fst := x.t.sr f.a.toNat &&& 0x7F } else s).pass x 4 f.h.s

/-- clrfst (04 R117). -/
def execClrfst (f : UA) (s : State) : Out := 
  withIssuer s fun x =>
    (if x.uacts f.h then s.modTeam x.tk fun t => { t with fst := x.t.fst &&& ~~~(x.t.sr f.a.toNat &&& 0x7F) } else s).pass
      x 4 f.h.s

end Sys2Proof.Machine
end

