-- ==== Sys2Proof/Machine/Move.lean ====
section
/-!
DEFINITION. Moves, special values and immediates (03 R72-R74, 05 R135).
-/
namespace Sys2Proof.Machine

/-- The special values of 03 R73 but %lane and %clock (02 R43); the supervisor is a team of its own (15 R318). -/
def special (s : State) (x : Issuer) (n : Nat) : Word :=
  let g := if x.t.sup then none else s.grid x.t.gid
  BitVec.ofNat 32 (match n with
    | 1 => x.t.team
    | 2 => if x.t.sup then 1 else ((klook s.cohorts x.t.cid).map fun c => c.teams.length).getD 1
    | 3 => x.t.cohort
    | 4 => (g.map Grid.n).getD 1
    | 5 => x.t.gid % 65536
    | 6 => (g.map Grid.depth).getD 1
    | 7 => x.t.leaf.toNat
    | 8 => x.t.tile.toNat
    | 9 => x.t.klo.toNat
    | 10 => x.t.khi.toNat
    | 11 => x.t.fixup.toNat
    | _ => x.pi)

/-- Bits [23:12] replaced (03 R74). -/
def slice1 (d : Word) (i : BitVec 12) : Word := (d &&& 0xFF000FFF) ||| (i.setWidth 32 <<< 12)
/-- Bits [31:24] replaced (03 R74). -/
def slice2 (d : Word) (i : BitVec 8) : Word := (d &&& 0x00FFFFFF) ||| (i.setWidth 32 <<< 24)

/-- mov vd, va (03 R72). -/
def execMovVV (f : UN) (s : State) : Out := laneUN s f (fun a => a)

/-- mov vd, sa (03 R72). -/
def execMovVS (f : UN) (s : State) : Out := laneShort s f.h 4 fun t l => [.v f.d.toNat l (t.sr f.a.toNat)]

/-- mov sd, sa (03 R72). -/
def execMovSS (f : UN) (s : State) : Out := uniUN s f (fun a => a)

/-- mov sd, va: the elected lane (03 R72, 05 R135). -/
def execMovSV (f : UN) (s : State) : Out := 
  shortOp s f.h 4 fun x =>
    (match x.elected f.h with
     | some l => [.s f.d.toNat (x.t.vr f.a.toNat l)]
     | none => [], 0)

/-- mov vd, %name, and mov wd, %clock (03 R73). -/
def execMovVSpecial (f : UN) (s : State) : Out := 
  shortOp s f.h 4 fun x =>
    ((x.lanes f.h).flatMap fun l =>
      if f.a.toNat = 13 then wWrites f.d.toNat l (s.now x.t.die)
      else [.v f.d.toNat l (if f.a.toNat = 0 then BitVec.ofNat 32 l else special s x f.a.toNat)], 0)

/-- mov sd, %name, and mov zd, %clock (03 R73). -/
def execMovSSpecial (f : UN) (s : State) : Out := 
  shortOp s f.h 4 fun x =>
    (if x.uacts f.h then
      if f.a.toNat = 13 then zWrites f.d.toNat (s.now x.t.die) else [.s f.d.toNat (special s x f.a.toNat)]
     else [], 0)

/-- mov wd, wa (03 R72). -/
def execMovWW (f : UN) (s : State) : Out := laneUNWW s f (fun a => a)

/-- mov zd, za (03 R72). -/
def execMovZZ (f : UN) (s : State) : Out := uniUNZZ s f (fun a => a)

/-- mov pd, va (03 R72). -/
def execMovPV (f : UN) (s : State) : Out := laneShort s f.h 4 fun t l => [.p f.d.toNat l (t.vr f.a.toNat l != 0)]

/-- mov vd, pa (03 R72). -/
def execMovVP (f : UN) (s : State) : Out := laneShort s f.h 4 fun t l => [.v f.d.toNat l (if t.pr f.a.toNat l then 1 else 0)]

/-- mov qd, sa (03 R72). -/
def execMovQS (f : UN) (s : State) : Out := uniShort s f.h fun t => [.q f.d.toNat (t.sr f.a.toNat != 0)]

/-- mov sd, qa (03 R72). -/
def execMovSQ (f : UN) (s : State) : Out := uniShort s f.h fun t => [.s f.d.toNat (if t.qr f.a.toNat then 1 else 0)]

/-- mov wd, za (03 R72). -/
def execMovWZ (f : UN) (s : State) : Out := laneShort s f.h 4 fun t l => wWrites f.d.toNat l (t.zr f.a.toNat)

/-- movi (03 R74). -/
def execMovi (f : LI) (s : State) : Out := laneShort s f.h 4 fun _ l => [.v f.d.toNat l (f.i.signExtend 32)]

/-- movi.h1 (03 R74). -/
def execMoviH1 (f : LI) (s : State) : Out := laneShort s f.h 4 fun t l => [.v f.d.toNat l (slice1 (t.vr f.d.toNat l) f.i)]

/-- movi.h2 (03 R74). -/
def execMoviH2 (f : LI8) (s : State) : Out := laneShort s f.h 4 fun t l => [.v f.d.toNat l (slice2 (t.vr f.d.toNat l) f.i)]

/-- movi of a uniform register (03 R74). -/
def execMoviUniform (f : LI) (s : State) : Out := uniShort s f.h fun _ => [.s f.d.toNat (f.i.signExtend 32)]

/-- movi.h1 of a uniform register (03 R74). -/
def execMoviH1Uniform (f : LI) (s : State) : Out := uniShort s f.h fun t => [.s f.d.toNat (slice1 (t.sr f.d.toNat) f.i)]

/-- movi.h2 of a uniform register (03 R74). -/
def execMoviH2Uniform (f : LI8) (s : State) : Out := uniShort s f.h fun t => [.s f.d.toNat (slice2 (t.sr f.d.toNat) f.i)]

end Sys2Proof.Machine
end

