-- ==== Sys2Proof/Machine/Uniform.lean ====
section
/-!
DEFINITION. Integer and logic instructions of the uniform registers (05 R133, R134, R136).
-/
namespace Sys2Proof.Machine

/-- popc on a uniform register (05 R133). -/
def execPopcUniform (f : UN) (s : State) : Out := uniUN s f (fun a => BitVec.ofNat 32 (popCount 32 a.toNat))

/-- clz on a uniform register (05 R133). -/
def execClzUniform (f : UN) (s : State) : Out := uniUN s f (fun a => BitVec.ofNat 32 (leadingZeros 32 a.toNat))

/-- ctz on a uniform register (05 R133). -/
def execCtzUniform (f : UN) (s : State) : Out := uniUN s f (fun a => BitVec.ofNat 32 (trailingZeros 32 a.toNat))

/-- brev on a uniform register (05 R133). -/
def execBrevUniform (f : UN) (s : State) : Out := uniUN s f (fun a => BitVec.ofNat 32 (reverseBits 32 a.toNat))

/-- ineg on a uniform register (05 R133). -/
def execInegUniform (f : UN) (s : State) : Out := uniUN s f (fun a => 0 - a)

/-- inot on a uniform register (05 R133). -/
def execInotUniform (f : UN) (s : State) : Out := uniUN s f (fun a => ~~~a)

/-- iabs on a uniform register (05 R133). -/
def execIabsUniform (f : UN) (s : State) : Out := uniUN s f (fun a => if a.toInt < 0 then 0 - a else a)

/-- sext.b8 on a uniform register (05 R133). -/
def execSextB8Uniform (f : UN) (s : State) : Out := uniUN s f (fun a => (a.setWidth 8).signExtend 32)

/-- sext.b16 on a uniform register (05 R133). -/
def execSextB16Uniform (f : UN) (s : State) : Out := uniUN s f (fun a => (a.setWidth 16).signExtend 32)

/-- zext.b8 on a uniform register (05 R133). -/
def execZextB8Uniform (f : UN) (s : State) : Out := uniUN s f (fun a => a &&& 0xFF)

/-- zext.b16 on a uniform register (05 R133). -/
def execZextB16Uniform (f : UN) (s : State) : Out := uniUN s f (fun a => a &&& 0xFFFF)

/-- popc.64 on a uniform pair (05 R133). -/
def execPopc64Uniform (f : UN) (s : State) : Out := uniUNZ s f (fun a => BitVec.ofNat 32 (popCount 64 a.toNat))

/-- clz.64 on a uniform pair (05 R133). -/
def execClz64Uniform (f : UN) (s : State) : Out := uniUNZ s f (fun a => BitVec.ofNat 32 (leadingZeros 64 a.toNat))

/-- ineg.64 on a uniform pair (05 R133). -/
def execIneg64Uniform (f : UN) (s : State) : Out := uniUNZZ s f (fun a => 0 - a)

/-- iadd on uniform registers (05 R134). -/
def execIaddUniform (f : RR) (s : State) : Out := uniRR s f (fun a b => a + b)

/-- isub on uniform registers (05 R134). -/
def execIsubUniform (f : RR) (s : State) : Out := uniRR s f (fun a b => a - b)

/-- iand on uniform registers (05 R134). -/
def execIandUniform (f : RR) (s : State) : Out := uniRR s f (fun a b => a &&& b)

/-- ior on uniform registers (05 R134). -/
def execIorUniform (f : RR) (s : State) : Out := uniRR s f (fun a b => a ||| b)

/-- ixor on uniform registers (05 R134). -/
def execIxorUniform (f : RR) (s : State) : Out := uniRR s f (fun a b => a ^^^ b)

/-- ishl on uniform registers (05 R134). -/
def execIshlUniform (f : RR) (s : State) : Out := uniRR s f (fun a b => shl a b.toNat)

/-- imul on uniform registers (05 R134). -/
def execImulUniform (f : RR) (s : State) : Out := uniRR s f (fun a b => a * b)

/-- iadd.64 on uniform pairs (05 R134). -/
def execIadd64Uniform (f : RR) (s : State) : Out := 
  uniShort s f.h fun t => zWrites f.d.toNat (t.zr f.a.toNat + t.zr f.b.toNat)

/-- addi on a uniform register (05 R134). -/
def execAddiUniform (f : RI) (s : State) : Out := uniRI s f (fun a i => a + imm6 i)

/-- shli on a uniform register (05 R134). -/
def execShliUniform (f : RI) (s : State) : Out := uniRI s f (fun a i => shl a i.toNat)

/-- shri on a uniform register (05 R134). -/
def execShriUniform (f : RI) (s : State) : Out := uniRI s f (fun a i => shr a i.toNat)

/-- addi.64 on a uniform pair (05 R134). -/
def execAddi64Uniform (f : RI) (s : State) : Out := 
  uniShort s f.h fun t => zWrites f.d.toNat (t.zr f.a.toNat + f.i.signExtend 64)

/-- setp with u = 1 (05 R136). -/
def execSetpUniform (f : PC) (s : State) : Out := 
  uniShort s f.h fun t => [.q f.pd.toNat (intCond f.cc.toNat (t.sr f.a.toNat) (t.sr f.b.toNat))]

end Sys2Proof.Machine
end

