-- ==== Sys2Proof/Machine/Dispatch.lean ====
section
/-!
DEFINITION. The dispatch of every instruction and event to its meaning, one arm for each constructor.
-/
namespace Sys2Proof.Machine

def exec (i : Instr) (s : State) : Host.Outcome State Fault Refusal :=
  match i with
  | .iaddC f => Sys2Proof.Machine.execIaddC f s
  | .isubC f => Sys2Proof.Machine.execIsubC f s
  | .iandC f => Sys2Proof.Machine.execIandC f s
  | .iorC f => Sys2Proof.Machine.execIorC f s
  | .ixorC f => Sys2Proof.Machine.execIxorC f s
  | .ishlC f => Sys2Proof.Machine.execIshlC f s
  | .ishrC f => Sys2Proof.Machine.execIshrC f s
  | .isarC f => Sys2Proof.Machine.execIsarC f s
  | .movC f => Sys2Proof.Machine.execMovC f s
  | .addiC f => Sys2Proof.Machine.execAddiC f s
  | .imulC f => Sys2Proof.Machine.execImulC f s
  | .faddC f => Sys2Proof.Machine.execFaddC f s
  | .fsubC f => Sys2Proof.Machine.execFsubC f s
  | .fmulC f => Sys2Proof.Machine.execFmulC f s
  | .fmaxC f => Sys2Proof.Machine.execFmaxC f s
  | .fminC f => Sys2Proof.Machine.execFminC f s
  | .iadd f => Sys2Proof.Machine.execIadd f s
  | .isub f => Sys2Proof.Machine.execIsub f s
  | .imul f => Sys2Proof.Machine.execImul f s
  | .imad f => Sys2Proof.Machine.execImad f s
  | .mulhiS f => Sys2Proof.Machine.execMulhiS f s
  | .mulhiN f => Sys2Proof.Machine.execMulhiN f s
  | .mulwS f => Sys2Proof.Machine.execMulwS f s
  | .mulwN f => Sys2Proof.Machine.execMulwN f s
  | .iand f => Sys2Proof.Machine.execIand f s
  | .ior f => Sys2Proof.Machine.execIor f s
  | .ixor f => Sys2Proof.Machine.execIxor f s
  | .iandn f => Sys2Proof.Machine.execIandn f s
  | .ishl f => Sys2Proof.Machine.execIshl f s
  | .ishr f => Sys2Proof.Machine.execIshr f s
  | .isar f => Sys2Proof.Machine.execIsar f s
  | .irot f => Sys2Proof.Machine.execIrot f s
  | .iminS f => Sys2Proof.Machine.execIminS f s
  | .iminN f => Sys2Proof.Machine.execIminN f s
  | .imaxS f => Sys2Proof.Machine.execImaxS f s
  | .imaxN f => Sys2Proof.Machine.execImaxN f s
  | .bfeS f => Sys2Proof.Machine.execBfeS f s
  | .bfeN f => Sys2Proof.Machine.execBfeN f s
  | .bfi f => Sys2Proof.Machine.execBfi f s
  | .sel f => Sys2Proof.Machine.execSel f s
  | .iadd64 f => Sys2Proof.Machine.execIadd64 f s
  | .isub64 f => Sys2Proof.Machine.execIsub64 f s
  | .ishl64 f => Sys2Proof.Machine.execIshl64 f s
  | .ishr64 f => Sys2Proof.Machine.execIshr64 f s
  | .addi f => Sys2Proof.Machine.execAddi f s
  | .shli f => Sys2Proof.Machine.execShli f s
  | .shri f => Sys2Proof.Machine.execShri f s
  | .sari f => Sys2Proof.Machine.execSari f s
  | .popc f => Sys2Proof.Machine.execPopc f s
  | .clz f => Sys2Proof.Machine.execClz f s
  | .ctz f => Sys2Proof.Machine.execCtz f s
  | .brev f => Sys2Proof.Machine.execBrev f s
  | .ineg f => Sys2Proof.Machine.execIneg f s
  | .inot f => Sys2Proof.Machine.execInot f s
  | .iabs f => Sys2Proof.Machine.execIabs f s
  | .sextB8 f => Sys2Proof.Machine.execSextB8 f s
  | .sextB16 f => Sys2Proof.Machine.execSextB16 f s
  | .zextB8 f => Sys2Proof.Machine.execZextB8 f s
  | .zextB16 f => Sys2Proof.Machine.execZextB16 f s
  | .popc64 f => Sys2Proof.Machine.execPopc64 f s
  | .clz64 f => Sys2Proof.Machine.execClz64 f s
  | .ineg64 f => Sys2Proof.Machine.execIneg64 f s
  | .popcUniform f => Sys2Proof.Machine.execPopcUniform f s
  | .clzUniform f => Sys2Proof.Machine.execClzUniform f s
  | .ctzUniform f => Sys2Proof.Machine.execCtzUniform f s
  | .brevUniform f => Sys2Proof.Machine.execBrevUniform f s
  | .inegUniform f => Sys2Proof.Machine.execInegUniform f s
  | .inotUniform f => Sys2Proof.Machine.execInotUniform f s
  | .iabsUniform f => Sys2Proof.Machine.execIabsUniform f s
  | .sextB8Uniform f => Sys2Proof.Machine.execSextB8Uniform f s
  | .sextB16Uniform f => Sys2Proof.Machine.execSextB16Uniform f s
  | .zextB8Uniform f => Sys2Proof.Machine.execZextB8Uniform f s
  | .zextB16Uniform f => Sys2Proof.Machine.execZextB16Uniform f s
  | .popc64Uniform f => Sys2Proof.Machine.execPopc64Uniform f s
  | .clz64Uniform f => Sys2Proof.Machine.execClz64Uniform f s
  | .ineg64Uniform f => Sys2Proof.Machine.execIneg64Uniform f s
  | .movVV f => Sys2Proof.Machine.execMovVV f s
  | .movVS f => Sys2Proof.Machine.execMovVS f s
  | .movSS f => Sys2Proof.Machine.execMovSS f s
  | .movSV f => Sys2Proof.Machine.execMovSV f s
  | .movVSpecial f => Sys2Proof.Machine.execMovVSpecial f s
  | .movSSpecial f => Sys2Proof.Machine.execMovSSpecial f s
  | .movWW f => Sys2Proof.Machine.execMovWW f s
  | .movZZ f => Sys2Proof.Machine.execMovZZ f s
  | .movPV f => Sys2Proof.Machine.execMovPV f s
  | .movVP f => Sys2Proof.Machine.execMovVP f s
  | .movQS f => Sys2Proof.Machine.execMovQS f s
  | .movSQ f => Sys2Proof.Machine.execMovSQ f s
  | .movWZ f => Sys2Proof.Machine.execMovWZ f s
  | .movi f => Sys2Proof.Machine.execMovi f s
  | .moviH1 f => Sys2Proof.Machine.execMoviH1 f s
  | .moviH2 f => Sys2Proof.Machine.execMoviH2 f s
  | .moviUniform f => Sys2Proof.Machine.execMoviUniform f s
  | .moviH1Uniform f => Sys2Proof.Machine.execMoviH1Uniform f s
  | .moviH2Uniform f => Sys2Proof.Machine.execMoviH2Uniform f s
  | .iaddUniform f => Sys2Proof.Machine.execIaddUniform f s
  | .isubUniform f => Sys2Proof.Machine.execIsubUniform f s
  | .imulUniform f => Sys2Proof.Machine.execImulUniform f s
  | .iadd64Uniform f => Sys2Proof.Machine.execIadd64Uniform f s
  | .iandUniform f => Sys2Proof.Machine.execIandUniform f s
  | .iorUniform f => Sys2Proof.Machine.execIorUniform f s
  | .ixorUniform f => Sys2Proof.Machine.execIxorUniform f s
  | .ishlUniform f => Sys2Proof.Machine.execIshlUniform f s
  | .addiUniform f => Sys2Proof.Machine.execAddiUniform f s
  | .shliUniform f => Sys2Proof.Machine.execShliUniform f s
  | .shriUniform f => Sys2Proof.Machine.execShriUniform f s
  | .addi64Uniform f => Sys2Proof.Machine.execAddi64Uniform f s
  | .setp f => Sys2Proof.Machine.execSetp f s
  | .setpUniform f => Sys2Proof.Machine.execSetpUniform f s
  | .bra f => Sys2Proof.Machine.execBra f s
  | .braU f => Sys2Proof.Machine.execBraU f s
  | .call f => Sys2Proof.Machine.execCall f s
  | .jmp f => Sys2Proof.Machine.execJmp f s
  | .callr f => Sys2Proof.Machine.execCallr f s
  | .ret f => Sys2Proof.Machine.execRet f s
  | .nop f => Sys2Proof.Machine.execNop f s
  | .exit f => Sys2Proof.Machine.execExit f s
  | .trap f => Sys2Proof.Machine.execTrap f s
  | .prog f => Sys2Proof.Machine.execProg f s
  | .rand f => Sys2Proof.Machine.execRand f s
  | .randUniform f => Sys2Proof.Machine.execRandUniform f s
  | .brk f => Sys2Proof.Machine.execBrk f s
  | .adr f => Sys2Proof.Machine.execAdr f s
  | .shflIdx f => Sys2Proof.Machine.execShflIdx f s
  | .shflXor f => Sys2Proof.Machine.execShflXor f s
  | .shflUp f => Sys2Proof.Machine.execShflUp f s
  | .shflDown f => Sys2Proof.Machine.execShflDown f s
  | .voteAny f => Sys2Proof.Machine.execVoteAny f s
  | .voteAnyUniform f => Sys2Proof.Machine.execVoteAnyUniform f s
  | .voteAll f => Sys2Proof.Machine.execVoteAll f s
  | .voteAllUniform f => Sys2Proof.Machine.execVoteAllUniform f s
  | .voteCount f => Sys2Proof.Machine.execVoteCount f s
  | .voteCountUniform f => Sys2Proof.Machine.execVoteCountUniform f s
  | .voteBallot f => Sys2Proof.Machine.execVoteBallot f s
  | .voteBallotUniform f => Sys2Proof.Machine.execVoteBallotUniform f s
  | .scanIncI32 f => Sys2Proof.Machine.execScanIncI32 f s
  | .scanExcI32 f => Sys2Proof.Machine.execScanExcI32 f s
  | .scanIncF32 f => Sys2Proof.Machine.execScanIncF32 f s
  | .scanExcF32 f => Sys2Proof.Machine.execScanExcF32 f s
  | .matchLead f => Sys2Proof.Machine.execMatchLead f s
  | .matchRank f => Sys2Proof.Machine.execMatchRank f s
  | .matchSumI32 f => Sys2Proof.Machine.execMatchSumI32 f s
  | .matchSumF32 f => Sys2Proof.Machine.execMatchSumF32 f s
  | .regroup f => Sys2Proof.Machine.execRegroup f s
  | .faddF32 f => Sys2Proof.Machine.execFaddF32 f s
  | .fsubF32 f => Sys2Proof.Machine.execFsubF32 f s
  | .fmulF32 f => Sys2Proof.Machine.execFmulF32 f s
  | .ffmaF32 f => Sys2Proof.Machine.execFfmaF32 f s
  | .fminF32 f => Sys2Proof.Machine.execFminF32 f s
  | .fmaxF32 f => Sys2Proof.Machine.execFmaxF32 f s
  | .fdivF32 f => Sys2Proof.Machine.execFdivF32 f s
  | .fcpsgnF32 f => Sys2Proof.Machine.execFcpsgnF32 f s
  | .faddF64 f => Sys2Proof.Machine.execFaddF64 f s
  | .fsubF64 f => Sys2Proof.Machine.execFsubF64 f s
  | .fmulF64 f => Sys2Proof.Machine.execFmulF64 f s
  | .ffmaF64 f => Sys2Proof.Machine.execFfmaF64 f s
  | .fminF64 f => Sys2Proof.Machine.execFminF64 f s
  | .fmaxF64 f => Sys2Proof.Machine.execFmaxF64 f s
  | .fdivF64 f => Sys2Proof.Machine.execFdivF64 f s
  | .fcpsgnF64 f => Sys2Proof.Machine.execFcpsgnF64 f s
  | .faddF16x2 f => Sys2Proof.Machine.execFaddF16x2 f s
  | .fsubF16x2 f => Sys2Proof.Machine.execFsubF16x2 f s
  | .fmulF16x2 f => Sys2Proof.Machine.execFmulF16x2 f s
  | .ffmaF16x2 f => Sys2Proof.Machine.execFfmaF16x2 f s
  | .fminF16x2 f => Sys2Proof.Machine.execFminF16x2 f s
  | .fmaxF16x2 f => Sys2Proof.Machine.execFmaxF16x2 f s
  | .fsqrtF32 f => Sys2Proof.Machine.execFsqrtF32 f s
  | .fsqrtF64 f => Sys2Proof.Machine.execFsqrtF64 f s
  | .frcpF32 f => Sys2Proof.Machine.execFrcpF32 f s
  | .frsqF32 f => Sys2Proof.Machine.execFrsqF32 f s
  | .fex2F32 f => Sys2Proof.Machine.execFex2F32 f s
  | .flg2F32 f => Sys2Proof.Machine.execFlg2F32 f s
  | .fsinF32 f => Sys2Proof.Machine.execFsinF32 f s
  | .fcosF32 f => Sys2Proof.Machine.execFcosF32 f s
  | .fabsF32 f => Sys2Proof.Machine.execFabsF32 f s
  | .fnegF32 f => Sys2Proof.Machine.execFnegF32 f s
  | .fabsF64 f => Sys2Proof.Machine.execFabsF64 f s
  | .fnegF64 f => Sys2Proof.Machine.execFnegF64 f s
  | .fclassF32 f => Sys2Proof.Machine.execFclassF32 f s
  | .fclassF64 f => Sys2Proof.Machine.execFclassF64 f s
  | .frintF32 f => Sys2Proof.Machine.execFrintF32 f s
  | .frintF64 f => Sys2Proof.Machine.execFrintF64 f s
  | .fsetpF32 f => Sys2Proof.Machine.execFsetpF32 f s
  | .fsetpF64 f => Sys2Proof.Machine.execFsetpF64 f s
  | .cvtF32F64 f => Sys2Proof.Machine.execCvtF32F64 f s
  | .cvtF64F32 f => Sys2Proof.Machine.execCvtF64F32 f s
  | .cvtF16F32 f => Sys2Proof.Machine.execCvtF16F32 f s
  | .cvtF32F16 f => Sys2Proof.Machine.execCvtF32F16 f s
  | .cvtBf16F32 f => Sys2Proof.Machine.execCvtBf16F32 f s
  | .cvtF32Bf16 f => Sys2Proof.Machine.execCvtF32Bf16 f s
  | .cvtE4m3F32 f => Sys2Proof.Machine.execCvtE4m3F32 f s
  | .cvtE5m2F32 f => Sys2Proof.Machine.execCvtE5m2F32 f s
  | .cvtF32E4m3 f => Sys2Proof.Machine.execCvtF32E4m3 f s
  | .cvtF32E5m2 f => Sys2Proof.Machine.execCvtF32E5m2 f s
  | .cvtE2m1F32 f => Sys2Proof.Machine.execCvtE2m1F32 f s
  | .cvtF32E2m1 f => Sys2Proof.Machine.execCvtF32E2m1 f s
  | .cvtP2p8F32 f => Sys2Proof.Machine.execCvtP2p8F32 f s
  | .cvtF32P2p8 f => Sys2Proof.Machine.execCvtF32P2p8 f s
  | .cvtS32F32 f => Sys2Proof.Machine.execCvtS32F32 f s
  | .cvtN32F32 f => Sys2Proof.Machine.execCvtN32F32 f s
  | .cvtF32S32 f => Sys2Proof.Machine.execCvtF32S32 f s
  | .cvtF32N32 f => Sys2Proof.Machine.execCvtF32N32 f s
  | .cvtS32F64 f => Sys2Proof.Machine.execCvtS32F64 f s
  | .cvtF64S32 f => Sys2Proof.Machine.execCvtF64S32 f s
  | .cvtS64F64 f => Sys2Proof.Machine.execCvtS64F64 f s
  | .cvtF64S64 f => Sys2Proof.Machine.execCvtF64S64 f s
  | .cvtS8F32 f => Sys2Proof.Machine.execCvtS8F32 f s
  | .cvtS4F32 f => Sys2Proof.Machine.execCvtS4F32 f s
  | .cvtF32S8 f => Sys2Proof.Machine.execCvtF32S8 f s
  | .cvtF32S4 f => Sys2Proof.Machine.execCvtF32S4 f s
  | .cvtF16F64 f => Sys2Proof.Machine.execCvtF16F64 f s
  | .cvtE8m0F32 f => Sys2Proof.Machine.execCvtE8m0F32 f s
  | .cvtF32E8m0 f => Sys2Proof.Machine.execCvtF32E8m0 f s
  | .cvtSatF32F64 f => Sys2Proof.Machine.execCvtSatF32F64 f s
  | .cvtSatF16F32 f => Sys2Proof.Machine.execCvtSatF16F32 f s
  | .cvtSatBf16F32 f => Sys2Proof.Machine.execCvtSatBf16F32 f s
  | .cvtSatE4m3F32 f => Sys2Proof.Machine.execCvtSatE4m3F32 f s
  | .cvtSatE5m2F32 f => Sys2Proof.Machine.execCvtSatE5m2F32 f s
  | .cvtSatE2m1F32 f => Sys2Proof.Machine.execCvtSatE2m1F32 f s
  | .cvtSatP2p8F32 f => Sys2Proof.Machine.execCvtSatP2p8F32 f s
  | .cvtSatS32F32 f => Sys2Proof.Machine.execCvtSatS32F32 f s
  | .cvtSatN32F32 f => Sys2Proof.Machine.execCvtSatN32F32 f s
  | .cvtSatF32S32 f => Sys2Proof.Machine.execCvtSatF32S32 f s
  | .cvtSatF32N32 f => Sys2Proof.Machine.execCvtSatF32N32 f s
  | .cvtSatS32F64 f => Sys2Proof.Machine.execCvtSatS32F64 f s
  | .cvtSatS64F64 f => Sys2Proof.Machine.execCvtSatS64F64 f s
  | .cvtSatF64S64 f => Sys2Proof.Machine.execCvtSatF64S64 f s
  | .cvtSatS8F32 f => Sys2Proof.Machine.execCvtSatS8F32 f s
  | .cvtSatS4F32 f => Sys2Proof.Machine.execCvtSatS4F32 f s
  | .cvtSatF16F64 f => Sys2Proof.Machine.execCvtSatF16F64 f s
  | .cvtSatE8m0F32 f => Sys2Proof.Machine.execCvtSatE8m0F32 f s
  | .mxscale f => Sys2Proof.Machine.execMxscale f s
  | .mxq f => Sys2Proof.Machine.execMxq f s
  | .mxdq f => Sys2Proof.Machine.execMxdq f s
  | .rdfmt f => Sys2Proof.Machine.execRdfmt f s
  | .wrfmt f => Sys2Proof.Machine.execWrfmt f s
  | .rdfpm f => Sys2Proof.Machine.execRdfpm f s
  | .wrfpm f => Sys2Proof.Machine.execWrfpm f s
  | .rdfst f => Sys2Proof.Machine.execRdfst f s
  | .wrfst f => Sys2Proof.Machine.execWrfst f s
  | .clrfst f => Sys2Proof.Machine.execClrfst f s
  | .ldG f => Sys2Proof.Machine.execLdG f s
  | .stG f => Sys2Proof.Machine.execStG f s
  | .ldS f => Sys2Proof.Machine.execLdS f s
  | .stS f => Sys2Proof.Machine.execStS f s
  | .ldC f => Sys2Proof.Machine.execLdC f s
  | .stC f => Sys2Proof.Machine.execStC f s
  | .atomAdd f => Sys2Proof.Machine.execAtomAdd f s
  | .atomMinS f => Sys2Proof.Machine.execAtomMinS f s
  | .atomMinN f => Sys2Proof.Machine.execAtomMinN f s
  | .atomMaxS f => Sys2Proof.Machine.execAtomMaxS f s
  | .atomMaxN f => Sys2Proof.Machine.execAtomMaxN f s
  | .atomAnd f => Sys2Proof.Machine.execAtomAnd f s
  | .atomOr f => Sys2Proof.Machine.execAtomOr f s
  | .atomXor f => Sys2Proof.Machine.execAtomXor f s
  | .atomExch f => Sys2Proof.Machine.execAtomExch f s
  | .atomCas f => Sys2Proof.Machine.execAtomCas f s
  | .atomAddF32 f => Sys2Proof.Machine.execAtomAddF32 f s
  | .atomAdd64 f => Sys2Proof.Machine.execAtomAdd64 f s
  | .atomExch64 f => Sys2Proof.Machine.execAtomExch64 f s
  | .atomCas64 f => Sys2Proof.Machine.execAtomCas64 f s
  | .atomLd f => Sys2Proof.Machine.execAtomLd f s
  | .atomSt f => Sys2Proof.Machine.execAtomSt f s
  | .redAdd f => Sys2Proof.Machine.execRedAdd f s
  | .redAddF32 f => Sys2Proof.Machine.execRedAddF32 f s
  | .redMinS f => Sys2Proof.Machine.execRedMinS f s
  | .redMaxS f => Sys2Proof.Machine.execRedMaxS f s
  | .redAnd f => Sys2Proof.Machine.execRedAnd f s
  | .redOr f => Sys2Proof.Machine.execRedOr f s
  | .redXor f => Sys2Proof.Machine.execRedXor f s
  | .redAdd64 f => Sys2Proof.Machine.execRedAdd64 f s
  | .fence f => Sys2Proof.Machine.execFence f s
  | .barC f => Sys2Proof.Machine.execBarC f s
  | .waitn f => Sys2Proof.Machine.execWaitn f s
  | .fetchw f => Sys2Proof.Machine.execFetchw f s
  | .launch f => Sys2Proof.Machine.execLaunch f s
  | .cp f => Sys2Proof.Machine.execCp f s
  | .ldUB32 f => Sys2Proof.Machine.execLdUB32 f s
  | .ldUB64 f => Sys2Proof.Machine.execLdUB64 f s
  | .waitc f => Sys2Proof.Machine.execWaitc f s
  | .mma f => Sys2Proof.Machine.execMma f s
  | .mzero f => Sys2Proof.Machine.execMzero f s
  | .mldaS f => Sys2Proof.Machine.execMldaS f s
  | .mldaG f => Sys2Proof.Machine.execMldaG f s
  | .mstaS f => Sys2Proof.Machine.execMstaS f s
  | .mstaG f => Sys2Proof.Machine.execMstaG f s
  | .maddS f => Sys2Proof.Machine.execMaddS f s
  | .maddG f => Sys2Proof.Machine.execMaddG f s
  | .mrd f => Sys2Proof.Machine.execMrd f s
  | .mscl f => Sys2Proof.Machine.execMscl f s
  | .ttq f => Sys2Proof.Machine.execTtq f s
  | .vld f => Sys2Proof.Machine.execVld f s
  | .vlds f => Sys2Proof.Machine.execVlds f s
  | .vleaf f => Sys2Proof.Machine.execVleaf f s
  | .vst f => Sys2Proof.Machine.execVst f s
  | .vactClr f => Sys2Proof.Machine.execVactClr f s
  | .vactSet f => Sys2Proof.Machine.execVactSet f s
  | .vmarch f => Sys2Proof.Machine.execVmarch f s
  | .vins f => Sys2Proof.Machine.execVins f s
  | .vdel f => Sys2Proof.Machine.execVdel f s
  | .halo f => Sys2Proof.Machine.execHalo f s
  | .pload f => Sys2Proof.Machine.execPload f s
  | .pmode f => Sys2Proof.Machine.execPmode f s
  | .pclamp f => Sys2Proof.Machine.execPclamp f s
  | .psweep f => Sys2Proof.Machine.execPsweep f s
  | .preadStates f => Sys2Proof.Machine.execPreadStates f s
  | .preadCounts f => Sys2Proof.Machine.execPreadCounts f s
  | .preset f => Sys2Proof.Machine.execPreset f s
  | .fins f => Sys2Proof.Machine.execFins f s
  | .resolve f => Sys2Proof.Machine.execResolve f s
  | .resolveClr f => Sys2Proof.Machine.execResolveClr f s
  | .lclear f => Sys2Proof.Machine.execLclear f s
  | .rast f => Sys2Proof.Machine.execRast f s
  | .qpush f => Sys2Proof.Machine.execQpush f s
  | .qpushTry f => Sys2Proof.Machine.execQpushTry f s
  | .qpop f => Sys2Proof.Machine.execQpop f s
  | .qpopTry f => Sys2Proof.Machine.execQpopTry f s
  | .cflush f => Sys2Proof.Machine.execCflush f s
  | .cwb f => Sys2Proof.Machine.execCwb f s
  | .rdpr f => Sys2Proof.Machine.execRdpr f s
  | .wrpr f => Sys2Proof.Machine.execWrpr f s
  | .tret f => Sys2Proof.Machine.execTret f s
  | .tqpop f => Sys2Proof.Machine.execTqpop f s
  | .halt f => Sys2Proof.Machine.execHalt f s
  | .resume f => Sys2Proof.Machine.execResume f s
  | .cswap f => Sys2Proof.Machine.execCswap f s
  | .tlbinv f => Sys2Proof.Machine.execTlbinv f s
  | .dbgh f => Sys2Proof.Machine.execDbgh f s
  | .dbgr f => Sys2Proof.Machine.execDbgr f s
  | .wdog f => Sys2Proof.Machine.execWdog f s
  | .hint f => Sys2Proof.Machine.execHint f s
  | .catw f => Sys2Proof.Machine.execCatw f s
  | .longResultReturn tk k lane => Sys2Proof.Machine.execLongResultReturn tk k lane s
  | .asyncCompletion tk apath => Sys2Proof.Machine.execAsyncCompletion tk apath s
  | .powerTokenGrant pnum => Sys2Proof.Machine.execPowerTokenGrant pnum s
  | .faultReportArrival tk k => Sys2Proof.Machine.execFaultReportArrival tk k s
  | .faultBatchDelivery pnum => Sys2Proof.Machine.execFaultBatchDelivery pnum s
  | .supervisorEngineFault cmd => Sys2Proof.Machine.execSupervisorEngineFault cmd s
  | .breakpointStop tk => Sys2Proof.Machine.execBreakpointStop tk s
  | .waitcReread tk => Sys2Proof.Machine.execWaitcReread tk s
  | .cohortSwapOut cid => Sys2Proof.Machine.execCohortSwapOut cid s
  | .cohortSwapIn cid => Sys2Proof.Machine.execCohortSwapIn cid s
  | .cohortDrainComplete cid => Sys2Proof.Machine.execCohortDrainComplete cid s
  | .fetchMailboxWrite k => Sys2Proof.Machine.execFetchMailboxWrite k s
  | .copyCommandComplete cmd => Sys2Proof.Machine.execCopyCommandComplete cmd s
  | .copyFaultStop cmd => Sys2Proof.Machine.execCopyFaultStop cmd s
  | .rdmaAcknowledgement cmd => Sys2Proof.Machine.execRdmaAcknowledgement cmd s
  | .rdmaRetry cmd => Sys2Proof.Machine.execRdmaRetry cmd s
  | .networkTransferFailure cmd => Sys2Proof.Machine.execNetworkTransferFailure cmd s
  | .mmaStepComplete cmd => Sys2Proof.Machine.execMmaStepComplete cmd s
  | .mmaStepFaultStop cmd => Sys2Proof.Machine.execMmaStepFaultStop cmd s
  | .accumulatorCommandComplete cmd => Sys2Proof.Machine.execAccumulatorCommandComplete cmd s
  | .accumulatorFaultStop cmd => Sys2Proof.Machine.execAccumulatorFaultStop cmd s
  | .tileTaskStart cmd => Sys2Proof.Machine.execTileTaskStart cmd s
  | .tileTaskComplete cmd => Sys2Proof.Machine.execTileTaskComplete cmd s
  | .curatorLaneRetry tk k => Sys2Proof.Machine.execCuratorLaneRetry tk k s
  | .haloCommandComplete cmd => Sys2Proof.Machine.execHaloCommandComplete cmd s
  | .haloFaultStop cmd => Sys2Proof.Machine.execHaloFaultStop cmd s
  | .peuriCommandStart pnum => Sys2Proof.Machine.execPeuriCommandStart pnum s
  | .peuriCommandComplete pnum => Sys2Proof.Machine.execPeuriCommandComplete pnum s
  | .peuriLoadFault pnum => Sys2Proof.Machine.execPeuriLoadFault pnum s
  | .ringCommandPerform cmd => Sys2Proof.Machine.execRingCommandPerform cmd s
  | .migrationMoveComplete pnum => Sys2Proof.Machine.execMigrationMoveComplete pnum s
  | .moveRecordExpiry k => Sys2Proof.Machine.execMoveRecordExpiry k s
  | .icacheFill k => Sys2Proof.Machine.execIcacheFill k s
  | .haltSettle pnum => Sys2Proof.Machine.execHaltSettle pnum s
  | .cellarExchangeComplete pnum => Sys2Proof.Machine.execCellarExchangeComplete pnum s
  | .cellarDrainComplete pnum => Sys2Proof.Machine.execCellarDrainComplete pnum s
  | .cellarFillComplete pnum => Sys2Proof.Machine.execCellarFillComplete pnum s
  | .tlbinvComplete pnum => Sys2Proof.Machine.execTlbinvComplete pnum s
  | .cacheMaintenanceComplete tk path => Sys2Proof.Machine.execCacheMaintenanceComplete tk path s
  | .fenceComplete tk path => Sys2Proof.Machine.execFenceComplete tk path s
  | .launchBlockRead tk path => Sys2Proof.Machine.execLaunchBlockRead tk path s
  | .watchdogExpiry tk => Sys2Proof.Machine.execWatchdogExpiry tk s
  | .faultStallExpiry tk => Sys2Proof.Machine.execFaultStallExpiry tk s
  | .supervisorWatchdogExpiry pnum => Sys2Proof.Machine.execSupervisorWatchdogExpiry pnum s
  | .storageUncorrectableError tk addr => Sys2Proof.Machine.execStorageUncorrectableError tk addr s
  | .hbmUncorrectableError pa reader => Sys2Proof.Machine.execHbmUncorrectableError pa reader s
  | .cohortClaim pnum die => Sys2Proof.Machine.execCohortClaim pnum die s
  | .cohortPlacement pnum die => Sys2Proof.Machine.execCohortPlacement pnum die s
  | .teamRetire tk => Sys2Proof.Machine.execTeamRetire tk s
  | .gridRetire gid => Sys2Proof.Machine.execGridRetire gid s
  | .gend pnum val => Sys2Proof.Machine.execGend pnum val s
  | .presContinue pnum val => Sys2Proof.Machine.execPresContinue pnum val s
  | .presPerformHeld pnum val => Sys2Proof.Machine.execPresPerformHeld pnum val s
  | .replayAsid pnum asid => Sys2Proof.Machine.execReplayAsid pnum asid s
  | .replayAll pnum => Sys2Proof.Machine.execReplayAll pnum s
  | .reginvAsid pnum asid => Sys2Proof.Machine.execReginvAsid pnum asid s
  | .reginvAll pnum => Sys2Proof.Machine.execReginvAll pnum s
  | .trapQueueConfigWrite pnum reg val => Sys2Proof.Machine.execTrapQueueConfigWrite pnum reg val s
  | .causalTrialStart pnum val => Sys2Proof.Machine.execCausalTrialStart pnum val s
  | .causalTrialEnd pnum val => Sys2Proof.Machine.execCausalTrialEnd pnum val s
  | .progressCounterClear pnum val => Sys2Proof.Machine.execProgressCounterClear pnum val s
  | .clockLockRequest pnum val => Sys2Proof.Machine.execClockLockRequest pnum val s
  | .clockLockRelease pnum val => Sys2Proof.Machine.execClockLockRelease pnum val s
  | .clockLockGrant pnum => Sys2Proof.Machine.execClockLockGrant pnum s
  | .moduleReset => Sys2Proof.Machine.execModuleReset s
  | .hbmTrainingComplete weak failed => Sys2Proof.Machine.execHbmTrainingComplete weak failed s
  | .fullServiceEntry => Sys2Proof.Machine.execFullServiceEntry s
  | .firmwareLoad => Sys2Proof.Machine.execFirmwareLoad s
  | .firmwareVerifyComplete => Sys2Proof.Machine.execFirmwareVerifyComplete s
  | .partitionEnable pnum => Sys2Proof.Machine.execPartitionEnable pnum s
  | .partitionReset pnum => Sys2Proof.Machine.execPartitionReset pnum s
  | .partitionDisable pnum => Sys2Proof.Machine.execPartitionDisable pnum s
  | .queueDoorbell pnum k val => Sys2Proof.Machine.execQueueDoorbell pnum k val s
  | .queueEnable pnum k val => Sys2Proof.Machine.execQueueEnable pnum k val s
  | .queueDisable pnum k val => Sys2Proof.Machine.execQueueDisable pnum k val s
  | .queueLaunch pnum k => Sys2Proof.Machine.execQueueLaunch pnum k s
  | .queueWait pnum k => Sys2Proof.Machine.execQueueWait pnum k s
  | .queueWaitReread pnum k => Sys2Proof.Machine.execQueueWaitReread pnum k s
  | .queueSignal pnum k => Sys2Proof.Machine.execQueueSignal pnum k s
  | .queueNop pnum k => Sys2Proof.Machine.execQueueNop pnum k s
  | .allotWrite pnum val => Sys2Proof.Machine.execAllotWrite pnum val s
  | .migrationPushRequest pnum val => Sys2Proof.Machine.execMigrationPushRequest pnum val s
  | .pwrcapWrite val => Sys2Proof.Machine.execPwrcapWrite val s
  | .pscmdWrite die val => Sys2Proof.Machine.execPscmdWrite die val s
  | .linkcmdWrite link val => Sys2Proof.Machine.execLinkcmdWrite link val s
  | .sequencerLinkApply => Sys2Proof.Machine.execSequencerLinkApply s
  | .sequencerFrequencyApply => Sys2Proof.Machine.execSequencerFrequencyApply s
  | .linkRetrainComplete => Sys2Proof.Machine.execLinkRetrainComplete s
  | .clockChangeComplete => Sys2Proof.Machine.execClockChangeComplete s
  | .thermalAlert die => Sys2Proof.Machine.execThermalAlert die s
  | .thermalExamination => Sys2Proof.Machine.execThermalExamination s
  | .fallbackExit val => Sys2Proof.Machine.execFallbackExit val s
  | .portLinkChange port up => Sys2Proof.Machine.execPortLinkChange port up s
  | .inboundRdmaWrite port lqpn key pa bytes => Sys2Proof.Machine.execInboundRdmaWrite port lqpn key pa bytes s
  | .hostMemoryAccess off len store => Sys2Proof.Machine.execHostMemoryAccess off len store s
  | .spdmGetVersion => Sys2Proof.Machine.execSpdmGetVersion s
  | .spdmGetCapabilities => Sys2Proof.Machine.execSpdmGetCapabilities s
  | .spdmNegotiateAlgorithms req => Sys2Proof.Machine.execSpdmNegotiateAlgorithms req s
  | .spdmGetDigests => Sys2Proof.Machine.execSpdmGetDigests s
  | .spdmGetCertificate slot off len => Sys2Proof.Machine.execSpdmGetCertificate slot off len s
  | .spdmChallenge slot nonce => Sys2Proof.Machine.execSpdmChallenge slot nonce s
  | .spdmGetMeasurements index nonce => Sys2Proof.Machine.execSpdmGetMeasurements index nonce s
  | .registerWrite off val => Sys2Proof.Machine.execRegisterWrite off val s
  | .retiredWrite off val => Sys2Proof.Machine.execRetiredWrite off val s
  | .hostLinkTraining width rate => Sys2Proof.Machine.execHostLinkTraining width rate s

end Sys2Proof.Machine
end

