-- ==== Sys2Proof/Machine/Loaded.lean ====
section
/-!
DEFINITION. A machine into which a program has been loaded from outside (log 17): the module at full service, partition
0 enabled with its supervisor, and one user team of a DENSE grid standing at an entry point. State.withFetchWord stands
for that load.
-/
namespace Sys2Proof.Machine

/-- The entry point of the loaded programs. -/
def loadedEntry : Dword := 0x10000

/-- The loaded programs' team: 32 lanes and every register, tile and scratchpad byte. -/
def loadedTeam : Team := startTeam 32 64 64 16 4 196608 0 loadedEntry 0

/-- The launch parameter block of the loaded user program. -/
def loadedLpb : Lpb :=
  { entry := loadedEntry, teamw := 32, teams := 1, span := 1, vregs := 64, sregs := 64, acct := 4, flags := 0,
    scratch := 196608, fpminit := 0, mode := 0, paths := 16, modef := [1, 1, 1], done := 0, errec := 0, ticket := 0,
    args := 0 }

/-- Its grid: grid 1 of partition 0, one cohort, all of it placed. -/
def loadedGrid : Grid :=
  { addr := 0, lpb := loadedLpb, depth := 1, parent := none, cls := 0, asid := 0, n := 1, leafSet := [], work := 0,
    retry := 0, noted := none, errCount := 0, failed := false, error := none, claiming := [], cleared := [0],
    unplaced := [], halted := false, placed := true }

/-- Partition 0 with every half, array and ring, enabled. -/
def loadedPart : Part :=
  { Part.reset with halves := 0xFF, arrays := 0xF, rings := 256, enable := true, allot := 512 }

/-- A program loaded into a machine: supervisor key 0 on core 0, user team key 1 on core 1. -/
def State.loaded (s : State) : State :=
  { s with
    host := { s.host with stage := 3, hbmdone := true },
    parts := dput Part.reset s.parts 0 loadedPart,
    grids := [(1, loadedGrid)],
    cohorts := [(0, { gid := 1, idx := 0, die := 0, cluster := 0, span := 1, block := none, teams := [1],
                      place := .resident, barSkew := [], draining := false })],
    teams := [(0, { loadedTeam with sup := true }), (1, { loadedTeam with gid := 1, cid := 0, core := 1 })] }

/-- A team can issue at once: it may issue and its lowest ready path has no reported fault. -/
def canRun (s : State) (tk : Nat) : Bool :=
  match s.team tk with
  | none => false
  | some t =>
    teamMayIssue s t && match lowestPath t.paths with
      | some c => !t.hasReported c.1 c.2.mask && (t.merge c).2.2.st == .ready
      | none => false

/-- The first team, supervisor or not, that can issue at once. -/
def runnable (s : State) (sup : Bool) : Option Nat :=
  (s.teams.find? fun e => (e.2.sup == sup) && canRun s e.1).map Prod.fst

/-- Major 0x3F with a function of the privileged range (03 R85). -/
def privWord (w : Nat) : Bool := w % 2 == 1 && nbits w 2 6 == 0x3F && decide (16 ≤ nbits w 26 6)

/-- One halfword stored in an instruction-cache line at a PC. -/
def putHalf (s : State) (core gasid : Nat) (pc : Dword) (x : Nat) : State :=
  let key := icKey core gasid pc.toNat
  let old := (klook s.icache key).getD 0
  let sh := 8 * (pc.toNat % 128)
  let mask : BitVec 1024 := (0xFFFF : BitVec 1024) <<< sh
  { s with icache := kput s.icache key ((old &&& ~~~mask) ||| ((BitVec.ofNat 1024 (x % 65536)) <<< sh)) }

/-- The core's issue slot is the team's: it stands next after the slot that issued last, and waits for no line
(16 R349, R350). -/
def takeTurn (s : State) (tk : Nat) (t : Team) : State :=
  { s with lastSlot := dput 15 s.lastSlot t.core ((t.slot + 15) % 16), fills := s.fills.filter fun f => f.tk != tk,
           agenda := [.issue t.core] }

/-- The instruction word is stored at the PC of the team's next path, the team holds a power token, and its issue slot is
the next move. -/
def placeWord (s : State) (tk w : Nat) : State :=
  match s.team tk with
  | none => s
  | some t =>
    match lowestPath t.paths with
    | none => s
    | some c =>
      let g := (teamAgent s tk t).gasid
      let s := putHalf s t.core g c.2.pc w
      let s := putHalf s t.core g (c.2.pc + 2) (w / 65536)
      let s := if t.token then s
        else
          (s.modTeam tk fun t => { t with token := true }).modPart (pnumOf tk) fun p => { p with tokenHeld := p.tokenHeld + 1 }
      takeTurn s tk t

/-- The word placed where the next step fetches it: for a team that can issue, else for the team of a program loaded
from outside. -/
def fetchPlaced (s : State) (w : Nat) : State :=
  match runnable s (privWord w) with
  | some tk => placeWord s tk w
  | none => placeWord s.loaded (if privWord w then 0 else 1) w

end Sys2Proof.Machine
end

