-- ==== Sys2Proof/Machine/Step.lean ====
section
/-!
DEFINITION. One step of the machine: the move that State.agenda lists first, or the model's own choice when it lists
none (log 3).
-/
namespace Sys2Proof.Machine

/-- The word of nbits bits, every bit above them zero, stored where step fetches its next instruction (log 17). -/
def State.withFetchWord (s : State) (nbits w : Nat) : State := fetchPlaced s (w % 2 ^ nbits)

noncomputable section

/-- An instruction given out by an issue slot is performed; unless its path stalled, a causal trial counts it. -/
def perform (s : State) (i : Instr) : Host.Outcome State Fault Refusal :=
  match exec i s with
  | .next s' => .next (countIssued s s')
  | out => out

/-- One move. -/
def doMove (s : State) (m : Move) : Host.Outcome State Fault Refusal :=
  match m with
  | .event i => exec i s
  | .issue core =>
    match coreChoice s (readyTeams s) core with
    | none => .next s
    | some tk =>
      match issueSlot s tk with
      | (s, none) => .next s
      | (s, some i) => perform s i
  | .evict key => .next (flushLine s key)
  | .keep c key => .next (keepCopy s c key)
  | .uncopy c key => .next (dropCopy s c key)
  | .dropI key => .next { s with icache := kdel s.icache key }
  | .dropT key => .next { s with tlb := kdel s.tlb key }
  | .dropR key => .next { s with region := kdel s.region key }
  | .hostWrite addr bs => .next (outsideWrite s 1 addr bs)
  | .peerWrite addr bs => .next (outsideWrite s 2 addr bs)
  | .idle => .next s

/-- One step: time passes and one move is made. -/
def step (s : State) : Host.Outcome State Fault Refusal :=
  match s.agenda with
  | m :: rest => doMove { s.tick with agenda := rest } m
  | [] => doMove { s.tick with turn := !s.turn } (defaultMove s)

end

end Sys2Proof.Machine
end

