-- ==== Sys2Proof/Safety.lean ====
section
/-!
DEFINITION. The terms claims use: well-formed states, what an instruction leaves unchanged, what it is for an
instruction to complete, and how register results are delivered.
-/
namespace Sys2Proof.Machine

/-! ### Canonical forms -/

/-- The canonical form of a byte memory: addresses strictly rise and no listed byte is what an unlisted one reads as. -/
abbrev Memory.wf (m : List Host.Cell) : Bool := canonical (0 : Byte) m

/-- A team's collections are canonical, and neither s0 nor z0 is listed (03 R68). -/
def Team.wf (t : Team) : Bool :=
  canonical (0 : Word) t.v && canonical (0 : Mask) t.p && canonical (0 : Word) t.s && Memory.wf t.scr
    && canonical (0 : Elem) t.tiles && risingFrom none t.paths

/-- The state's memories are canonical. -/
def State.memWf (s : State) : Bool := Memory.wf s.hbm && Memory.wf s.hostMem && Memory.wf s.peerMem

/-! ### What an instruction leaves unchanged -/

/-- The byte at a physical address: LOC 0 device memory, 1 host memory, 2 CXL peer memory. -/
def State.physByte (s : State) (loc pa : Nat) : List Byte := physRead s loc pa 1

/-- The byte of a virtual address that a device cache holds, none when its line is not cached. -/
def State.cachedByte (s : State) (gasid va : Nat) : Option (List Byte) :=
  (klook s.lines (lineKey gasid va)).map fun l => lineRead l (va % 128) 1

/-- Every byte of memory, at every physical address and in every cached line, reads in t as in s. -/
structure SameMemory (s t : State) : Prop where
  phys : ∀ loc pa, t.physByte loc pa = s.physByte loc pa
  cached : ∀ gasid va, t.cachedByte gasid va = s.cachedByte gasid va

/-- The next state t differs from s in the record of one team at most, which is t' in it: every other team, every
partition with its privileged registers, every grid, command, cached line, wait and host register is as before, and so
is every byte of memory. -/
structure OnlyTeam (s : State) (tk : Nat) (t : State) (t' : Team) : Prop where
  rest : t = { s with teams := t.teams }
  others : ∀ k, k ≠ tk → t.team k = s.team k
  here : t.team tk = some t'
  memory : SameMemory s t

/-- The issuing path after an instruction of len bytes: at the next one, parked when the marker stands and results of
the path are outstanding (02 R54). -/
def Issuer.after (x : Issuer) (len : Nat) (mark : Bool) (t' : Team) : Path :=
  { x.path with pc := x.path.pc + BitVec.ofNat 64 len, mark := false,
                st := if mark && t'.outstanding x.pi x.path.mask then .parked else .ready }

/-- The team's paths after an instruction of len bytes: the issuing one stands at the next instruction, every other is
as before. -/
structure Moved (x : Issuer) (len : Nat) (mark : Bool) (t' : Team) : Prop where
  here : t'.path x.pi = some (x.after len mark t')
  others : ∀ j, j ≠ x.pi → t'.path j = x.t.path j

/-- An instruction of len bytes that changes registers of its team alone has completed: its path has moved on, and of
the team only its registers, FST and results in flight may differ. -/
structure Completed (s : State) (x : Issuer) (len : Nat) (mark : Bool) (t : State) (t' : Team) : Prop
    extends OnlyTeam s x.tk t t' where
  moved : Moved x len mark t'
  team : t' = { x.t with v := t'.v, p := t'.p, s := t'.s, q := t'.q, fst := t'.fst, long := t'.long, paths := t'.paths }

/-! ### Register results -/

/-- The last value that some register writes give lane register r of lane l. -/
def lastV (ws : List RegWrite) (r l : Nat) : Option Word :=
  ws.foldl (fun acc w => match w with
    | .v a b x => if a = r ∧ b = l then some x else acc
    | _ => acc) none
/-- Likewise lane predicate k of lane l. -/
def lastP (ws : List RegWrite) (k l : Nat) : Option Bool :=
  ws.foldl (fun acc w => match w with
    | .p a b x => if a = k ∧ b = l then some x else acc
    | _ => acc) none
/-- Likewise uniform register r. -/
def lastS (ws : List RegWrite) (r : Nat) : Option Word :=
  ws.foldl (fun acc w => match w with
    | .s a x => if a = r then some x else acc
    | _ => acc) none
/-- Likewise uniform predicate k. -/
def lastQ (ws : List RegWrite) (k : Nat) : Option Bool :=
  ws.foldl (fun acc w => match w with
    | .q a x => if a = k then some x else acc
    | _ => acc) none

/-- The registers of t' are those of t but for the writes ws; s0 still reads zero, p7 and q3 true (03 R68). -/
structure Written (t : Team) (ws : List RegWrite) (t' : Team) : Prop where
  v : ∀ r l, l < 1024 → t'.vr r l = (lastV ws r l).getD (t.vr r l)
  p : ∀ k l, l < 1024 → t'.pr k l = if k = 7 then true else (lastP ws k l).getD (t.pr k l)
  s : ∀ r, t'.sr r = if r = 0 then 0 else (lastS ws r).getD (t.sr r)
  q : ∀ k, k ≤ 3 → t'.qr k = if k = 3 then true else (lastQ ws k).getD (t.qr k)

/-- What a register instruction does, as its rule states it: its length, its switch marker, whether its result is long
(02 R53), the register writes in order, and the flags it sets. -/
structure Result where
  len : Nat
  mark : Bool
  long : Bool
  ws : List RegWrite
  flags : Word

/-- The result is in flight after the instruction: it is long and writes something. -/
def Result.inFlight (r : Result) : Bool := r.long && !r.ws.isEmpty

/-- The result has been delivered: a short one's writes and flags stand in the registers and FST; a long one is in
flight with them, waited for by the issuing path, and the registers are as before (02 R52, R53, 04 R114). -/
structure Delivered (x : Issuer) (r : Result) (t' : Team) : Prop where
  regs : Written x.t (if r.inFlight then [] else r.ws) t'
  fst : t'.fst = if r.inFlight then x.t.fst else x.t.fst ||| (r.flags &&& 0x7F)
  long : t'.long =
    if r.inFlight then x.t.long ++ [{ op := none, owners := [x.pi], writes := r.ws, flags := r.flags }] else x.t.long

/-- The instruction completes with this result: exec answers a next state, in which the result is delivered and nothing
else of the machine has changed but the issuing path's place. -/
def CompletesWith (i : Instr) (s : State) (x : Issuer) (r : Result) : Prop :=
  ∃ t t', exec i s = .next t ∧ Completed s x r.len r.mark t t' ∧ Delivered x r t'

/-! ### Results as the rules state them -/

/-- A 32-bit and a 64-bit value. -/
def word (n : Nat) : Word := BitVec.ofNat 32 n
def dword (n : Nat) : Dword := BitVec.ofNat 64 n

/-- The writes of a 64-bit result to a lane pair: the low word to the first register, the high word to the second (03 R67). -/
def pairWrites (d l : Nat) (x : Dword) : List RegWrite :=
  [.v d l (word x.toNat), .v (d + 1) l (word (x.toNat / 2 ^ 32))]
/-- The writes of a 64-bit result to a uniform pair; z0 discards it (03 R68). -/
def uniPairWrites (d : Nat) (x : Dword) : List RegWrite :=
  if d = 0 then [] else [.s d (word x.toNat), .s (d + 1) (word (x.toNat / 2 ^ 32))]

/-- Every active lane: the header of the 16-bit forms (03 R62). -/
def always (mark : Bool) : Hdr := { s := mark, p := 7, n := false }

/-- A short instruction of len bytes that gives each acting lane the writes f. -/
def perLane (x : Issuer) (h : Hdr) (len : Nat) (f : Nat → List RegWrite) : Result :=
  { len := len, mark := h.s, long := false, ws := (x.lanes h).flatMap f, flags := 0 }
/-- A short uniform instruction, which writes when it acts (03 R65). -/
def perTeam (x : Issuer) (h : Hdr) (ws : List RegWrite) : Result :=
  { len := 4, mark := h.s, long := false, ws := if x.uacts h then ws else [], flags := 0 }

end Sys2Proof.Machine
end

