-- ==== Sys2Proof/Certificates/Slice0/Obligations.lean ====
section
/-!
DEFINITION. The statements for the provers, with the tables they are written in: each instruction's result as the rules
of spec/ state it, and each event's effect.
-/
open Sys2Proof Sys2Proof.Machine

namespace Sys2Proof.Machine

/-! ### Integer and logic results (03 R62, 05 R127-R136) -/

/-- Rows of format RR: one register from the operands' unsigned numbers. -/
def rowRR (x : Issuer) (f : RR) (g : Nat → Nat → Word) : Result :=
  perLane x f.h 4 fun l => [.v f.d.toNat l (g (x.t.vr f.a.toNat l).toNat (x.t.vr f.b.toNat l).toNat)]
/-- The same on their signed values. -/
def rowRRs (x : Issuer) (f : RR) (g : Int → Int → Word) : Result :=
  perLane x f.h 4 fun l => [.v f.d.toNat l (g (x.t.vr f.a.toNat l).toInt (x.t.vr f.b.toNat l).toInt)]
/-- The same on the words, the destination's old word among them. -/
def rowRRd (x : Issuer) (f : RR) (g : Word → Word → Word → Word) : Result :=
  perLane x f.h 4 fun l => [.v f.d.toNat l (g (x.t.vr f.a.toNat l) (x.t.vr f.b.toNat l) (x.t.vr f.d.toNat l))]
/-- A 64-bit result from a pair and a pair. -/
def rowWWW (x : Issuer) (f : RR) (g : Dword → Dword → Dword) : Result :=
  perLane x f.h 4 fun l => pairWrites f.d.toNat l (g (x.t.wr f.a.toNat l) (x.t.wr f.b.toNat l))
/-- A 16-bit form: vd from its old value and vb, in every active lane. -/
def rowC (x : Issuer) (f : C16) (g : Word → Word → Word) : Result :=
  perLane x (always f.s) 2 fun l => [.v f.d.toNat l (g (x.t.vr f.d.toNat l) (x.t.vr f.b.toNat l))]
def rowRI (x : Issuer) (f : RI) (g : Word → Word) : Result :=
  perLane x f.h 4 fun l => [.v f.d.toNat l (g (x.t.vr f.a.toNat l))]
def rowUN (x : Issuer) (f : UN) (g : Word → Word) : Result :=
  perLane x f.h 4 fun l => [.v f.d.toNat l (g (x.t.vr f.a.toNat l))]

/-- Shifts by the full amount n (05 R128). -/
def shiftLeft (a : Word) (n : Nat) : Word := if 32 ≤ n then 0 else word (a.toNat * 2 ^ n)
def shiftRight (a : Word) (n : Nat) : Word := if 32 ≤ n then 0 else word (a.toNat / 2 ^ n)
def shiftArith (a : Word) (n : Nat) : Word := BitVec.ofInt 32 (a.toInt / 2 ^ min n 31)

/-- The fields of 05 R129: empty, or fieldLen bits from bit b[7:0] of a. -/
def fieldEmpty (b : Word) : Bool := decide (b.toNat / 256 % 256 = 0) || decide (32 ≤ b.toNat % 256)
def fieldLen (b : Word) : Nat := min (b.toNat / 256 % 256) (32 - b.toNat % 256)
def fieldOf (a b : Word) : Nat := a.toNat / 2 ^ (b.toNat % 256) % 2 ^ fieldLen b
/-- The field as a signed number. -/
def fieldSigned (a b : Word) : Word :=
  if fieldEmpty b then 0
  else if 2 * fieldOf a b < 2 ^ fieldLen b then word (fieldOf a b)
  else BitVec.ofInt 32 ((fieldOf a b : Int) - 2 ^ fieldLen b)
/-- The field of d replaced by the low bits of a. -/
def fieldInsert (a b d : Word) : Word :=
  if fieldEmpty b then d
  else
    let mask := word ((2 ^ fieldLen b - 1) * 2 ^ (b.toNat % 256))
    (d &&& ~~~mask) ||| (word (a.toNat * 2 ^ (b.toNat % 256)) &&& mask)

/-- The number of one bits, and the run of zero bits from an end, of the low n bits (05 R133). -/
def countOnes (n w : Nat) : Nat := ((List.range n).map fun k => w / 2 ^ k % 2).sum
def zerosAbove (n w : Nat) : Nat := ((List.range n).takeWhile fun k => w / 2 ^ (n - 1 - k) % 2 = 0).length
def zerosBelow (n w : Nat) : Nat := ((List.range n).takeWhile fun k => w / 2 ^ k % 2 = 0).length
/-- Bit i of the result is bit 31 - i. -/
def reversed (a : Word) : Word := word ((List.range 32).map fun k => a.toNat / 2 ^ (31 - k) % 2 * 2 ^ k).sum

/-- The unary functions of 05 R133 on one register. -/
def unary : Instr → Option (UN × (Word → Word))
  | .popc f | .popcUniform f => some (f, fun a => word (countOnes 32 a.toNat))
  | .clz f | .clzUniform f => some (f, fun a => word (zerosAbove 32 a.toNat))
  | .ctz f | .ctzUniform f => some (f, fun a => word (zerosBelow 32 a.toNat))
  | .brev f | .brevUniform f => some (f, reversed)
  | .ineg f | .inegUniform f => some (f, fun a => BitVec.ofInt 32 (-a.toInt))
  | .inot f | .inotUniform f => some (f, fun a => word (2 ^ 32 - 1 - a.toNat))
  | .iabs f | .iabsUniform f => some (f, fun a => word a.toInt.natAbs)
  | .sextB8 f | .sextB8Uniform f => some (f, fun a => BitVec.ofInt 32 (a.setWidth 8).toInt)
  | .sextB16 f | .sextB16Uniform f => some (f, fun a => BitVec.ofInt 32 (a.setWidth 16).toInt)
  | .zextB8 f | .zextB8Uniform f => some (f, fun a => word (a.toNat % 256))
  | .zextB16 f | .zextB16Uniform f => some (f, fun a => word (a.toNat % 65536))
  | _ => none

/-- The short integer and logic instructions of the lanes, with their results. -/
def laneInteger (x : Issuer) (i : Instr) : Option Result :=
  match i with
  | .iaddC f => some (rowC x f fun d b => word (d.toNat + b.toNat))
  | .isubC f => some (rowC x f fun d b => BitVec.ofInt 32 (d.toInt - b.toInt))
  | .iandC f => some (rowC x f fun d b => d &&& b)
  | .iorC f => some (rowC x f fun d b => d ||| b)
  | .ixorC f => some (rowC x f fun d b => d ^^^ b)
  | .ishlC f => some (rowC x f fun d b => shiftLeft d b.toNat)
  | .ishrC f => some (rowC x f fun d b => shiftRight d b.toNat)
  | .isarC f => some (rowC x f fun d b => shiftArith d b.toNat)
  | .movC f => some (rowC x f fun _ b => b)
  | .imulC f => some (rowC x f fun d b => word (d.toNat * b.toNat))
  | .addiC f => some (perLane x (always f.s) 2 fun l =>
      [.v f.d.toNat l (BitVec.ofInt 32 ((x.t.vr f.d.toNat l).toInt + f.i.toInt))])
  | .iadd f => some (rowRR x f fun a b => word (a + b))
  | .isub f => some (rowRRs x f fun a b => BitVec.ofInt 32 (a - b))
  | .imul f => some (rowRR x f fun a b => word (a * b))
  | .imad f => some (rowRRd x f fun a b d => word (a.toNat * b.toNat + d.toNat))
  | .mulhiS f => some (rowRRs x f fun a b => BitVec.ofInt 32 (a * b / 2 ^ 32))
  | .mulhiN f => some (rowRR x f fun a b => word (a * b / 2 ^ 32))
  | .mulwS f => some (perLane x f.h 4 fun l =>
      pairWrites f.d.toNat l (BitVec.ofInt 64 ((x.t.vr f.a.toNat l).toInt * (x.t.vr f.b.toNat l).toInt)))
  | .mulwN f => some (perLane x f.h 4 fun l =>
      pairWrites f.d.toNat l (dword ((x.t.vr f.a.toNat l).toNat * (x.t.vr f.b.toNat l).toNat)))
  | .iand f => some (rowRRd x f fun a b _ => a &&& b)
  | .ior f => some (rowRRd x f fun a b _ => a ||| b)
  | .ixor f => some (rowRRd x f fun a b _ => a ^^^ b)
  | .iandn f => some (rowRRd x f fun a b _ => a &&& ~~~b)
  | .iminS f => some (rowRRs x f fun a b => BitVec.ofInt 32 (min a b))
  | .iminN f => some (rowRR x f fun a b => word (min a b))
  | .imaxS f => some (rowRRs x f fun a b => BitVec.ofInt 32 (max a b))
  | .imaxN f => some (rowRR x f fun a b => word (max a b))
  | .ishl f => some (rowRRd x f fun a b _ => shiftLeft a b.toNat)
  | .ishr f => some (rowRRd x f fun a b _ => shiftRight a b.toNat)
  | .isar f => some (rowRRd x f fun a b _ => shiftArith a b.toNat)
  | .irot f => some (rowRR x f fun a b => word (a * 2 ^ (b % 32) + a / 2 ^ (32 - b % 32)))
  | .bfeS f => some (rowRRd x f fun a b _ => fieldSigned a b)
  | .bfeN f => some (rowRRd x f fun a b _ => if fieldEmpty b then 0 else word (fieldOf a b))
  | .bfi f => some (rowRRd x f fieldInsert)
  | .sel f => some (perLane x (always f.h.s) 4 fun l =>
      [.v f.d.toNat l (if x.t.pr f.h.p.toNat l != f.h.n then x.t.vr f.a.toNat l else x.t.vr f.b.toNat l)])
  | .iadd64 f => some (rowWWW x f fun a b => dword (a.toNat + b.toNat))
  | .isub64 f => some (rowWWW x f fun a b => BitVec.ofInt 64 (a.toInt - b.toInt))
  | .ishl64 f => some (perLane x f.h 4 fun l =>
      let n := (x.t.vr f.b.toNat l).toNat
      pairWrites f.d.toNat l (if 64 ≤ n then 0 else dword ((x.t.wr f.a.toNat l).toNat * 2 ^ n)))
  | .ishr64 f => some (perLane x f.h 4 fun l =>
      let n := (x.t.vr f.b.toNat l).toNat
      pairWrites f.d.toNat l (if 64 ≤ n then 0 else dword ((x.t.wr f.a.toNat l).toNat / 2 ^ n)))
  | .addi f => some (rowRI x f fun a => BitVec.ofInt 32 (a.toInt + f.i.toInt))
  | .shli f => some (rowRI x f fun a => shiftLeft a f.i.toNat)
  | .shri f => some (rowRI x f fun a => shiftRight a f.i.toNat)
  | .sari f => some (rowRI x f fun a => shiftArith a f.i.toNat)
  | .popc f | .clz f | .ctz f | .brev f | .ineg f | .inot f | .iabs f | .sextB8 f | .sextB16 f | .zextB8 f | .zextB16 f =>
      (unary i).map fun u => rowUN x f u.2
  | .popc64 f => some (perLane x f.h 4 fun l =>
      [.v f.d.toNat l (word (countOnes 64 (x.t.wr f.a.toNat l).toNat))])
  | .clz64 f => some (perLane x f.h 4 fun l =>
      [.v f.d.toNat l (word (zerosAbove 64 (x.t.wr f.a.toNat l).toNat))])
  | .ineg64 f => some (perLane x f.h 4 fun l =>
      pairWrites f.d.toNat l (BitVec.ofInt 64 (-(x.t.wr f.a.toNat l).toInt)))
  | _ => none

/-- The comparison of setp by its condition code, on the exact values (05 R136). -/
def compared (cc : Nat) (a b : Word) : Bool :=
  match cc with
  | 0 => decide (a.toNat = b.toNat)
  | 1 => decide (a.toNat ≠ b.toNat)
  | 2 => decide (a.toInt < b.toInt)
  | 3 => decide (a.toInt ≤ b.toInt)
  | 4 => decide (a.toInt > b.toInt)
  | 5 => decide (a.toInt ≥ b.toInt)
  | 6 => decide (a.toNat < b.toNat)
  | 7 => decide (a.toNat ≤ b.toNat)
  | 8 => decide (a.toNat > b.toNat)
  | _ => decide (a.toNat ≥ b.toNat)

/-- The values of 03 R73 by number, but %lane and %clock, for a user team of a grid and a cohort. -/
def specialValue (s : State) (x : Issuer) (n : Nat) : Option Word :=
  if x.t.sup then none
  else match s.grid x.t.gid, klook s.cohorts x.t.cid with
  | some g, some c => some (match n with
    | 1 => word x.t.team
    | 2 => word c.teams.length
    | 3 => word x.t.cohort
    | 4 => word g.n
    | 5 => word (x.t.gid % 65536)
    | 6 => word g.depth
    | 7 => x.t.leaf
    | 8 => x.t.tile
    | 9 => x.t.klo
    | 10 => x.t.khi
    | 11 => x.t.fixup
    | _ => word x.pi)
  | _, _ => none

/-- Bits [23:12], and bits [31:24], replaced (03 R74). -/
def middleReplaced (d : Word) (i : Nat) : Word := word (d.toNat / 2 ^ 24 * 2 ^ 24 + i * 2 ^ 12 + d.toNat % 2 ^ 12)
def topReplaced (d : Word) (i : Nat) : Word := word (i * 2 ^ 24 + d.toNat % 2 ^ 24)

/-- The short moves, immediates and comparisons of the lanes (03 R72-R74, 05 R135, R136). -/
def laneMove (s : State) (x : Issuer) (i : Instr) : Option Result :=
  match i with
  | .movVV f => some (rowUN x f id)
  | .movVS f => some (perLane x f.h 4 fun l => [.v f.d.toNat l (x.t.sr f.a.toNat)])
  | .movWW f => some (perLane x f.h 4 fun l => pairWrites f.d.toNat l (x.t.wr f.a.toNat l))
  | .movWZ f => some (perLane x f.h 4 fun l => pairWrites f.d.toNat l (x.t.zr f.a.toNat))
  | .movVP f => some (perLane x f.h 4 fun l => [.v f.d.toNat l (if x.t.pr f.a.toNat l then 1 else 0)])
  | .movPV f => some (perLane x f.h 4 fun l => [.p f.d.toNat l (decide (x.t.vr f.a.toNat l ≠ 0))])
  | .movVSpecial f =>
    if f.a.toNat = 0 then some (perLane x f.h 4 fun l => [.v f.d.toNat l (word l)])
    else if f.a.toNat = 13 then some (perLane x f.h 4 fun l => pairWrites f.d.toNat l (s.now x.t.die))
    else (specialValue s x f.a.toNat).map fun v => perLane x f.h 4 fun l => [.v f.d.toNat l v]
  | .movi f => some (perLane x f.h 4 fun l => [.v f.d.toNat l (BitVec.ofInt 32 f.i.toInt)])
  | .moviH1 f => some (perLane x f.h 4 fun l => [.v f.d.toNat l (middleReplaced (x.t.vr f.d.toNat l) f.i.toNat)])
  | .moviH2 f => some (perLane x f.h 4 fun l => [.v f.d.toNat l (topReplaced (x.t.vr f.d.toNat l) f.i.toNat)])
  | .setp f => some (perLane x f.h 4 fun l =>
      [.p f.pd.toNat l (compared f.cc.toNat (x.t.vr f.a.toNat l) (x.t.vr f.b.toNat l))])
  | _ => none

/-- One uniform register. -/
def rowS (x : Issuer) (h : Hdr) (d : BitVec 6) (v : Word) : Result := perTeam x h [.s d.toNat v]
/-- A uniform pair. -/
def rowZ (x : Issuer) (h : Hdr) (d : BitVec 6) (v : Dword) : Result := perTeam x h (uniPairWrites d.toNat v)

/-- The short instructions of the uniform registers (03 R72-R74, 04 R117, 05 R133-R136, R140). -/
def uniformRow (s : State) (x : Issuer) (i : Instr) : Option Result :=
  match i with
  | .iaddUniform f => some (rowS x f.h f.d (word ((x.t.sr f.a.toNat).toNat + (x.t.sr f.b.toNat).toNat)))
  | .isubUniform f => some (rowS x f.h f.d (BitVec.ofInt 32 ((x.t.sr f.a.toNat).toInt - (x.t.sr f.b.toNat).toInt)))
  | .imulUniform f => some (rowS x f.h f.d (word ((x.t.sr f.a.toNat).toNat * (x.t.sr f.b.toNat).toNat)))
  | .iandUniform f => some (rowS x f.h f.d (x.t.sr f.a.toNat &&& x.t.sr f.b.toNat))
  | .iorUniform f => some (rowS x f.h f.d (x.t.sr f.a.toNat ||| x.t.sr f.b.toNat))
  | .ixorUniform f => some (rowS x f.h f.d (x.t.sr f.a.toNat ^^^ x.t.sr f.b.toNat))
  | .ishlUniform f => some (rowS x f.h f.d (shiftLeft (x.t.sr f.a.toNat) (x.t.sr f.b.toNat).toNat))
  | .iadd64Uniform f => some (rowZ x f.h f.d (dword ((x.t.zr f.a.toNat).toNat + (x.t.zr f.b.toNat).toNat)))
  | .addiUniform f => some (rowS x f.h f.d (BitVec.ofInt 32 ((x.t.sr f.a.toNat).toInt + f.i.toInt)))
  | .shliUniform f => some (rowS x f.h f.d (shiftLeft (x.t.sr f.a.toNat) f.i.toNat))
  | .shriUniform f => some (rowS x f.h f.d (shiftRight (x.t.sr f.a.toNat) f.i.toNat))
  | .addi64Uniform f => some (rowZ x f.h f.d (BitVec.ofInt 64 ((x.t.zr f.a.toNat).toInt + f.i.toInt)))
  | .popcUniform f | .clzUniform f | .ctzUniform f | .brevUniform f | .inegUniform f | .inotUniform f | .iabsUniform f
  | .sextB8Uniform f | .sextB16Uniform f | .zextB8Uniform f | .zextB16Uniform f =>
      (unary i).map fun u => rowS x f.h f.d (u.2 (x.t.sr f.a.toNat))
  | .popc64Uniform f => some (rowS x f.h f.d (word (countOnes 64 (x.t.zr f.a.toNat).toNat)))
  | .clz64Uniform f => some (rowS x f.h f.d (word (zerosAbove 64 (x.t.zr f.a.toNat).toNat)))
  | .ineg64Uniform f => some (rowZ x f.h f.d (BitVec.ofInt 64 (-(x.t.zr f.a.toNat).toInt)))
  | .movSS f => some (rowS x f.h f.d (x.t.sr f.a.toNat))
  | .movZZ f => some (rowZ x f.h f.d (x.t.zr f.a.toNat))
  | .movSQ f => some (rowS x f.h f.d (if x.t.qr f.a.toNat then 1 else 0))
  | .movQS f => some (perTeam x f.h [.q f.d.toNat (decide (x.t.sr f.a.toNat ≠ 0))])
  | .movSV f => some ⟨4, f.h.s, false, (x.lanes f.h).head?.toList.map fun l => .s f.d.toNat (x.t.vr f.a.toNat l), 0⟩
  | .movSSpecial f =>
    if f.a.toNat = 13 then some (rowZ x f.h f.d (s.now x.t.die))
    else (specialValue s x f.a.toNat).map fun v => rowS x f.h f.d v
  | .moviUniform f => some (rowS x f.h f.d (BitVec.ofInt 32 f.i.toInt))
  | .moviH1Uniform f => some (rowS x f.h f.d (middleReplaced (x.t.sr f.d.toNat) f.i.toNat))
  | .moviH2Uniform f => some (rowS x f.h f.d (topReplaced (x.t.sr f.d.toNat) f.i.toNat))
  | .setpUniform f => some (perTeam x f.h [.q f.pd.toNat (compared f.cc.toNat (x.t.sr f.a.toNat) (x.t.sr f.b.toNat))])
  | .rdfmt f => some (rowS x f.h f.d x.path.fmt)
  | .rdfpm f => some (rowS x f.h f.d x.t.fpm)
  | .rdfst f => some (rowS x f.h f.d x.t.fst)
  | .adr f => some (perTeam x f.h (uniPairWrites (2 * f.w.toNat) (BitVec.ofInt 64 (x.path.pc.toInt + 2 * f.off.toInt))))
  | _ => none

end Sys2Proof.Machine

/-- The short integer and logic instructions of the lanes complete: in each acting lane the destination takes the value
that 03 R62 and 05 R127-R133 give; every other lane and register, the predicates, the uniform registers, FST, every other
team and all of memory are as before (05 R125). -/
def Obligations.LaneIntegerInstructionsComplete : Prop :=
  ∀ (i : Instr) (r : Result) (s : State) (x : Issuer), laneInteger x i = some r → s.issuer = some x →
    CompletesWith i s x r

/-- The moves, immediates, special values and comparisons of the lanes complete with the values of 03 R72-R74 and
05 R136; a write to p7 is discarded. The instruction is well-formed: a reserved condition code or an unassigned special
number traps at decoding (03 R86). -/
def Obligations.LaneMovesAndComparisonsComplete : Prop :=
  ∀ (i : Instr) (r : Result) (s : State) (x : Issuer), WellFormed i = true → laneMove s x i = some r → s.issuer = some x →
    CompletesWith i s x r

/-- The uniform instructions complete with the values their rules give when the uniform predicate, inverted by n, holds,
and write nothing when it does not; writes to s0, z0 and q3 are discarded. The instruction is well-formed (03 R86). -/
def Obligations.UniformInstructionsComplete : Prop :=
  ∀ (i : Instr) (r : Result) (s : State) (x : Issuer), WellFormed i = true → uniformRow s x i = some r → s.issuer = some x →
    CompletesWith i s x r

namespace Sys2Proof.Machine

/-! ### Floating-point results (06 R152-R170) -/

/-- A lane instruction with flags: each acting lane's writes, and the flags of all acting lanes together (04 R114). -/
def flagged (x : Issuer) (h : Hdr) (len : Nat) (long : Bool) (g : Nat → List RegWrite × Word) : Result :=
  { len := len, mark := h.s, long := long, ws := (x.lanes h).flatMap fun l => (g l).1,
    flags := (x.lanes h).foldl (fun acc l => acc ||| (g l).2) 0 }

/-- One FP32 result in a register, from a value and its flags. -/
def inReg (d : BitVec 6) (l : Nat) (r : Nat × Word) : List RegWrite × Word := ([.v d.toNat l (word r.1)], r.2)
/-- One FP64 result in a pair. -/
def inPair (d : BitVec 6) (l : Nat) (r : Nat × Word) : List RegWrite × Word := (pairWrites d.toNat l (dword r.1), r.2)

def rowF32 (x : Issuer) (f : RR) (long : Bool) (g : Word → Nat → Nat → Nat × Word) : Result :=
  flagged x f.h 4 long fun l => inReg f.d l (g x.t.fpm (x.t.vr f.a.toNat l).toNat (x.t.vr f.b.toNat l).toNat)
def rowF64 (x : Issuer) (f : RR) (long : Bool) (g : Word → Nat → Nat → Nat × Word) : Result :=
  flagged x f.h 4 long fun l => inPair f.d l (g x.t.fpm (x.t.wr f.a.toNat l).toNat (x.t.wr f.b.toNat l).toNat)
def rowFC (x : Issuer) (f : C16) (g : Word → Nat → Nat → Nat × Word) : Result :=
  flagged x (always f.s) 2 false fun l =>
    ([.v f.d.toNat l (word (g x.t.fpm (x.t.vr f.d.toNat l).toNat (x.t.vr f.b.toNat l).toNat).1)],
      (g x.t.fpm (x.t.vr f.d.toNat l).toNat (x.t.vr f.b.toNat l).toNat).2)
def rowU32 (x : Issuer) (f : UN) (long : Bool) (g : Word → Nat → Nat × Word) : Result :=
  flagged x f.h 4 long fun l => inReg f.d l (g x.t.fpm (x.t.vr f.a.toNat l).toNat)
def rowU64 (x : Issuer) (f : UN) (long : Bool) (g : Word → Nat → Nat × Word) : Result :=
  flagged x f.h 4 long fun l => inPair f.d l (g x.t.fpm (x.t.wr f.a.toNat l).toNat)
/-- Both FP16 elements of the registers, each with its own result: element 0 in bits 15-0 (06 R154). -/
def rowF16 (x : Issuer) (f : RR) (g : Word → Nat → Nat → Nat → Nat × Word) : Result :=
  flagged x f.h 4 true fun l =>
    let at_ (k : Nat) := g x.t.fpm ((x.t.vr f.a.toNat l).toNat / 65536 ^ k % 65536)
      ((x.t.vr f.b.toNat l).toNat / 65536 ^ k % 65536) ((x.t.vr f.d.toNat l).toNat / 65536 ^ k % 65536)
    ([.v f.d.toNat l (word ((at_ 0).1 + 65536 * (at_ 1).1))], (at_ 0).2 ||| (at_ 1).2)
/-- An estimate (06 R161, log 6). -/
def rowEst (x : Issuer) (f : UN) (fn : Nat) : Result :=
  flagged x f.h 4 true fun l => inReg f.d l (estimate fn x.t.fpm (x.t.vr f.a.toNat l))

/-- The floating-point instructions but the conversions, with their results: fadd, fsub, fmul, ffma, fdiv and fsqrt as the
correctly rounded operations of 04 R106-R112 (FFmt.add and so on), the sign operations and fclass as bit patterns. -/
def floatRow (x : Issuer) (i : Instr) : Option Result :=
  match i with
  | .faddC f => some (rowFC x f FFmt.f32.add)
  | .fsubC f => some (rowFC x f FFmt.f32.sub)
  | .fmulC f => some (rowFC x f FFmt.f32.mul)
  | .fmaxC f => some (rowFC x f fun m a b => FFmt.f32.minMax m true a b)
  | .fminC f => some (rowFC x f fun m a b => FFmt.f32.minMax m false a b)
  | .faddF32 f => some (rowF32 x f false FFmt.f32.add)
  | .fsubF32 f => some (rowF32 x f false FFmt.f32.sub)
  | .fmulF32 f => some (rowF32 x f false FFmt.f32.mul)
  | .ffmaF32 f => some (flagged x f.h 4 false fun l => inReg f.d l
      (FFmt.f32.fma x.t.fpm (x.t.vr f.a.toNat l).toNat (x.t.vr f.b.toNat l).toNat (x.t.vr f.d.toNat l).toNat))
  | .fminF32 f => some (rowF32 x f false fun m a b => FFmt.f32.minMax m false a b)
  | .fmaxF32 f => some (rowF32 x f false fun m a b => FFmt.f32.minMax m true a b)
  | .fdivF32 f => some (rowF32 x f true FFmt.f32.div)
  | .fcpsgnF32 f => some (rowF32 x f false fun _ a b => (a % 2 ^ 31 + b / 2 ^ 31 * 2 ^ 31, 0))
  | .faddF64 f => some (rowF64 x f false FFmt.f64.add)
  | .fsubF64 f => some (rowF64 x f false FFmt.f64.sub)
  | .fmulF64 f => some (rowF64 x f false FFmt.f64.mul)
  | .ffmaF64 f => some (flagged x f.h 4 false fun l => inPair f.d l
      (FFmt.f64.fma x.t.fpm (x.t.wr f.a.toNat l).toNat (x.t.wr f.b.toNat l).toNat (x.t.wr f.d.toNat l).toNat))
  | .fminF64 f => some (rowF64 x f false fun m a b => FFmt.f64.minMax m false a b)
  | .fmaxF64 f => some (rowF64 x f false fun m a b => FFmt.f64.minMax m true a b)
  | .fdivF64 f => some (rowF64 x f true FFmt.f64.div)
  | .fcpsgnF64 f => some (rowF64 x f false fun _ a b => (a % 2 ^ 63 + b / 2 ^ 63 * 2 ^ 63, 0))
  | .faddF16x2 f => some (rowF16 x f fun m a b _ => FFmt.f16.add m a b)
  | .fsubF16x2 f => some (rowF16 x f fun m a b _ => FFmt.f16.sub m a b)
  | .fmulF16x2 f => some (rowF16 x f fun m a b _ => FFmt.f16.mul m a b)
  | .ffmaF16x2 f => some (rowF16 x f FFmt.f16.fma)
  | .fminF16x2 f => some (rowF16 x f fun m a b _ => FFmt.f16.minMax m false a b)
  | .fmaxF16x2 f => some (rowF16 x f fun m a b _ => FFmt.f16.minMax m true a b)
  | .fsqrtF32 f => some (rowU32 x f true FFmt.f32.sqrt)
  | .fsqrtF64 f => some (rowU64 x f true FFmt.f64.sqrt)
  | .frcpF32 f => some (rowEst x f 2)
  | .frsqF32 f => some (rowEst x f 3)
  | .fex2F32 f => some (rowEst x f 4)
  | .flg2F32 f => some (rowEst x f 5)
  | .fsinF32 f => some (rowEst x f 6)
  | .fcosF32 f => some (rowEst x f 7)
  | .fabsF32 f => some (rowU32 x f false fun _ a => (a % 2 ^ 31, 0))
  | .fabsF64 f => some (rowU64 x f false fun _ a => (a % 2 ^ 63, 0))
  | .fnegF32 f => some (rowU32 x f false fun _ a => (if a < 2 ^ 31 then a + 2 ^ 31 else a - 2 ^ 31, 0))
  | .fnegF64 f => some (rowU64 x f false fun _ a => (if a < 2 ^ 63 then a + 2 ^ 63 else a - 2 ^ 63, 0))
  | .fclassF32 f => some (rowU32 x f false fun _ a => (FFmt.f32.classMask a, 0))
  | .fclassF64 f => some (rowU64 x f false fun _ a => (FFmt.f64.classMask a, 0))
  | .frintF32 f => some (rowU32 x f true FFmt.f32.rint)
  | .frintF64 f => some (rowU64 x f true FFmt.f64.rint)
  | .fsetpF32 f => some (flagged x f.h 4 false fun l =>
      let r := FFmt.f32.setp x.t.fpm f.cc.toNat (x.t.vr f.a.toNat l).toNat (x.t.vr f.b.toNat l).toNat
      ([.p f.pd.toNat l r.1], r.2))
  | .fsetpF64 f => some (flagged x f.h 4 false fun l =>
      let r := FFmt.f64.setp x.t.fpm f.cc.toNat (x.t.wr f.a.toNat l).toNat (x.t.wr f.b.toNat l).toNat
      ([.p f.pd.toNat l r.1], r.2))
  | _ => none

/-- A conversion: its acting-lane header, rounding field (0 for a form without one), destination, source, whether the
source and the destination are pairs, and the two formats with saturation (06 R164). -/
structure Conversion where
  h : Hdr
  rnd : Nat
  d : BitVec 6
  a : BitVec 6
  fromPair : Bool
  toPair : Bool
  source : Source
  target : Target
  sat : Bool

/-- A conversion with a rounding field, and one without. -/
def conv (f : CV) (fromPair toPair : Bool) (S : Source) (T : Target) (sat : Bool) : Option Conversion :=
  some ⟨f.h, f.rnd.toNat, f.d, f.a, fromPair, toPair, S, T, sat⟩
def conv0 (f : UN) (fromPair toPair : Bool) (S : Source) (T : Target) : Option Conversion :=
  some ⟨f.h, 0, f.d, f.a, fromPair, toPair, S, T, false⟩

/-- The table of 06 R164: cvt T.S converts S to T, and cvt.sat saturates. -/
def conversion (i : Instr) : Option Conversion :=
  match i with
  | .cvtF32F64 f => conv f true false (.flt .f64) (.flt .f32) false
  | .cvtF64F32 f => conv0 f false true (.flt .f32) (.flt .f64)
  | .cvtF16F32 f => conv f false false (.flt .f32) (.flt .f16) false
  | .cvtF32F16 f => conv0 f false false (.flt .f16) (.flt .f32)
  | .cvtBf16F32 f => conv f false false (.flt .f32) (.flt .bf16) false
  | .cvtF32Bf16 f => conv0 f false false (.flt .bf16) (.flt .f32)
  | .cvtE4m3F32 f => conv f false false (.flt .f32) (.flt .e4m3) false
  | .cvtE5m2F32 f => conv f false false (.flt .f32) (.flt .e5m2) false
  | .cvtF32E4m3 f => conv0 f false false (.flt .e4m3) (.flt .f32)
  | .cvtF32E5m2 f => conv0 f false false (.flt .e5m2) (.flt .f32)
  | .cvtE2m1F32 f => conv f false false (.flt .f32) (.flt .e2m1) false
  | .cvtF32E2m1 f => conv0 f false false (.flt .e2m1) (.flt .f32)
  | .cvtP2p8F32 f => conv f false false (.flt .f32) .p2p8 false
  | .cvtF32P2p8 f => conv0 f false false .p2p8 (.flt .f32)
  | .cvtS32F32 f => conv f false false (.flt .f32) (.int int32) false
  | .cvtN32F32 f => conv f false false (.flt .f32) (.int uint32) false
  | .cvtF32S32 f => conv f false false (.int int32) (.flt .f32) false
  | .cvtF32N32 f => conv f false false (.int uint32) (.flt .f32) false
  | .cvtS32F64 f => conv f true false (.flt .f64) (.int int32) false
  | .cvtF64S32 f => conv0 f false true (.int int32) (.flt .f64)
  | .cvtS64F64 f => conv f true true (.flt .f64) (.int int64) false
  | .cvtF64S64 f => conv f true true (.int int64) (.flt .f64) false
  | .cvtS8F32 f => conv f false false (.flt .f32) (.int int8) false
  | .cvtS4F32 f => conv f false false (.flt .f32) (.int int4) false
  | .cvtF32S8 f => conv0 f false false (.int int8) (.flt .f32)
  | .cvtF32S4 f => conv0 f false false (.int int4) (.flt .f32)
  | .cvtF16F64 f => conv f true false (.flt .f64) (.flt .f16) false
  | .cvtE8m0F32 f => conv f false false (.flt .f32) .e8m0 false
  | .cvtF32E8m0 f => conv0 f false false .e8m0 (.flt .f32)
  | .cvtSatF32F64 f => conv f true false (.flt .f64) (.flt .f32) true
  | .cvtSatF16F32 f => conv f false false (.flt .f32) (.flt .f16) true
  | .cvtSatBf16F32 f => conv f false false (.flt .f32) (.flt .bf16) true
  | .cvtSatE4m3F32 f => conv f false false (.flt .f32) (.flt .e4m3) true
  | .cvtSatE5m2F32 f => conv f false false (.flt .f32) (.flt .e5m2) true
  | .cvtSatE2m1F32 f => conv f false false (.flt .f32) (.flt .e2m1) true
  | .cvtSatP2p8F32 f => conv f false false (.flt .f32) .p2p8 true
  | .cvtSatS32F32 f => conv f false false (.flt .f32) (.int int32) true
  | .cvtSatN32F32 f => conv f false false (.flt .f32) (.int uint32) true
  | .cvtSatF32S32 f => conv f false false (.int int32) (.flt .f32) true
  | .cvtSatF32N32 f => conv f false false (.int uint32) (.flt .f32) true
  | .cvtSatS32F64 f => conv f true false (.flt .f64) (.int int32) true
  | .cvtSatS64F64 f => conv f true true (.flt .f64) (.int int64) true
  | .cvtSatF64S64 f => conv f true true (.int int64) (.flt .f64) true
  | .cvtSatS8F32 f => conv f false false (.flt .f32) (.int int8) true
  | .cvtSatS4F32 f => conv f false false (.flt .f32) (.int int4) true
  | .cvtSatF16F64 f => conv f true false (.flt .f64) (.flt .f16) true
  | .cvtSatE8m0F32 f => conv f false false (.flt .f32) .e8m0 true
  | _ => none

/-- The rounding of a conversion: rnd 0 takes FPM.RM, 1 to 5 name modes 0 to 4, and 6 is stochastic with the
destination's old value as its bits (03 R83, 04 R107). -/
def Conversion.rounding (c : Conversion) (fpm old : Word) : Rnd :=
  if c.rnd = 0 then { mode := fpm.toNat % 8, u := 0 }
  else if c.rnd = 6 then { mode := 5, u := old.toNat }
  else { mode := c.rnd - 1, u := 0 }

/-- The source's value rounded once into the target's format, and delivered at the register or pair (06 R165). -/
def Conversion.result (c : Conversion) (x : Issuer) : Result :=
  flagged x c.h 4 true fun l =>
    let source := if c.fromPair then (x.t.wr c.a.toNat l).toNat else (x.t.vr c.a.toNat l).toNat
    let r := convertVal c.target (if c.toPair then 64 else 32) (c.rounding x.t.fpm (x.t.vr c.d.toNat l)) x.t.fpm c.sat
      (readSource c.source x.t.fpm source)
    if c.toPair then inPair c.d l r else inReg c.d l r

/-- mxscale, mxq and mxdq (06 R168-R170): one descriptor for the acting lanes of each pass of 32 lanes; an element, or an
FP32 value, of each acting lane. -/
def mxRow (x : Issuer) (i : Instr) : Option Result :=
  match i with
  | .mxscale f =>
    let pass (l : Nat) := (x.lanes f.h).filter fun k => k / 32 == l / 32
    some (flagged x f.h 4 false fun l => inReg f.d l (mxDescriptor x.t f.a.toNat f.b.toNat (pass l)))
  | .mxq f => some (flagged x f.h 4 true fun l => inReg f.d l
      (mxQuantise x.t.fpm (FFmt.f32.operand x.t.fpm (x.t.vr f.a.toNat l).toNat) (x.t.vr f.b.toNat l).toNat))
  | .mxdq f => some (flagged x f.h 4 true fun l => inReg f.d l
      (mxExpand x.t.fpm (x.t.vr f.a.toNat l).toNat (x.t.vr f.b.toNat l).toNat))
  | _ => none

end Sys2Proof.Machine

/-- The floating-point instructions complete: short ones with results and flags delivered, the .f16x2, divide, root,
integral and estimate forms long (06 R153); the flags of every acting lane are ORed into FST and nothing else changes. The
instruction is well-formed: a reserved comparison traps at decoding (03 R86). -/
def Obligations.FloatInstructionsComplete : Prop :=
  ∀ (i : Instr) (r : Result) (s : State) (x : Issuer), WellFormed i = true → floatRow x i = some r → s.issuer = some x →
    CompletesWith i s x r

/-- The conversions complete, long, each acting lane with its source's value rounded once into its target (06 R164-R167). The
instruction is well-formed: rounding code 7 traps at decoding (03 R83, R86). -/
def Obligations.ConversionsComplete : Prop :=
  ∀ (i : Instr) (c : Conversion) (s : State) (x : Issuer), WellFormed i = true → conversion i = some c → s.issuer = some x →
    CompletesWith i s x (c.result x)

/-- mxscale, mxq and mxdq complete with the descriptor, element and value of 06 R168-R170. -/
def Obligations.QuantisationInstructionsComplete : Prop :=
  ∀ (i : Instr) (r : Result) (s : State) (x : Issuer), mxRow x i = some r → s.issuer = some x →
    CompletesWith i s x r

namespace Sys2Proof.Machine

/-! ### Lane-cross results (05 R145-R149) -/

/-- A lane-cross instruction: short in a team one pass wide, long in a wider one (05 R145). -/
def crossing (x : Issuer) (h : Hdr) (ws : List RegWrite) (flags : Word) : Result :=
  { len := 4, mark := h.s, long := decide (x.t.width ≠ 32), ws := ws, flags := flags }

/-- shfl: a participating lane reads va of its source lane, or of itself when that is no participating lane (05 R146). -/
def shuffled (x : Issuer) (f : RR) (source : Nat → Nat → Int) : Result :=
  let read (l : Nat) : Word :=
    let k := source l (x.t.vr f.b.toNat l).toNat
    if 0 ≤ k ∧ k.toNat ∈ x.lanes f.h then x.t.vr f.a.toNat k.toNat else x.t.vr f.a.toNat l
  crossing x f.h ((x.lanes f.h).map fun l => .v f.d.toNat l (read l)) 0

/-- Word j of a ballot: bit k is the vote of lane 32 j + k (05 R147). -/
def ballotWord (x : Issuer) (f : VTR) (j : Nat) : Word :=
  word (((List.range 32).map fun k =>
    if 32 * j + k ∈ x.lanes f.h ∧ x.t.pr f.ps.toNat (32 * j + k) then 2 ^ k else 0).sum)

/-- The participating lanes that vote for it. -/
def inFavour (x : Issuer) (h : Hdr) (ps : BitVec 3) : List Nat := (x.lanes h).filter fun l => x.t.pr ps.toNat l

/-- The sum of va over some lanes in ascending order, from a start value, and its flags (05 R148). -/
def laneSum (add : Word → Word → Word × Word) (start : Word) (xs : List Word) : Word × Word :=
  xs.foldl (fun acc w => ((add acc.1 w).1, acc.2 ||| (add acc.1 w).2)) (start, 0)
/-- Integer addition, and FP32 addition under FPM. -/
def sumI (a b : Word) : Word × Word := (word (a.toNat + b.toNat), 0)
def sumF (fpm : Word) (a b : Word) : Word × Word :=
  (word (FFmt.f32.add fpm a.toNat b.toNat).1, (FFmt.f32.add fpm a.toNat b.toNat).2)

/-- scan: each participating lane's prefix sum, with its own value or without (05 R148). -/
def scanned (x : Issuer) (f : UN) (inclusive : Bool) (add : Word → Word → Word × Word) (start : Word) : Result :=
  let upTo (l : Nat) : List Word :=
    ((x.lanes f.h).filter fun k => if inclusive then decide (k ≤ l) else decide (k < l)).map fun k => x.t.vr f.a.toNat k
  crossing x f.h ((x.lanes f.h).map fun l => .v f.d.toNat l (laneSum add start (upTo l)).1)
    (laneSum add start ((x.lanes f.h).map fun k => x.t.vr f.a.toNat k)).2

/-- The participating lanes with the key of lane l (05 R149). -/
def sameKey (x : Issuer) (f : MT) (l : Nat) : List Nat :=
  (x.lanes f.h).filter fun k => decide (x.t.vr f.a.toNat k = x.t.vr f.a.toNat l)
/-- Lane l leads its group: it is the lowest of it. -/
def leads (x : Issuer) (f : MT) (l : Nat) : Bool := (sameKey x f l).all fun k => decide (l ≤ k)
/-- The predicate writes of match, before its register writes. -/
def leadWrites (x : Issuer) (f : MT) : List RegWrite := (x.lanes f.h).map fun l => .p f.pd.toNat l (leads x f l)
/-- match.sum: each leader's vd becomes the sum of its group's vd (05 R149). -/
def matchSummed (x : Issuer) (f : MT) (add : Word → Word → Word × Word) (start : Word) : Result :=
  let total (l : Nat) := laneSum add start ((sameKey x f l).map fun k => x.t.vr f.d.toNat k)
  let leaders := (x.lanes f.h).filter fun l => leads x f l
  crossing x f.h (leadWrites x f ++ leaders.map fun l => .v f.d.toNat l (total l).1)
    (leaders.foldl (fun acc l => acc ||| (total l).2) 0)

/-- The lane-cross instructions but regroup, with their results. -/
def crossRow (x : Issuer) (i : Instr) : Option Result :=
  match i with
  | .shflIdx f => some (shuffled x f fun _ k => k)
  | .shflXor f => some (shuffled x f fun l k => (l ^^^ k : Nat))
  | .shflUp f => some (shuffled x f fun l k => (l : Int) - k)
  | .shflDown f => some (shuffled x f fun l k => (l : Int) + k)
  | .voteAny f => some (crossing x f.h ((x.lanes f.h).map fun l =>
      .p f.pd.toNat l (decide (0 < (inFavour x f.h f.ps).length))) 0)
  | .voteAll f => some (crossing x f.h ((x.lanes f.h).map fun l =>
      .p f.pd.toNat l ((x.lanes f.h).all fun k => x.t.pr f.ps.toNat k)) 0)
  | .voteAnyUniform f => some (crossing x f.h (if x.lanes f.h = [] then [] else
      [.q f.pd.toNat (decide (0 < (inFavour x f.h f.ps).length))]) 0)
  | .voteAllUniform f => some (crossing x f.h (if x.lanes f.h = [] then [] else
      [.q f.pd.toNat ((x.lanes f.h).all fun k => x.t.pr f.ps.toNat k)]) 0)
  | .voteCount f => some (crossing x f.h ((x.lanes f.h).map fun l =>
      .v f.d.toNat l (word (inFavour x f.h f.ps).length)) 0)
  | .voteCountUniform f => some (crossing x f.h (if x.lanes f.h = [] then [] else
      [.s f.d.toNat (word (inFavour x f.h f.ps).length)]) 0)
  | .voteBallot f => some (crossing x f.h ((x.lanes f.h).map fun l => .v f.d.toNat l (ballotWord x f (l / 32))) 0)
  | .voteBallotUniform f => some (crossing x f.h (if x.lanes f.h = [] then [] else
      (List.range (x.t.width / 32)).map fun j => .s (f.d.toNat + j) (ballotWord x f j)) 0)
  | .scanIncI32 f => some (scanned x f true sumI 0)
  | .scanExcI32 f => some (scanned x f false sumI 0)
  | .scanIncF32 f => some (scanned x f true (sumF x.t.fpm) 0x80000000)
  | .scanExcF32 f => some (scanned x f false (sumF x.t.fpm) 0x80000000)
  | .matchLead f => some (crossing x f.h (leadWrites x f ++
      (x.lanes f.h).map fun l => .v f.d.toNat l (word ((sameKey x f l).headD l))) 0)
  | .matchRank f => some (crossing x f.h (leadWrites x f ++
      (x.lanes f.h).map fun l => .v f.d.toNat l (word ((sameKey x f l).filter fun k => decide (k < l)).length)) 0)
  | .matchSumI32 f => some (matchSummed x f sumI 0)
  | .matchSumF32 f => some (matchSummed x f (sumF x.t.fpm) 0x80000000)
  | _ => none

end Sys2Proof.Machine

/-- The lane-cross instructions but regroup complete with the results of 05 R146-R149, short in a team one pass wide and
long in a wider one. -/
def Obligations.LaneCrossInstructionsComplete : Prop :=
  ∀ (i : Instr) (r : Result) (s : State) (x : Issuer), crossRow x i = some r → s.issuer = some x →
    CompletesWith i s x r

namespace Sys2Proof.Machine

/-! ### Mode state and control flow (02 R45-R48, 04 R117, 05 R137-R143) -/

/-- The writes of FMT, FPM and FST: the header, and the three values after an instruction that acts. A value of FPM with a
reserved field (RM above 4, FMODE above 1) is not among them. -/
def modeRow (x : Issuer) (i : Instr) : Option (Hdr × Word × Word × Word) :=
  match i with
  | .wrfmt f => some (f.h, x.t.sr f.a.toNat, x.t.fpm, x.t.fst)
  | .wrfpm f =>
    let v := (x.t.sr f.a.toNat).toNat
    if v % 8 ≤ 4 ∧ v / 32 % 4 ≤ 1 then some (f.h, x.path.fmt, word (v % 256), x.t.fst) else none
  | .wrfst f => some (f.h, x.path.fmt, x.t.fpm, word ((x.t.sr f.a.toNat).toNat % 128))
  | .clrfst f => some (f.h, x.path.fmt, x.t.fpm, x.t.fst &&& ~~~word ((x.t.sr f.a.toNat).toNat % 128))
  | _ => none

/-- The lanes of the issuing path. -/
def Issuer.active (x : Issuer) : List Nat := lanesOf x.t.width x.path.mask

/-- The branches: each active lane's next PC, and the register writes made with it (05 R137-R139). jmp, callr and ret are
listed when no acting lane's target is odd. -/
def branchRow (x : Issuer) (i : Instr) : Option (Hdr × (Nat → Dword) × List RegWrite) :=
  let go (h : Hdr) (target : Nat → Dword) (l : Nat) : Dword := if l ∈ x.lanes h then target l else x.path.pc + 4
  let rel {n : Nat} (off : BitVec n) : Dword := BitVec.ofInt 64 (x.path.pc.toInt + 2 * off.toInt)
  let link (h : Hdr) (w : Nat) : List RegWrite := (x.lanes h).flatMap fun l => pairWrites w l (x.path.pc + 4)
  let even (h : Hdr) (a : Nat) : Bool := (x.lanes h).all fun l => (x.t.vr a l).toNat % 2 == 0
  match i with
  | .bra f => some (f.h, go f.h fun _ => rel f.off, [])
  | .braU f => some (f.h, fun _ => if x.uacts f.h then rel f.off else x.path.pc + 4, [])
  | .call f => some (f.h, go f.h fun _ => rel f.off, link f.h (2 * f.w.toNat))
  | .jmp f | .ret f => if even f.h f.a.toNat then some (f.h, go f.h fun l => x.t.wr f.a.toNat l, []) else none
  | .callr f =>
    if even f.h f.a.toNat then some (f.h, go f.h fun l => x.t.wr f.a.toNat l, link f.h f.d.toNat) else none
  | _ => none

/-- The state of a path that stands at the next instruction: parked when the marker stands and results of its lanes are
outstanding (02 R54). -/
def pathAfter (mark : Bool) (t' : Team) (j : Nat) (p : Path) : PathState :=
  if mark && t'.outstanding j p.mask then .parked else .ready

/-- The team's paths after a branch of the path x: every active lane stands at its next PC, in an entry with exactly the
lanes that go there; the entry of the lowest PC keeps the index, the others take free ones (02 R45). -/
structure Branched (x : Issuer) (mark : Bool) (next : Nat → Dword) (t' : Team) : Prop where
  lanes : ∀ l ∈ x.active, ∃ j p, t'.path j = some p ∧ p.pc = next l ∧
    (∀ k, k < x.t.width → (p.mask.getLsbD k = true ↔ k ∈ x.active ∧ next k = next l)) ∧
    p.fmt = x.path.fmt ∧ p.mark = false ∧ p.st = pathAfter mark t' j p ∧
    (j = x.pi ∨ x.t.path j = none)
  lowest : ∀ p, t'.path x.pi = some p → ∀ l ∈ x.active, p.pc.toNat ≤ (next l).toNat
  others : ∀ j p, j ≠ x.pi → x.t.path j = some p → t'.path j = some p

end Sys2Proof.Machine

/-- wrfmt, wrfpm, wrfst and clrfst complete: an acting one writes its state and no other, and the entry FMT of the path,
its lanes, every register and all of memory are as before (04 R117, 02 R52). -/
def Obligations.ModeWritesComplete : Prop :=
  ∀ (i : Instr) (h : Hdr) (fmt fpm fst : Word) (s : State) (x : Issuer),
    modeRow x i = some (h, fmt, fpm, fst) → s.issuer = some x →
    ∃ t t', exec i s = .next t ∧ OnlyTeam s x.tk t t' ∧
      t'.path x.pi = some { x.after 4 h.s t' with fmt := if x.uacts h then fmt else x.path.fmt } ∧
      (∀ j, j ≠ x.pi → t'.path j = x.t.path j) ∧
      t' = { x.t with fpm := if x.uacts h then fpm else x.t.fpm, fst := if x.uacts h then fst else x.t.fst,
                      paths := t'.paths }

/-- bra, bra.u, call, jmp, callr and ret complete when the path table has room: every active lane goes to its next PC, an
acting lane of call and callr has its return address, and registers, flags and memory are otherwise as before. -/
def Obligations.BranchesComplete : Prop :=
  ∀ (i : Instr) (h : Hdr) (next : Nat → Dword) (ws : List RegWrite) (s : State) (x : Issuer),
    branchRow x i = some (h, next, ws) → s.issuer = some x → x.active ≠ [] →
    x.t.paths.length + (x.active.map next).eraseDups.length - 1 ≤ x.t.npaths → x.t.npaths ≤ 64 →
    ∃ t t', exec i s = .next t ∧ OnlyTeam s x.tk t t' ∧ Branched x h.s next t' ∧ Written x.t ws t' ∧
      t'.long.map LongRes.writes = x.t.long.map LongRes.writes ∧
      t' = { x.t with v := t'.v, p := t'.p, s := t'.s, q := t'.q, long := t'.long, replay := t'.replay,
                      paths := t'.paths }

/-- exit completes: when every active lane acts the path is deleted, and otherwise its acting lanes leave it and it goes
on, parked at its marker if the staying lanes have results outstanding; of the results in flight exactly the writes to
those lanes are discarded, a result with none left has completed with its flags in FST (log 44), an engine command of a supervisor path
that is deleted belongs to no path, nor does a trap of one that waits to be taken, and no register, mode, operation, scratchpad
byte or byte of memory changes (02 R48, R54, 05 R141, 19 R398). That an operation of which the exit discards every result has
its flags in FST at that exit is the model's choice within what 04 R115 allows (log 44). -/
def Obligations.ExitCompletes : Prop :=
  ∀ (h : Hdr) (s : State) (x : Issuer), s.issuer = some x →
    let gone := x.t.sup = true ∧ x.path.mask &&& ~~~x.acts h = 0
    ∃ t t', exec (.exit h) s = .next t ∧ OnlyTeam { s with cmds := t.cmds, parts := t.parts } x.tk t t' ∧
      t.cmds = (s.cmds.map fun c => if gone ∧ c.tk = x.tk ∧ c.path = x.pi then { c with path := 0xFF } else c) ∧
      (¬gone → t.parts = s.parts) ∧
      (∀ pn, t.part pn = if gone ∧ x.tk = pn * 65536 then
          { s.part pn with svPending := (s.part pn).svPending.map fun e =>
              if e.2.path = x.pi then (e.1, { e.2 with path := 0xFF }) else e }
        else s.part pn) ∧
      (x.path.mask &&& ~~~x.acts h = 0 → t'.path x.pi = none) ∧
      (x.path.mask &&& ~~~x.acts h ≠ 0 → t'.path x.pi = some { x.path with
        pc := x.path.pc + 4, mask := x.path.mask &&& ~~~x.acts h, mark := false,
        st := if h.s && t'.outstanding x.pi (x.path.mask &&& ~~~x.acts h) then .parked else .ready }) ∧
      (∀ j, j ≠ x.pi → t'.path j = x.t.path j) ∧
      t'.long.map LongRes.writes = (x.t.long.map fun r => r.writes.filter fun w => !writeInLanes (x.acts h) w).filter
        (fun ws => !ws.isEmpty) ∧
      t'.fst = x.t.fst ||| (((x.t.long.filter fun r => r.writes.all (writeInLanes (x.acts h))).foldl
        (fun f r => f ||| r.flags) 0) &&& 0x7F) ∧
      t'.replay.map (fun r => { r with owners := [], before := [] }) =
        x.t.replay.map (fun r => { r with owners := [], before := [] }) ∧
      t' = { x.t with fst := t'.fst, long := t'.long, replay := t'.replay, paths := t'.paths }

namespace Sys2Proof.Machine

/-- The path of the issuing team has moved on, and every other team and all else of that team is as before. -/
structure PathMoved (s : State) (x : Issuer) (mark : Bool) (t : State) (t' : Team) : Prop where
  here : t.team x.tk = some t'
  others : ∀ k, k ≠ x.tk → t.team k = s.team k
  moved : Moved x 4 mark t'
  team : t' = { x.t with paths := t'.paths }

/-- Every unfinished access of the team comes before what the issuing path does next, and is else as it was (08 R208). -/
structure Followed (x : Issuer) (t' : Team) : Prop where
  same : t'.replay.map (fun r => { r with before := [] }) = x.t.replay.map fun r => { r with before := [] }
  after : ∀ r ∈ t'.replay, x.pi ∈ r.before

/-- The live teams of the issuing team's cohort, the team itself alone for the supervisor. -/
def Issuer.cohort (x : Issuer) (s : State) : List (Nat × Team) := cohortLive s x.tk x.t

/-- An order of lanes by key, equal keys by lane (02 R59). -/
def keyOrder (x : Issuer) (key : Nat) (a b : Nat) : Prop :=
  (x.t.vr key a).toNat < (x.t.vr key b).toNat ∨ x.t.vr key a = x.t.vr key b ∧ a < b

/-- The cached line of an address holds no data with an uncorrectable error (20 R421). -/
def State.sound (s : State) (gasid va : Nat) : Prop := ∀ l, klook s.lines (lineKey gasid va) = some l → l.bad = 0
def soundAt (s : State) (x : Issuer) (a : Dword) : Prop := s.sound (x.agent s).gasid a.toNat

/-- The word at a virtual address, as the cached line that holds it gives it. -/
def State.cachedWord (s : State) (gasid va : Nat) : Option Word :=
  (klook s.lines (lineKey gasid va)).map fun l => word (natOfBytes (lineRead l (va % 128) 4))

/-- The comparisons of waitc under its mask (07 R193): equal, not equal, signed below and not below, unsigned below and
not below. -/
def waitHolds (cmp : Nat) (v e m : Word) : Bool :=
  let a := v &&& m
  let b := e &&& m
  match cmp with
  | 0 => decide (a = b)
  | 1 => decide (a ≠ b)
  | 2 => decide (a.toInt < b.toInt)
  | 3 => decide (b.toInt ≤ a.toInt)
  | 4 => decide (a.toNat < b.toNat)
  | _ => decide (b.toNat ≤ a.toNat)

end Sys2Proof.Machine

/-- nop completes and changes nothing but the path's place, and prog counts once in its partition's progress counter when
the launch is profiled and a lane acts, changing nothing else: no other field of any partition (05 R141, 18 R392). -/
def Sys2Proof.Machine.NopAndProgComplete : Prop :=
  (∀ (h : Hdr) (s : State) (x : Issuer), s.issuer = some x → CompletesWith (.nop h) s x ⟨4, h.s, false, [], 0⟩) ∧
  (∀ (f : CTP) (s : State) (x : Issuer), s.issuer = some x →
    ∃ t t', exec (.prog f) s = .next t ∧ PathMoved s x f.h.s t t' ∧
      t = { s with teams := t.teams, parts := t.parts } ∧
      (∀ pn, t.part pn = { s.part pn with progress := (t.part pn).progress }) ∧
      ∀ pn n, dget 0 (t.part pn).progress n = dget 0 (s.part pn).progress n +
        if x.t.profile ∧ x.lanes f.h ≠ [] ∧ pn = pnumOf x.tk ∧ n = f.i.toNat then 1 else 0)

/-- rand completes with a word of its own in flight for each acting lane, or one for the uniform register; nothing is said
of the words, which are free values (05 R141, log 7). -/
def Sys2Proof.Machine.RandCompletes : Prop :=
  (∀ (f : UD) (s : State) (x : Issuer), s.issuer = some x →
    ∃ (t : State) (t' : Team) (g : Nat → Word), exec (.rand f) s = .next t ∧ Completed { s with fresh := t.fresh } x 4 f.h.s t t' ∧
      Delivered x ⟨4, f.h.s, true, (x.lanes f.h).map fun l => .v f.d.toNat l (g l), 0⟩ t') ∧
  (∀ (f : UD) (s : State) (x : Issuer), s.issuer = some x →
    ∃ (t : State) (t' : Team) (w : Word), exec (.randUniform f) s = .next t ∧ Completed { s with fresh := t.fresh } x 4 f.h.s t t' ∧
      Delivered x ⟨4, f.h.s, true, if x.uacts f.h then [.s f.d.toNat w] else [], 0⟩ t')

/-- nop, prog and rand complete: a place on, one count, and words of their own. -/
def Obligations.NopProgAndRandComplete : Prop :=
  Sys2Proof.Machine.NopAndProgComplete ∧
  Sys2Proof.Machine.RandCompletes

/-- regroup of a team that is alone in its cohort, with one path and nothing outstanding, completes: the active lanes come
to stand in lanes 0, 1, ... in ascending order of key and lane, each with its registers and predicates, under a mask of
exactly them; the uniform registers, the modes and the scratchpad stay (02 R59). The team is not halted, in which case its arrival
would stand (15 R325). -/
def Obligations.RegroupDealsLanesByKey : Prop :=
  ∀ (f : RG) (s : State) (x : Issuer), s.issuer = some x → x.t.paths.length = 1 → x.t.wait = .none → x.t.halted = false →
    (x.cohort s).map Prod.fst = [x.tk] →
    x.t.long = [] → x.t.replay = [] → x.t.ops = [] → x.active ≠ [] →
    ∃ (t : State) (t' : Team) (ls : List Nat), exec (.regroup f) s = .next t ∧ OnlyTeam s x.tk t t' ∧
      ls.Perm x.active ∧ ls.Pairwise (keyOrder x f.a.toNat) ∧
      (∀ j l, ls[j]? = some l → (∀ r, r < x.t.vregs → t'.vr r j = x.t.vr r l) ∧ ∀ k, k < 8 → t'.pr k j = x.t.pr k l) ∧
      t'.path x.pi = some { x.path with pc := x.path.pc + 4, mask := fullMask ls.length, entryFmt := x.path.fmt,
                                        st := .ready, mark := false } ∧
      t' = { x.t with v := t'.v, p := t'.p, paths := t'.paths, scales := [] }

namespace Sys2Proof.Machine

/-- The last team arrives at its slot: every live team of the cohort that is not halted goes on at its next instruction, with
its lines of the scale cache dropped and nothing else of it changed (07 R190, 09 R237); a halted one stays where it is, its
barrier marked as completed (15 R325, log 52). -/
def LastArrivalReleases : Prop :=
  ∀ (f : BAR) (s : State) (x : Issuer), s.issuer = some x → x.lanes f.h ≠ [] → x.t.replay = [] → x.t.halted = false →
    ((x.cohort s).map Prod.fst).Nodup → x.tk ∈ (x.cohort s).map Prod.fst → (x.cohort s).length ≤ 31 →
    barSkewOf s x.t f.slot.toNat = 0 →
    (∀ e ∈ x.cohort s, s.team e.1 = some e.2 ∧
      (e.1 ≠ x.tk → ∃ pi, e.2.wait = .bar pi f.slot.toNat false ∧ e.2.replay = [])) →
    ∃ t, exec (.barC f) s = .next t ∧ t = { s with teams := t.teams, cohorts := t.cohorts } ∧ SameMemory s t ∧
      (∃ t', t.team x.tk = some t' ∧ Moved x 4 f.h.s t' ∧
        t' = { x.t with wait := .none, paths := t'.paths, scales := [] }) ∧
      (∀ e ∈ x.cohort s, e.1 ≠ x.tk → ∀ pi k p, e.2.wait = .bar pi k false → e.2.path pi = some p →
        if e.2.halted then t.team e.1 = some { e.2 with wait := .bar pi k true }
        else ∃ u, t.team e.1 = some u ∧
          u.path pi = some { p with pc := p.pc + 4, mark := false, st := pathAfter p.mark u pi p } ∧
          (∀ j, j ≠ pi → u.path j = e.2.path j) ∧
          u = { e.2 with wait := .none, paths := u.paths, scales := [] }) ∧
      (∀ k, k ∉ (x.cohort s).map Prod.fst → t.team k = s.team k)

/-- A team that is not the last waits at its slot as a whole: some live team of the cohort has arrived nowhere, and no
other team changes (07 R190, 02 R49). -/
def EarlierArrivalWaits : Prop :=
  ∀ (f : BAR) (s : State) (x : Issuer), s.issuer = some x → x.lanes f.h ≠ [] → (x.cohort s).length ≤ 31 →
    (∀ slot, slot < 16 → barSkewOf s x.t slot = 0) →
    (∃ e ∈ x.cohort s, e.1 ≠ x.tk ∧ s.team e.1 = some e.2 ∧ e.2.wait = .none) →
    ∃ t t', exec (.barC f) s = .next t ∧ OnlyTeam s x.tk t t' ∧
      t'.path x.pi = some { x.path with mark := f.h.s } ∧ (∀ j, j ≠ x.pi → t'.path j = x.t.path j) ∧
      t' = { x.t with wait := .bar x.pi f.slot.toNat false, paths := t'.paths }

end Sys2Proof.Machine

/-- bar.c completes a cohort barrier when every other live team of the cohort has arrived at the slot with its accesses
performed: every live team goes on, a halted one only once it resumes, and no register or byte of memory changes; a team that
another has still to join waits; and with no lane acting the path moves on at once (07 R190, 03 R64, 15 R325). -/
def Obligations.BarrierReleasesTheCohort : Prop :=
  Sys2Proof.Machine.LastArrivalReleases ∧
  Sys2Proof.Machine.EarlierArrivalWaits ∧
  (∀ (f : BAR) (s : State) (x : Issuer), s.issuer = some x → x.lanes f.h = [] →
    ∃ t t', exec (.barC f) s = .next t ∧ OnlyTeam s x.tk t t' ∧ PathMoved s x f.h.s t t')

/-- fence, with a lane acting, parks its path until the team's accesses have been performed; waitn moves on at once when the
counter is at most its bound or no lane acts, and otherwise counts; where a lane acts, every unfinished access of the team
comes before all that the path does next, and a wait that ends empties the team's part of the scale cache (07 R189, R192,
08 R208, 09 R237). -/
def Obligations.FenceAndWaitnComplete : Prop :=
  (∀ (f : FN) (s : State) (x : Issuer), s.issuer = some x → x.lanes f.h ≠ [] →
    ∃ t t', exec (.fence f) s = .next t ∧ OnlyTeam s x.tk t t' ∧
      t'.path x.pi = some { x.path with st := .waiting (.fence f.scope.toNat f.ord.toNat s.nextTrap), mark := f.h.s } ∧
      (∀ j, j ≠ x.pi → t'.path j = x.t.path j) ∧ t' = { x.t with paths := t'.paths }) ∧
  (∀ (f : FN) (s : State) (x : Issuer), s.issuer = some x → x.lanes f.h = [] →
    ∃ t t', exec (.fence f) s = .next t ∧ OnlyTeam s x.tk t t' ∧ PathMoved s x f.h.s t t') ∧
  (∀ (f : WN) (s : State) (x : Issuer), s.issuer = some x →
    ∃ t t', exec (.waitn f) s = .next t ∧ OnlyTeam s x.tk t t' ∧
      if x.lanes f.h = [] then PathMoved s x f.h.s t t'
      else Followed x t' ∧
        if x.t.counter f.path.toNat ≤ (x.t.sr f.d.toNat).toNat then
          Moved x 4 f.h.s t' ∧ t' = { x.t with replay := t'.replay, paths := t'.paths, scales := [] }
        else
          t'.path x.pi = some { x.path with
            st := .counting f.path.toNat (x.t.sr f.d.toNat).toNat, mark := f.h.s } ∧
          (∀ j, j ≠ x.pi → t'.path j = x.t.path j) ∧ t' = { x.t with replay := t'.replay, paths := t'.paths })

/-- The byte that a team's part of the scale cache has for an address, when it has its line (09 R237). -/
def Sys2Proof.Machine.Team.scaleAt (u : Team) (va : Nat) : Option Byte :=
  (klook u.scales (va / 128)).map fun (d : BitVec 1024) => (d >>> (8 * (va % 128))).setWidth 8

/-- A team has read the n bytes at each of some addresses: its part of the scale cache has the lines that it had, with what was
read in them (08 R213). -/
def Sys2Proof.Machine.ScalesSee (s : State) (gasid : Nat) (u : Team) (n : Nat) (addrs : List Dword) (u' : Team) : Prop :=
  ∀ va, u'.scaleAt va = (u.scaleAt va).map fun b =>
    if addrs.any fun a => decide (a.toNat ≤ va) && decide (va < a.toNat + n) then
      ((s.cachedByte gasid va).getD []).getD 0 0
    else b

/-- waitc of a word in a cached line, with every earlier access of the team performed: when the comparison holds the path
moves on at once and nothing else changes but the team's part of the scale cache, which is emptied; when it does not, the
whole team waits and a wait-on-address entry with the comparison joins the table of the location's home, what it has read
standing in its part of the scale cache too; a line without an uncorrectable error leaves no record of one (07 R193, R194, 08
R213, 09 R237, 20 R421). -/
def Obligations.WaitcComparesTheWord : Prop :=
  ∀ (f : WC) (s : State) (x : Issuer) (lane : Nat) (v : Word), s.issuer = some x → x.elected f.h = some lane →
    x.t.replay = [] → x.t.wait = .none → f.cmp.toNat < 6 → s.waits.length < 16 →
    let addr := x.t.zr (2 * f.za.toNat)
    let g := (x.agent s).gasid
    canonicalVa addr = true → addr.toNat % 4 = 0 → s.cachedWord g addr.toNat = some v →
    (∀ n, n < 4 → wpMatches (s.part (pnumOf x.tk)) x.t addr.toNat 4 true false n = false) →
    ∃ t t', exec (.waitc f) s = .next t ∧ t.team x.tk = some t' ∧ SameMemory s t ∧
      (∀ k, k ≠ x.tk → t.team k = s.team k) ∧ t = { s with teams := t.teams, waits := t.waits, badReads := t.badReads, dieCaches := t.dieCaches } ∧
      (soundAt s x addr → t.badReads = s.badReads) ∧
      if waitHolds f.cmp.toNat v (x.t.sr f.se.toNat) (x.t.sr f.sm.toNat) then
        t.waits = s.waits ∧ Moved x 4 f.h.s t' ∧ t' = { x.t with paths := t'.paths, scales := [] }
      else
        (∃ w, t.waits = s.waits ++ [w] ∧ w.who = .team x.tk ∧ w.loc = .virt g addr ∧
          w.cmp = f.cmp.toNat ∧ w.e = x.t.sr f.se.toNat ∧ w.m = x.t.sr f.sm.toNat) ∧
        t'.path x.pi = some { x.path with mark := f.h.s } ∧ (∀ j, j ≠ x.pi → t'.path j = x.t.path j) ∧
        ScalesSee s g x.t 4 [addr] t' ∧
        t' = { x.t with wait := .waitc x.pi addr f.cmp.toNat (x.t.sr f.se.toNat) (x.t.sr f.sm.toNat) lane false,
                        paths := t'.paths, scales := t'.scales }

namespace Sys2Proof.Machine

/-! ### Memory instructions (07 R172-R188) -/

/-- The bytes of a size code 0 to 6 (03 R79). -/
def sizeBytes (sz : Nat) : Nat := [1, 1, 2, 2, 4, 8, 16].getD sz 16

/-- The little-endian number of the n bytes at a virtual address, as the cached line that holds them gives it. -/
def State.cachedNat (s : State) (gasid va n : Nat) : Nat :=
  ((klook s.lines (lineKey gasid va)).map fun l => natOfBytes (lineRead l (va % 128) n)).getD 0

/-- An address that passes the checks of a global access of n bytes, and whose line is cached (07 R173, R174). -/
def readyAt (s : State) (x : Issuer) (n : Nat) (a : Dword) : Prop :=
  (a.toNat / 2 ^ 51 = 0 ∨ a.toNat / 2 ^ 51 = 2 ^ 13 - 1) ∧ a.toNat % n = 0 ∧
    (klook s.lines (lineKey (x.agent s).gasid a.toNat)).isSome = true

/-- No unfinished access of the team comes before what the issuing path does next (08 R208). -/
def Issuer.clear (x : Issuer) : Prop := ∀ r ∈ x.t.replay, x.pi ∉ r.before

/-- No watchpoint of the partition watches n bytes at an address (18 R385, R386). -/
def unwatched (s : State) (x : Issuer) (n : Nat) (a : Dword) : Prop :=
  ∀ k, k < 4 → wpMatches (s.part (pnumOf x.tk)) x.t a.toNat n true true k = false

/-- No wait-on-address entry names a byte of n at an address (07 R194). -/
def unawaited (s : State) (x : Issuer) (n : Nat) (a : Dword) : Prop :=
  ∀ w ∈ s.waits, ∀ va, w.loc = .virt (x.agent s).gasid va → overlap va.toNat 4 a.toNat n = false

/-- The registers that a load of size code sz writes from the number v read: sign-extended for codes 1 and 3, one word up
to code 4, a pair for 5, four registers for 6 (03 R79, 07 R180). -/
def loadedWords (sz v : Nat) : List Word :=
  match sz with
  | 1 => [BitVec.ofInt 32 (BitVec.ofNat 8 v).toInt]
  | 3 => [BitVec.ofInt 32 (BitVec.ofNat 16 v).toInt]
  | 5 => [word v, word (v / 2 ^ 32)]
  | 6 => [word v, word (v / 2 ^ 32), word (v / 2 ^ 64), word (v / 2 ^ 96)]
  | _ => [word v]
def loadedWrites (sz d l v : Nat) : List RegWrite := ((loadedWords sz v).zipIdx).map fun e => .v (d + e.2) l e.1

/-- Each lane's address: the base pair plus the sign-extended index register (07 R180). -/
def globalAt (x : Issuer) (f : M) (l : Nat) : Dword :=
  BitVec.ofInt 64 ((x.t.zr (2 * f.zb.toNat)).toInt + (x.t.vr f.i.toNat l).toInt)

/-- The global loads: marker, width, and for each address the writes that its number makes. -/
def loadRow (x : Issuer) (i : Instr) : Option (Bool × Nat × List (Dword × (Nat → List RegWrite))) :=
  let one (f : LDU) (g : Nat → List RegWrite) : List (Dword × (Nat → List RegWrite)) :=
    if x.uacts f.h then [(x.t.zr (2 * f.b.toNat) + dword (4 * f.i.toNat), g)] else []
  match i with
  | .ldG f =>
    if f.sz.toNat ≤ 6 then
      some (f.h.s, sizeBytes f.sz.toNat, (x.lanes f.h).map fun l =>
        (globalAt x f l, loadedWrites f.sz.toNat f.d.toNat l))
    else none
  | .ldUB32 f => some (f.h.s, 4, one f fun v => [.s f.d.toNat (word v)])
  | .ldUB64 f => some (f.h.s, 8, one f fun v => uniPairWrites f.d.toNat (dword v))
  | _ => none

/-- An operation counted on path a joined the team's counters, with these writes in flight for it. -/
def inFlightOn (x : Issuer) (a : Nat) (ws : List RegWrite) (t' : Team) : Prop :=
  ∃ id, t'.ops = x.t.ops ++ [{ id := id, apath := a, done := false }] ∧
    t'.long = if ws = [] then x.t.long
      else x.t.long ++ [{ op := some id, owners := [x.pi], writes := ws, flags := 0 }]

/-- Byte j of a store whose data registers start at d, in lane l: byte j mod 4 of register d + j / 4 (07 R180). -/
def storedByte (x : Issuer) (d l j : Nat) : Byte := BitVec.ofNat 8 ((x.t.vr (d + j / 4) l).toNat / 256 ^ (j % 4))

/-- An address lies among the n bytes at another. -/
def within (a : Dword) (n va : Nat) : Prop := a.toNat ≤ va ∧ va < a.toNat + n

/-- Every byte outside the n bytes at the addresses reads as before, at every canonical address of every address space,
and so does all of physical memory. -/
structure StoresOnlyAt (s t : State) (gasid n : Nat) (addrs : List Dword) : Prop where
  cached : ∀ g (a : Dword), canonicalVa a = true → (g = gasid → ∀ b ∈ addrs, ¬within b n a.toNat) →
    t.cachedByte g a.toNat = s.cachedByte g a.toNat
  phys : ∀ loc pa, t.physByte loc pa = s.physByte loc pa

/-- An atomic instruction as 07 R187 lists it: fields, 8-byte form, whether the old value returns, data registers, and the
location's new value from its old one and the data. -/
structure AtomicOp where
  f : AT
  wide : Bool
  returns : Bool
  n : Nat
  new : Nat → List Word → Nat

/-- The table of atomics and reductions (07 R187, R188). red.add.f32 is listed under DETR, where its order is fixed, and
for at most one lane. -/
def atomicRow (x : Issuer) (i : Instr) : Option AtomicOp :=
  let x0 (d : List Word) : Nat := (d.getD 0 0).toNat
  let s0 (d : List Word) : Int := (d.getD 0 0).toInt
  let x1 (d : List Word) : Nat := (d.getD 1 0).toNat
  let low (d : List Word) : Nat := x0 d + 2 ^ 32 * x1 d
  let signed (o : Nat) : Int := (word o).toInt
  let smin (o : Nat) (d : List Word) : Nat := if signed o ≤ s0 d then o else x0 d
  let smax (o : Nat) (d : List Word) : Nat := if s0 d ≤ signed o then o else x0 d
  let fsum (o : Nat) (d : List Word) : Nat := (FFmt.f32.add x.t.fpm o (x0 d)).1 % 2 ^ 32
  match i with
  | .atomAdd f => some ⟨f, false, true, 1, fun o d => (o + x0 d) % 2 ^ 32⟩
  | .atomMinS f => some ⟨f, false, true, 1, smin⟩
  | .atomMinN f => some ⟨f, false, true, 1, fun o d => min o (x0 d)⟩
  | .atomMaxS f => some ⟨f, false, true, 1, smax⟩
  | .atomMaxN f => some ⟨f, false, true, 1, fun o d => max o (x0 d)⟩
  | .atomAnd f => some ⟨f, false, true, 1, fun o d => o &&& x0 d⟩
  | .atomOr f => some ⟨f, false, true, 1, fun o d => o ||| x0 d⟩
  | .atomXor f => some ⟨f, false, true, 1, fun o d => o ^^^ x0 d⟩
  | .atomExch f => some ⟨f, false, true, 1, fun _ d => x0 d⟩
  | .atomCas f => some ⟨f, false, true, 2, fun o d => if o = x0 d then x1 d else o⟩
  | .atomAddF32 f => some ⟨f, false, true, 1, fsum⟩
  | .atomAdd64 f => some ⟨f, true, true, 2, fun o d => (o + low d) % 2 ^ 64⟩
  | .atomExch64 f => some ⟨f, true, true, 2, fun _ d => low d⟩
  | .atomCas64 f => some ⟨f, true, true, 4, fun o d => if o = low d then low (d.drop 2) else o⟩
  | .atomLd f => some ⟨f, false, true, 0, fun o _ => o⟩
  | .atomSt f => some ⟨f, false, false, 1, fun _ d => x0 d⟩
  | .redAdd f => some ⟨f, false, false, 1, fun o d => (o + x0 d) % 2 ^ 32⟩
  | .redAddF32 f => if x.t.fpm.getLsbD 7 || decide ((x.lanes f.h).length ≤ 1) then some ⟨f, false, false, 1, fsum⟩ else none
  | .redMinS f => some ⟨f, false, false, 1, smin⟩
  | .redMaxS f => some ⟨f, false, false, 1, smax⟩
  | .redAnd f => some ⟨f, false, false, 1, fun o d => o &&& x0 d⟩
  | .redOr f => some ⟨f, false, false, 1, fun o d => o ||| x0 d⟩
  | .redXor f => some ⟨f, false, false, 1, fun o d => o ^^^ x0 d⟩
  | .redAdd64 f => some ⟨f, true, false, 2, fun o d => (o + low d) % 2 ^ 64⟩
  | _ => none

/-- The width, a lane's address and its data. -/
def AtomicOp.width (a : AtomicOp) : Nat := if a.wide then 8 else 4
def AtomicOp.at_ (a : AtomicOp) (x : Issuer) (l : Nat) : Dword := x.t.wr a.f.a.toNat l
def AtomicOp.data (a : AtomicOp) (x : Issuer) (l : Nat) : List Word :=
  (List.range a.n).map fun k => x.t.vr (a.f.d.toNat + k) l
/-- The location's value after some lanes, each of which acts on it in turn (07 R185). -/
def AtomicOp.after (a : AtomicOp) (x : Issuer) (ls : List Nat) (old : Nat) : Nat :=
  ls.foldl (fun v l => a.new v (a.data x l)) old
/-- The lanes that name a lane's location, and those of them before it. -/
def AtomicOp.peers (a : AtomicOp) (x : Issuer) (l : Nat) : List Nat :=
  (x.lanes a.f.h).filter fun k => decide (a.at_ x k = a.at_ x l)
def AtomicOp.earlier (a : AtomicOp) (x : Issuer) (l : Nat) : List Nat := (a.peers x l).filter fun k => decide (k < l)
/-- The old value that lane l sees. -/
def AtomicOp.old (a : AtomicOp) (s : State) (x : Issuer) (l : Nat) : Nat :=
  a.after x (a.earlier x l) (s.cachedNat (x.agent s).gasid (a.at_ x l).toNat a.width)
/-- The writes of an old value to the destination of lane l. -/
def AtomicOp.returned (a : AtomicOp) (l old : Nat) : List RegWrite :=
  if a.wide then pairWrites a.f.d.toNat l (dword old) else [.v a.f.d.toNat l (word old)]
/-- The team and the offset that lane l's aperture address names (07 R173, R175). -/
def AtomicOp.target (a : AtomicOp) (s : State) (x : Issuer) (l : Nat) : Option (Nat × Nat) :=
  windowTarget s x.tk x.t ((a.at_ x l).toNat % 2 ^ 22)

/-! ### Scratchpads (07 R172, R182) -/

/-- A scratchpad access: through the cohort window or not, and its fields; size codes 0 to 6. -/
def scratchLoad (i : Instr) : Option (Bool × MS) :=
  match i with
  | .ldS f => if f.sz.toNat ≤ 6 then some (false, f) else none
  | .ldC f => if f.sz.toNat ≤ 6 then some (true, f) else none
  | _ => none
def scratchStore (i : Instr) : Option (Bool × MS) :=
  match i with
  | .stS f => if f.sz.toNat ≤ 6 then some (false, f) else none
  | .stC f => if f.sz.toNat ≤ 6 then some (true, f) else none
  | _ => none

/-- A lane's scratchpad address: its index register plus the offset field times the width, in unbounded integers (07 R182). -/
def scratchAt (x : Issuer) (f : MS) (l : Nat) : Nat := (x.t.vr f.i.toNat l).toNat + f.ofs.toNat * sizeBytes f.sz.toNat

/-- The team and offset that a lane's address names: its own scratchpad, or the window's byte w mod 2^18 of team w / 2^18
of the cohort (07 R172, R175). -/
def scratchNames (s : State) (x : Issuer) (window : Bool) (w k off : Nat) : Prop :=
  if window then windowTarget s x.tk x.t w = some (k, off) else k = x.tk ∧ off = w

/-- The address passes its checks: inside a scratchpad, and aligned (07 R174-R177). -/
def scratchReady (s : State) (x : Issuer) (window : Bool) (n w : Nat) : Prop :=
  w % n = 0 ∧ if window then (windowTarget s x.tk x.t w).isSome = true else w + n ≤ x.t.scratch

/-- The number of n bytes at an offset of a team's scratchpad. -/
def State.scratchNat (s : State) (k off n : Nat) : Nat :=
  ((s.team k).map fun u => natOfBytes (cellsRead u.scr off n)).getD 0

end Sys2Proof.Machine

/-- ld.g, ld.u.b32 and ld.u.b64 of canonical, aligned addresses in cached lines complete, with no unfinished access before
them: the registers of 03 R79 are in
flight with the bytes that the lines hold, counted once on LD, and every register and every byte of memory is as before; the
team's part of the scale cache keeps its lines, with what was read in them; lines without an uncorrectable error leave no record
of one (07 R180, R183, 08 R209, R213, 20 R421). -/
def Obligations.GlobalLoadsComplete : Prop :=
  ∀ (i : Instr) (mark : Bool) (n : Nat) (reqs : List (Dword × (Nat → List RegWrite))) (s : State) (x : Issuer),
    loadRow x i = some (mark, n, reqs) → s.issuer = some x → x.clear → x.t.counter LD < 63 →
    (∀ q ∈ reqs, readyAt s x n q.1 ∧ unwatched s x n q.1) →
    ∃ t t', exec i s = .next t ∧ OnlyTeam { s with nextSeq := t.nextSeq, badReads := t.badReads, dieCaches := t.dieCaches } x.tk t t' ∧
      ((∀ q ∈ reqs, soundAt s x q.1) → t.badReads = s.badReads) ∧ Moved x 4 mark t' ∧
      ScalesSee s (x.agent s).gasid x.t n (reqs.map Prod.fst) t' ∧
      t' = { x.t with ops := t'.ops, long := t'.long, paths := t'.paths, scales := t'.scales } ∧
      if reqs = [] then t'.ops = x.t.ops ∧ t'.long = x.t.long
      else inFlightOn x LD (reqs.flatMap fun q => q.2 (s.cachedNat (x.agent s).gasid q.1.toNat n)) t'

/-- st.g of canonical, aligned addresses in cached lines completes: the bytes at each acting lane's address become that
lane's data, or the data of another acting lane that names the same address; every other byte at a canonical address, all of
physical memory and every register is as before, and the team's part of the scale cache is emptied (07 R180, R181, 09 R237). No
unfinished access comes before it, and its size code is a store's (03 R79, R86). -/
def Obligations.GlobalStoresWriteTheirBytesOnly : Prop :=
  ∀ (f : M) (s : State) (x : Issuer), WellFormed (.stG f) = true → s.issuer = some x → x.clear →
    (∀ l ∈ x.lanes f.h, readyAt s x (sizeBytes f.sz.toNat) (globalAt x f l) ∧
      unwatched s x (sizeBytes f.sz.toNat) (globalAt x f l) ∧ unawaited s x (sizeBytes f.sz.toNat) (globalAt x f l)) →
    ∃ t t', exec (.stG f) s = .next t ∧ t.team x.tk = some t' ∧ (∀ k, k ≠ x.tk → t.team k = s.team k) ∧
      Moved x 4 f.h.s t' ∧ t' = { x.t with paths := t'.paths, scales := if x.lanes f.h = [] then x.t.scales else [] } ∧
      t = { s with teams := t.teams, lines := t.lines, fresh := t.fresh, dieCaches := t.dieCaches } ∧
      StoresOnlyAt s t (x.agent s).gasid (sizeBytes f.sz.toNat) ((x.lanes f.h).map (globalAt x f)) ∧
      ∀ l ∈ x.lanes f.h, ∃ k ∈ x.lanes f.h, globalAt x f k = globalAt x f l ∧ ∀ j, j < sizeBytes f.sz.toNat →
        t.cachedByte (x.agent s).gasid ((globalAt x f l).toNat + j) = some [storedByte x f.d.toNat k j]

/-- The atomics and reductions on canonical, aligned addresses in cached lines complete: the lanes act in ascending order,
each on the value that those before it left; a returning form has the old values in flight on LD; every other byte and
register is as before, the team's part of the scale cache is emptied, and an sc form takes a ticket; lines without an
uncorrectable error leave no record of one (07 R185-R188, 09 R237, 20 R421). -/
def Sys2Proof.Machine.AtomicsComplete : Prop :=
  ∀ (i : Instr) (a : AtomicOp) (s : State) (x : Issuer), atomicRow x i = some a → s.issuer = some x → x.clear →
    x.t.counter LD < 63 →
    (∀ l ∈ x.lanes a.f.h, readyAt s x a.width (a.at_ x l) ∧ unwatched s x a.width (a.at_ x l) ∧
      unawaited s x a.width (a.at_ x l)) →
    ∃ t t', exec i s = .next t ∧ t.team x.tk = some t' ∧ (∀ k, k ≠ x.tk → t.team k = s.team k) ∧ Moved x 4 a.f.h.s t' ∧
      t' = { x.t with ops := t'.ops, long := t'.long, paths := t'.paths,
                      scales := if x.lanes a.f.h = [] then x.t.scales else [] } ∧
      t = { s with teams := t.teams, lines := t.lines, nextSeq := t.nextSeq, fresh := t.fresh, ticket := t.ticket,
                   badReads := t.badReads, dieCaches := t.dieCaches } ∧
      ((∀ l ∈ x.lanes a.f.h, soundAt s x (a.at_ x l)) → t.badReads = s.badReads) ∧
      t.ticket = s.ticket + (if a.f.os.toNat / 5 = 4 ∧ x.lanes a.f.h ≠ [] then 1 else 0) ∧
      (if a.returns = true ∧ x.lanes a.f.h ≠ [] then
        inFlightOn x LD ((x.lanes a.f.h).flatMap fun l => a.returned l (a.old s x l)) t'
      else t'.ops = x.t.ops ∧ t'.long = x.t.long) ∧
      StoresOnlyAt s t (x.agent s).gasid a.width ((x.lanes a.f.h).map (a.at_ x)) ∧
      ∀ l ∈ x.lanes a.f.h, t.cachedNat (x.agent s).gasid (a.at_ x l).toNat a.width =
        a.after x (a.peers x l) (s.cachedNat (x.agent s).gasid (a.at_ x l).toNat a.width)

/-- ld.s and ld.c of addresses that pass their checks complete: the registers of 03 R79 are in flight with the bytes of the
scratchpad named, counted on SP for the window and on nothing for the team's own, and nothing else changes (07 R182). -/
def Sys2Proof.Machine.ScratchpadLoadsComplete : Prop :=
  ∀ (i : Instr) (window : Bool) (f : MS) (s : State) (x : Issuer), scratchLoad i = some (window, f) →
    s.issuer = some x → x.clear → x.t.counter SP < 63 →
    (∀ l ∈ x.lanes f.h, scratchReady s x window (sizeBytes f.sz.toNat) (scratchAt x f l)) →
    ∃ t t', exec i s = .next t ∧ OnlyTeam { s with nextSeq := t.nextSeq } x.tk t t' ∧ Moved x 4 f.h.s t' ∧
      t' = { x.t with ops := t'.ops, long := t'.long, paths := t'.paths } ∧
      ∃ ws : List (List RegWrite), ws.length = (x.lanes f.h).length ∧
        (∀ (j l : Nat), (x.lanes f.h)[j]? = some l → ∃ k off, scratchNames s x window (scratchAt x f l) k off ∧
          ws[j]? = some (loadedWrites f.sz.toNat f.d.toNat l (s.scratchNat k off (sizeBytes f.sz.toNat)))) ∧
        if x.lanes f.h = [] then t'.ops = x.t.ops ∧ t'.long = x.t.long
        else if window then inFlightOn x SP ws.flatten t'
        else t'.ops = x.t.ops ∧
          t'.long = x.t.long ++ [{ op := none, owners := [x.pi], writes := ws.flatten, flags := 0 }]

/-- st.s and st.c of addresses that pass their checks complete: the bytes of the scratchpad named become the lane's data, or
those of another acting lane that names the same place; every other byte of every scratchpad, every register and all of
memory are as before (07 R181, R182). -/
def Sys2Proof.Machine.ScratchpadStoresWriteTheirBytesOnly : Prop :=
  ∀ (i : Instr) (window : Bool) (f : MS) (s : State) (x : Issuer), WellFormed i = true →
    scratchStore i = some (window, f) → s.issuer = some x → x.clear → s.waits = [] →
    (∀ l ∈ x.lanes f.h, scratchReady s x window (sizeBytes f.sz.toNat) (scratchAt x f l)) →
    ∃ t t', exec i s = .next t ∧ t.team x.tk = some t' ∧ Moved x 4 f.h.s t' ∧
      t' = { x.t with scr := t'.scr, paths := t'.paths } ∧
      t = { s with teams := t.teams, fresh := t.fresh } ∧ SameMemory s t ∧
      (∀ k u, s.team k = some u → k ≠ x.tk → ∃ u', t.team k = some u' ∧ u' = { u with scr := u'.scr }) ∧
      (∀ k u u' b, s.team k = some u → t.team k = some u' →
        (∀ l ∈ x.lanes f.h, ∀ off, scratchNames s x window (scratchAt x f l) k off →
          ¬(off ≤ b ∧ b < off + sizeBytes f.sz.toNat)) → dget 0 u'.scr b = dget 0 u.scr b) ∧
      ∀ l ∈ x.lanes f.h, ∃ m ∈ x.lanes f.h, scratchAt x f m = scratchAt x f l ∧
        ∀ k off u', scratchNames s x window (scratchAt x f l) k off → t.team k = some u' →
          ∀ j, j < sizeBytes f.sz.toNat → dget 0 u'.scr (off + j) = storedByte x f.d.toNat m j

/-- Scratchpad loads and stores complete, and a store changes the bytes it names only. -/
def Obligations.ScratchpadAccessesComplete : Prop :=
  Sys2Proof.Machine.ScratchpadLoadsComplete ∧
  Sys2Proof.Machine.ScratchpadStoresWriteTheirBytesOnly

/-- The atomics and reductions at aperture addresses complete: the lanes act in ascending order on the scratchpad that each
address names, each on the value that those before it left; a returning form has the old values in flight on SP. No other
byte of any scratchpad, no register, no other field of any team and no byte of memory changes, but that the team's part of the
scale cache is emptied and an sc form takes a ticket (07 R173, R175, R185-R188, 09 R237). -/
def Sys2Proof.Machine.ApertureAtomicsActOnScratchpads : Prop :=
  ∀ (i : Instr) (a : AtomicOp) (s : State) (x : Issuer), atomicRow x i = some a → s.issuer = some x → x.clear →
    s.waits = [] → x.t.counter SP < 63 → x.lanes a.f.h ≠ [] →
    (∀ l ∈ x.lanes a.f.h, (a.at_ x l).toNat / 2 ^ 22 = 0x5C00 * 2 ^ 26 ∧ (a.at_ x l).toNat % a.width = 0 ∧
      (a.target s x l).isSome = true) →
    ∃ t t', exec i s = .next t ∧ t.team x.tk = some t' ∧ Moved x 4 a.f.h.s t' ∧
      t = { s with teams := t.teams, nextSeq := t.nextSeq, ticket := t.ticket } ∧ SameMemory s t ∧
      t.ticket = s.ticket + (if a.f.os.toNat / 5 = 4 then 1 else 0) ∧
      t' = { x.t with scr := t'.scr, ops := t'.ops, long := t'.long, paths := t'.paths, scales := [] } ∧
      (∀ k, k ≠ x.tk → t.team k = (s.team k).bind fun u => (t.team k).map fun u' => { u with scr := u'.scr }) ∧
      (if a.returns = true then
        inFlightOn x SP ((x.lanes a.f.h).flatMap fun l => a.returned l (a.after x (a.earlier x l)
          (((a.target s x l).map fun g => s.scratchNat g.1 g.2 a.width).getD 0))) t'
      else t'.ops = x.t.ops ∧ t'.long = x.t.long) ∧
      (∀ l ∈ x.lanes a.f.h, ∀ k off, a.target s x l = some (k, off) →
        t.scratchNat k off a.width = a.after x (a.peers x l) (s.scratchNat k off a.width)) ∧
      ∀ k b, (∀ l ∈ x.lanes a.f.h, ∀ off, a.target s x l = some (k, off) → ¬(off ≤ b ∧ b < off + a.width)) →
        ((t.team k).map fun u => dget 0 u.scr b) = (s.team k).map fun u => dget 0 u.scr b

/-- Atomics act on their location, in memory and, through an aperture address, in a scratchpad. -/
def Obligations.AtomicsActOnTheirWord : Prop :=
  Sys2Proof.Machine.AtomicsComplete ∧
  Sys2Proof.Machine.ApertureAtomicsActOnScratchpads

namespace Sys2Proof.Machine

/-! ### Engine commands (02 R56, chapters 07, 09 to 12) -/

/-- A command that an instruction hands to an engine: its header, counter, kind, sub, operands and the bytes read. -/
structure Handed where
  h : Hdr
  apath : Nat
  kind : Nat
  sub : Nat
  args : List Nat
  bytes : List Byte

/-- The s and z operands as numbers. -/
def Issuer.sn (x : Issuer) (r : BitVec 6) : Nat := (x.t.sr r.toNat).toNat
def Issuer.sn1 (x : Issuer) (r : BitVec 6) : Nat := (x.t.sr (r.toNat + 1)).toNat
def Issuer.zn (x : Issuer) (r : BitVec 6) : Nat := (x.t.zr r.toNat).toNat

/-- The n bytes of the own scratchpad that a command block occupies, aligned to its own size and inside it. -/
def blockAt (x : Issuer) (off n : Nat) : Option (List Byte) :=
  if off % n = 0 ∧ off + n ≤ x.t.scratch then some (cellsRead x.t.scr off n) else none

/-- The condition holds. -/
def given {α : Type} (c : Bool) (v : α) : Option α := if c then some v else none

/-- A matrix command of function fn of major 0x39, whose image passes its checks (09 R243). -/
def imageHanded (x : Issuer) (f : AC) (fn : Nat) : Option Handed :=
  let z := x.t.zr f.b.toNat
  let img : Image :=
    { fn := fn, acc := f.acc.toNat, of_ := if fn = 3 ∨ fn = 4 then fmtOf x.path.fmt else 17, global := fn % 2 == 0,
      base := if fn % 2 = 0 then (x.t.zr f.a.toNat).toInt else (x.sn f.a : Int), stride := (hiWord z).toInt,
      ctl := (loWord z).toNat }
  given ((img.check x.t.scratch).isNone)
    ⟨f.h, MX, kindAcc + fn, 0, [img.acc, img.of_, (dwordOfInt img.base).toNat, (dwordOfInt img.stride).toNat, img.ctl], []⟩

/-- The mma step that an instruction names: tile, format, depth, operand offsets, and the scale registers as the last mscl
before it leaves them (09 R235, R238). -/
def stepOf (s : State) (x : Issuer) (f : MA) : MmaStep :=
  { acc := f.acc.toNat, fmt := x.path.fmt, k := x.sn f.k, ao := x.sn f.a, bo := x.sn f.b,
    base0 := (scaleView s x 0).1, ctl0 := (scaleView s x 0).2, base1 := (scaleView s x 1).1,
    ctl1 := (scaleView s x 1).2 }

/-- A command with the block of a tile task, as its checks read it. -/
def taskProbe (x : Issuer) (lane : Nat) (bs : List Byte) : Cmd :=
  { id := 0, tk := x.tk, op := 0, seq := 0, kind := kindTtq, sub := 0, path := x.pi, lane := lane, pc := x.path.pc,
    args := [], bytes := bs, fpm := x.t.fpm, fmt := x.path.fmt, flags := 0, prog := 0, stop := none, started := false,
    lanes := [], upTo := 0, token := false, asked := false, broken := false }

/-- The engine instructions whose operands pass their checks, with the command that each hands over: cp, halo, the matrix
instructions, ttq, the Peuri commands, rast and the ring commands. cp, halo and ttq, which read the scratchpad at issue, wait
for the team's earlier accesses (08 R222). -/
def handed (s : State) (x : Issuer) (lane : Nat) (i : Instr) : Option Handed :=
  let ring (f : Hdr) (fn sub a d : Nat) : Option Handed :=
    let key := ringKey s (pnumOf x.tk) (x.t.sr a).toNat
    given ((ringCheck s (pnumOf x.tk) x.t.scratch (x.t.sr a) (x.t.sr (a + 1))).isNone
        && (sub != 0 || decide (ringLoad s (kindLayer + fn) key < 64)))
      ⟨f, FR, kindLayer + fn, sub, [key, (x.t.sr (a + 1)).toNat, d], []⟩
  let peuri (h : Hdr) (fn sub : Nat) (args : List Nat) (ok : Bool) : Option Handed :=
    given (ok && decide (arraysOf s (pnumOf x.tk) ≠ 0)) ⟨h, PA, kindPeuri + fn, sub, args, []⟩
  let pread (f : UN) (sub : Nat) : Option Handed :=
    let a := x.t.zr f.a.toNat
    peuri f.h 4 sub [a.toNat, x.sn f.d, x.sn1 f.d]
      (canonicalVa a && (badExtent s x.tk x.t 0 a.toInt (preadBytes sub (x.sn1 f.d))).isNone
        && (sub == 0 || a.toNat % 2 == 0))
  match i with
  | .cp f => (blockAt x (x.sn f.a) 64).bind fun bs =>
      given (x.t.performed && ((copyOf bs).check s x).isNone)
        ⟨f.h, CP, kindCp, 0, if (copyOf bs).kind = 1 then (copyOf bs).indices x.t else [],
          bs ++ if (copyOf bs).kind = 4 then qpRecord s ((copyOf bs).net % 8) ((copyOf bs).net / 256 % 65536) else []⟩
  | .halo f => given (x.t.performed && (haloCheck x.t (x.sn f.d)).isNone)
      ⟨f.h, CP, kindVol + 8, 0, [], cellsRead x.t.scr (x.sn f.d) 32⟩
  | .mma f =>
      let p := stepOf s x f
      given ((p.early s.host.stage).isNone && (p.check x.t.scratch).isNone)
        ⟨f.h, MX, kindMma, 0, [p.acc, p.fmt.toNat, p.k, p.ao, p.bo, p.base0, p.ctl0, p.base1, p.ctl1], []⟩
  | .mzero f => some ⟨f.h, MX, kindAcc, 0, [f.acc.toNat], []⟩
  | .mldaS f => imageHanded x f 1
  | .mldaG f => imageHanded x f 2
  | .mstaS f => imageHanded x f 3
  | .mstaG f => imageHanded x f 4
  | .maddS f => imageHanded x f 5
  | .maddG f => imageHanded x f 6
  | .mrd f =>
      let c := x.sn f.b
      given (c / 128 % 2 == 0 && decide (c < 2 ^ 15)) ⟨f.h, MX, kindAcc + 7, 0, [f.acc.toNat, c % 128, c / 256, f.a.toNat], []⟩
  | .mscl f => given (x.sn f.d / 32 % 8 == 0) ⟨f.h, MX, kindMscl, f.u.toNat, [x.zn f.a, x.sn f.d], []⟩
  | .ttq f => (blockAt x (x.sn f.a) 64).bind fun bs =>
      given (x.t.performed && (taskCheck (taskProbe x lane bs) x.t s.host.stage).isNone && decide (clusterTasks s (x.t.core / 8) < 64))
        ⟨f.h, MX, kindTtq, 0, [], bs⟩
  | .pload f => peuri f.h 0 0 [x.zn f.a] (canonicalVa (x.t.zr f.a.toNat) && x.zn f.a % 64 == 0)
  | .pmode f => peuri f.h 1 f.t.toNat [] true
  | .pclamp f => peuri f.h 2 0 [x.sn f.a, x.sn1 f.a]
      (x.sn f.a % 4 == 0 && decide (1 ≤ x.sn1 f.a) && decide (x.sn1 f.a ≤ 65536) &&
        decide (x.sn f.a + 4 * x.sn1 f.a ≤ x.t.scratch))
  | .psweep f => peuri f.h 3 0 [x.sn f.a, x.sn1 f.a] true
  | .preadStates f => pread f 0
  | .preadCounts f => pread f 1
  | .preset f => peuri f.h 5 f.t.toNat [] true
  | .rast f =>
      let ws := (List.range 11).map fun k => (x.t.sr (f.a.toNat + k)).toNat
      given (((rastOf ws x.path.mask.toNat).check).isNone)
        ⟨f.h, FR, kindLayer + 3, 0, f.d.toNat :: x.path.mask.toNat :: ws, []⟩
  | .qpush f => ring f.h 4 0 f.a.toNat 0
  | .qpushTry f => ring f.h 4 1 f.a.toNat f.d.toNat
  | .qpop f => ring f.h 5 0 f.a.toNat 0
  | .qpopTry f => ring f.h 5 1 f.a.toNat f.d.toNat
  | _ => none

/-- The issue empties the team's part of the scale cache: cp and msta.g (09 R237). -/
def Handed.dropsScales (c : Handed) : Bool := c.kind == kindCp || c.kind == kindAcc + 4
/-- The kinds of the matrix instructions and of ttq. -/
def Handed.isMatrix (c : Handed) : Bool := c.apath == MX
/-- The kinds of the Peuri commands. -/
def Handed.isPeuri (c : Handed) : Bool := c.apath == PA

/-- The partition after the hand-over: the team's power token has gone back for a matrix instruction other than mma
(16 R347), and a Peuri command has joined its set's queue (11 R283). -/
def partAfter (s : State) (x : Issuer) (c : Handed) (pn : Nat) : Part :=
  if pn ≠ pnumOf x.tk then s.part pn
  else if c.isMatrix ∧ c.kind ≠ kindMma ∧ x.t.token = true then
    { s.part pn with tokenHeld := (s.part pn).tokenHeld - 1 }
  else if c.isPeuri then
    { s.part pn with peuri := { (s.part pn).peuri with queue := (s.part pn).peuri.queue ++ [s.nextCmd] } }
  else s.part pn

/-- The command as the engine holds it; `upTo` tells the accesses that the team issued before it (08 R222). -/
structure IsHanded (s : State) (x : Issuer) (lane : Nat) (d : Handed) (c : Cmd) : Prop where
  id : c.id = s.nextCmd
  tk : c.tk = x.tk
  what : c.kind = d.kind ∧ c.sub = d.sub ∧ c.args = d.args ∧ c.bytes = d.bytes
  place : c.path = x.pi ∧ c.lane = lane ∧ c.pc = x.path.pc
  modes : c.fpm = x.t.fpm ∧ c.fmt = x.path.fmt
  fresh : c.prog = 0 ∧ c.stop = none ∧ c.started = false ∧ c.broken = false ∧ c.flags = 0
  order : c.upTo = s.nextTrap
  token : c.token = decide (d.kind = kindMma)

/-- The lanes of a walker, Curator or list instruction as their engine has performed them: header, counter, the paths that
wait for their writes, the lanes, the operation's number and the next one. -/
structure LanesRun where
  h : Hdr
  apath : Nat
  owners : List Nat
  p : Performed
  op : Nat
  next : Nat

/-- The lane instructions of the walker, the Curator and the lists whose descriptor lies in a cached line and passes its
checks (10 R258, 12 R298). -/
def performedLanes (s : State) (x : Issuer) (i : Instr) : Option LanesRun :=
  let walk (f : UN) (fn sub : Nat) : Option LanesRun :=
    let desc := x.t.zr f.a.toNat
    if canonicalVa desc = true ∧ desc.toNat % 128 = 0 then
      match readTree s (x.agent s) desc x.t.vregs (f.d.toNat + walkerWide fn sub) with
      | .ok (s0, .ok t) =>
        let p := performWith s0 (fun s r => walkLane s (x.agent s) (x.t.core / 8) t fn sub f.d.toNat r)
          (walkerReqs x f.h f.d.toNat (walkerReads fn) desc)
        some ⟨f.h, VW, [x.pi], p, p.s.nextSeq, p.s.nextSeq + 1⟩
      | _ => none
    else none
  let curate (f : UN) (fn : Nat) : Option LanesRun :=
    let desc := x.t.zr f.a.toNat
    if canonicalVa desc = true ∧ desc.toNat % 128 = 0 then
      match readTree s (x.agent s) desc x.t.vregs 0 with
      | .ok (s0, .ok t) =>
        let p := performWith { s0 with nextSeq := s0.nextSeq + 1 }
          (fun s r => curatorLane s (x.engine s) t fn f.d.toNat x.tk s0.nextSeq r) (walkerReqs x f.h f.d.toNat 3 desc)
        some ⟨f.h, AL, [], p, s0.nextSeq, p.s.nextSeq⟩
      | _ => none
    else none
  let list (f : UN) (fn sub n : Nat) : Option LanesRun :=
    let desc := x.t.zr f.a.toNat
    let reqs := walkerReqs x f.h f.d.toNat n desc
    if canonicalVa desc = true ∧ desc.toNat % 64 = 0 then
      match readLayer s (x.engine s) desc fn reqs with
      | .ok (s0, .ok t) =>
        let p := performLists s0 (x.engine s0) t fn sub f.d.toNat reqs
        some ⟨f.h, FR, [x.pi], p, p.s.nextSeq, p.s.nextSeq + 1⟩
      | _ => none
    else none
  match i with
  | .vld f => walk f 0 0
  | .vlds f => walk ⟨f.h, f.d, f.a⟩ 1 f.sub.toNat
  | .vst f => walk f 3 0
  | .vactClr f => walk f 4 0
  | .vactSet f => walk f 4 1
  | .vmarch f => walk f 5 0
  | .vins f => curate f 6
  | .vdel f => curate f 7
  | .fins f => list f 0 0 5
  | .resolve f => list f 1 0 8
  | .resolveClr f => list f 1 1 8
  | .lclear f => list f 2 0 1
  | _ => none

end Sys2Proof.Machine

/-- An engine instruction whose operands pass their checks, with its counter below 63 and its engine's queue open,
completes: its command is handed over with the operands read at issue, counted once on its asynchronous path, and the path
moves on, its later accesses behind every unfinished one of the team; no register and no byte of memory changes, and cp and
msta.g empty the team's part of the scale cache (02 R56, 07 R192, R203, 08 R208, R222, 09 R237). -/
def Obligations.EngineCommandsAreHandedOver : Prop :=
  ∀ (i : Instr) (d : Handed) (s : State) (x : Issuer) (lane : Nat), handed s x lane i = some d → s.issuer = some x →
    x.elected d.h = some lane → x.t.counter d.apath < 63 → engineLoad s (engineOf x.t) < 16 →
    ∃ t t' c, exec i s = .next t ∧ t.cmds = s.cmds ++ [c] ∧ IsHanded s x lane d c ∧ t.team x.tk = some t' ∧
      (∀ k, k ≠ x.tk → t.team k = s.team k) ∧ Moved x 4 d.h.s t' ∧
      t'.ops = x.t.ops ++ [{ id := c.op, apath := d.apath, done := false }] ∧
      Followed x t' ∧
      t' = { x.t with ops := t'.ops, paths := t'.paths, replay := t'.replay,
                      token := if d.isMatrix then false else x.t.token,
                      scales := if d.dropsScales then [] else x.t.scales } ∧
      (∀ pn, t.part pn = partAfter s x d pn) ∧ SameMemory s t ∧
      t = { s with teams := t.teams, cmds := t.cmds, parts := t.parts, nextCmd := t.nextCmd, nextSeq := t.nextSeq }

/-- vleaf of a descriptor that passes its checks, with every earlier access of the team performed and a slot within the
canonical range, hands the walker a copy of the leaf slot, counted on VW (10 R265, R275, 08 R222). -/
def Sys2Proof.Machine.LeafCopyIsHandedOver : Prop :=
  ∀ (f : UN) (s : State) (x : Issuer) (lane : Nat) (tree : Tree) (d : DieCaches), s.issuer = some x →
    x.elected f.h = some lane → x.t.counter VW < 63 → x.t.performed = true →
    let desc := x.t.zr f.a.toNat
    let slot := (x.t.sr f.d.toNat).toNat
    let off := (x.t.sr (f.d.toNat + 1)).toNat
    canonicalVa desc = true → desc.toNat % 128 = 0 → off % 16 = 0 →
    readTree s (x.engine s) desc x.t.vregs 0 = .ok ({ s with dieCaches := d }, .ok tree) →
    off + 128 + 512 * tree.vb ≤ x.t.scratch → slot < tree.leafcap →
    inRange (tree.leafAt slot) (128 + 512 * tree.vb) = true →
    ∃ t t' c, exec (.vleaf f) s = .next t ∧ t.cmds = s.cmds ++ [c] ∧ t.team x.tk = some t' ∧ c.tk = x.tk ∧
      c.args = [tree.leafAt slot, 128 + 512 * tree.vb, off] ∧ c.kind = kindVol + 2 ∧ c.lane = lane ∧
      t'.ops = x.t.ops ++ [{ id := c.op, apath := VW, done := false }] ∧ Moved x 4 f.h.s t' ∧
      Followed x t' ∧ t' = { x.t with ops := t'.ops, paths := t'.paths, replay := t'.replay } ∧ SameMemory s t ∧
      t = { s with teams := t.teams, cmds := t.cmds, nextCmd := t.nextCmd, nextSeq := t.nextSeq, dieCaches := d }

/-- A walker, Curator or list instruction with a lane acting and no unfinished access before it, whose descriptor passes its
checks and whose lanes all perform, completes: the memory effects of its lanes stand, their register writes are in flight for
one operation on its counter, and the path moves on (08 R222, 10 R258, R267, 12 R298, R305). -/
def Sys2Proof.Machine.WalkerAndListLanesComplete : Prop :=
  ∀ (i : Instr) (r : LanesRun) (s : State) (x : Issuer) (u : Team),
    performedLanes s x i = some r → s.issuer = some x → x.lanes r.h ≠ [] → x.t.counter r.apath < 63 →
    x.clear → x.t.performed = true → r.p.failed = [] → r.p.s.team x.tk = some u →
    ∃ t, exec i s = .next t ∧
      t.team x.tk = some (((u.addOp r.op r.apath).addLong (some r.op) r.owners r.p.ws 0).pass x.pi 4 r.h.s) ∧
      (∀ k, k ≠ x.tk → t.team k = r.p.s.team k) ∧ t = { r.p.s with teams := t.teams, nextSeq := r.next }

namespace Sys2Proof.Machine

/-! ### Trees and targets in cached lines (10 R250-R270, 12 R294-R305) -/

/-- A voxel's three coordinate patterns as numbers, its root key, the first slot of its probe, the entry of a node whose
entries cover unit voxels a side, and its index within its leaf (10 R251-R253). -/
structure Point where
  x : Nat
  y : Nat
  z : Nat
  deriving DecidableEq, Repr
def Point.rootKey (c : Point) : Nat := 2 ^ 63 + c.x / 2048 * 2 ^ 42 + c.y / 2048 * 2 ^ 21 + c.z / 2048
def Point.rootSlot (c : Point) (t : Tree) : Nat :=
  t.root + 16 * ((c.x / 2048 * 0x9E3779B1 + c.y / 2048 * 0x7FEB352D + c.z / 2048 * 0x846CA68B) % 2 ^ 32
    / 2 ^ (32 - t.rootlog) % 2 ^ t.rootlog)
def Point.entryOf (c : Point) (t : Tree) (node unit : Nat) : Nat :=
  t.nodebase + 65536 * node + 16 * (c.x / unit % 16 + 16 * (c.y / unit % 16) + 256 * (c.z / unit % 16))
def Point.index (c : Point) : Nat := c.x % 8 + 8 * (c.y % 8) + 64 * (c.z % 8)
/-- A neighbour, modulo 2^32 on each axis (10 R262). -/
def Point.moved (c : Point) (d : Int × Int × Int) : Point :=
  { x := (((c.x : Int) + d.1) % 2 ^ 32).toNat, y := (((c.y : Int) + d.2.1) % 2 ^ 32).toNat,
    z := (((c.z : Int) + d.2.2) % 2 ^ 32).toNat }
/-- The voxel of a lane, and that of whole coordinates. -/
def pointOf (x : Issuer) (q l : Nat) : Point := ⟨(x.t.vr q l).toNat, (x.t.vr (q + 1) l).toNat, (x.t.vr (q + 2) l).toNat⟩
def pointAt (cx cy cz : Int) : Point := ⟨(BitVec.ofInt 32 cx).toNat, (BitVec.ofInt 32 cy).toNat, (BitVec.ofInt 32 cz).toNat⟩

/-- The bytes at an address stand in a cached line, 16 of them within the canonical range. -/
def held (s : State) (g va : Nat) : Prop := (klook s.lines (lineKey g va)).isSome = true ∧ inRange va 16 = true

/-- The root has the voxel's region in the first slot of its probe, not BUSY: the index of its level-2 node (10 R252). -/
structure RootHolds (s : State) (g : Nat) (t : Tree) (c : Point) (node : Nat) : Prop where
  held : held s g (c.rootSlot t)
  key : s.cachedNat g (c.rootSlot t) 8 = c.rootKey
  free : s.cachedNat g (c.rootSlot t + 12) 4 / 4 % 2 = 0
  child : s.cachedNat g (c.rootSlot t + 8) 4 = node
  bound : node < t.nodecap

/-- VALUE, CHILD and FLAGS of a node's entry, as a cached line has them (10 R253). -/
structure NodeEntry (s : State) (g at_ value child flags : Nat) : Prop where
  held : held s g at_
  value : s.cachedNat g at_ 8 = value
  child : s.cachedNat g (at_ + 8) 4 = child
  flags : s.cachedNat g (at_ + 12) 4 = flags

/-- FLAGS of an entry name a child, or leave its tile standing: no CHILD, or BUSY (10 R253, R255). -/
def names (flags : Nat) : Prop := flags % 2 = 1 ∧ flags / 4 % 2 = 0
def tiles (flags : Nat) : Prop := flags % 2 = 0 ∨ flags / 4 % 2 = 1

/-- The voxel's walk reaches the level-1 entry at e1 (10 R255). -/
def Reaches (s : State) (g : Nat) (t : Tree) (c : Point) (e1 : Nat) : Prop :=
  ∃ n2 value n1 flags, RootHolds s g t c n2 ∧ NodeEntry s g (c.entryOf t n2 128) value n1 flags ∧ names flags ∧
    n1 < t.nodecap ∧ e1 = c.entryOf t n1 8

/-- The voxel's walk ends at leaf h, which its level-1 entry names (10 R254, R255). -/
structure HasLeaf (s : State) (g : Nat) (t : Tree) (c : Point) (e1 value flags h : Nat) : Prop where
  walk : Reaches s g t c e1
  entry : NodeEntry s g e1 value h flags
  child : names flags
  bound : h < t.leafcap
  header : held s g (t.leafAt h)
  vtype : s.cachedNat g (t.leafAt h + 12) 1 = t.vtype

/-- The addresses of a voxel's value and of the byte of its MASK bit, in leaf h (10 R254). -/
def dataAt (t : Tree) (c : Point) (h : Nat) : Nat := t.leafAt h + 128 + c.index * t.vb
def maskAt (t : Tree) (c : Point) (h : Nat) : Nat := t.leafAt h + 32 + c.index / 8

/-- What a voxel resolves to: the level, the value and the active state (10 R255). -/
inductive Resolves (s : State) (g : Nat) (t : Tree) (c : Point) : Nat → Nat → Bool → Prop
  | root : held s g (c.rootSlot t) →
      s.cachedNat g (c.rootSlot t) 8 = 0 ∨
        (s.cachedNat g (c.rootSlot t) 8 = c.rootKey ∧ s.cachedNat g (c.rootSlot t + 12) 4 / 4 % 2 = 1) →
      Resolves s g t c 3 (t.background % 256 ^ t.vb) false
  | upper (n2 value child flags : Nat) : RootHolds s g t c n2 →
      NodeEntry s g (c.entryOf t n2 128) value child flags → tiles flags →
      Resolves s g t c 2 (value % 256 ^ t.vb) (flags / 2 % 2 == 1)
  | lower (e1 value child flags : Nat) : Reaches s g t c e1 → NodeEntry s g e1 value child flags → tiles flags →
      Resolves s g t c 1 (value % 256 ^ t.vb) (flags / 2 % 2 == 1)
  | leaf (e1 value flags h : Nat) : HasLeaf s g t c e1 value flags h → held s g (dataAt t c h) → held s g (maskAt t c h) →
      Resolves s g t c 0 (s.cachedNat g (dataAt t c h) t.vb) (s.cachedNat g (maskAt t c h) 1 / 2 ^ (c.index % 8) % 2 == 1)

/-- One lane of the walker, the Curator or a list instruction acts, with room on its counter, no unfinished access of its team
and no line of it in the scale cache, no entry in a pod cache, no deletion under way and no wait-on-address entry. -/
structure LaneReady (s : State) (x : Issuer) (h : Hdr) (apath l : Nat) : Prop where
  issuer : s.issuer = some x
  lanes : x.lanes h = [l]
  room : x.t.counter apath < 63
  clear : x.clear
  performed : x.t.performed = true
  still : s.pods = [] ∧ s.ghosts = [] ∧ s.waits = [] ∧ x.t.scales = []

/-- The descriptor of z(a) stands in a cached line and passes its checks as the tree t; the highest lane register that an FP64
tree needs is top - 1. -/
def treeIs (s : State) (x : Issuer) (a : BitVec 6) (agent : Agent) (top : Nat) (t : Tree) : Prop :=
  canonicalVa (x.t.zr a.toNat) = true ∧ (x.t.zr a.toNat).toNat % 128 = 0 ∧
    (klook s.lines (lineKey agent.gasid (x.t.zr a.toNat).toNat)).isSome = true ∧
    ∃ d, readTree s agent (x.t.zr a.toNat) x.t.vregs top = .ok ({ s with dieCaches := d }, .ok t)

/-- The same of a target's descriptor, with the acting lanes' pixels and depths. -/
def targetIs (s : State) (x : Issuer) (f : UN) (fn n : Nat) (t : Layer) : Prop :=
  canonicalVa (x.t.zr f.a.toNat) = true ∧ (x.t.zr f.a.toNat).toNat % 64 = 0 ∧
    (klook s.lines (lineKey (x.engine s).gasid (x.t.zr f.a.toNat).toNat)).isSome = true ∧
    ∃ d, readLayer s (x.engine s) (x.t.zr f.a.toNat) fn (walkerReqs x f.h f.d.toNat n (x.t.zr f.a.toNat)) =
      .ok ({ s with dieCaches := d }, .ok t)

/-- The lane has been performed: the path has moved on, one operation is counted with the writes in flight for it, and nothing
but cached lines, pod caches, deletions under way and records of errors read has changed besides. -/
structure LaneDone (s : State) (x : Issuer) (h : Hdr) (apath : Nat) (owners : List Nat) (ws : List RegWrite) (t : State) :
    Prop where
  team : ∃ t' id, t.team x.tk = some t' ∧ Moved x 4 h.s t' ∧
    t'.ops = x.t.ops ++ [{ id := id, apath := apath, done := false }] ∧
    t'.long = (if ws = [] then x.t.long else x.t.long ++ [{ op := some id, owners := owners, writes := ws, flags := 0 }]) ∧
    t' = { x.t with ops := t'.ops, long := t'.long, paths := t'.paths }
  others : ∀ k, k ≠ x.tk → t.team k = s.team k
  phys : ∀ loc pa, t.physByte loc pa = s.physByte loc pa
  rest : t = { s with teams := t.teams, lines := t.lines, pods := t.pods, ghosts := t.ghosts, nextSeq := t.nextSeq,
                      badReads := t.badReads, dieCaches := t.dieCaches }

/-- Every cached byte outside some ranges of addresses reads as before. -/
def ChangesOnly (s t : State) (g : Nat) (ranges : List (Nat × Nat)) : Prop :=
  ∀ k (a : Dword), canonicalVa a = true → (k = g → ∀ r ∈ ranges, ¬(r.1 ≤ a.toNat ∧ a.toNat < r.1 + r.2)) →
    t.cachedByte k a.toNat = s.cachedByte k a.toNat

/-- Two ranges of addresses do not meet. -/
def apart (a b : Nat × Nat) : Prop := a.1 + a.2 ≤ b.1 ∨ b.1 + b.2 ≤ a.1

/-- The writes of value i of an instruction at register r on: a pair for FP64, one register otherwise (10 R257). -/
def valueIn (t : Tree) (r i l v : Nat) : List RegWrite :=
  if t.vb = 8 then pairWrites (r + 2 * i) l (dword v) else [.v (r + i) l (word v)]

/-- The voxels of vlds: their number, and the offset of each (10 R262). -/
def around (sub : Nat) : Nat := [7, 13, 19, 27].getD sub 27
def offsetOf (sub i : Nat) : Int × Int × Int :=
  let along (axis : Nat) (d : Int) : Int × Int × Int :=
    (if axis = 0 then d else 0, if axis = 1 then d else 0, if axis = 2 then d else 0)
  let sign (k : Nat) : Int := if k % 2 = 0 then -1 else 1
  if 3 ≤ sub then ((i % 3 : Nat) - 1, (i / 3 % 3 : Nat) - 1, (i / 9 : Nat) - 1)
  else if i = 0 then (0, 0, 0)
  else if i < 7 then along ((i - 1) / 2) (sign (i - 1))
  else if sub = 1 then along ((i - 7) / 2) (2 * sign (i - 7))
  else
    let a := sign (i - 7)
    let b := sign ((i - 7) / 2)
    match (i - 7) / 4 with
    | 0 => (a, b, 0)
    | 1 => (a, 0, b)
    | _ => (0, a, b)

/-- vld gives the lane the level, the active state and the value that its voxel resolves to, and vlds those of its voxels in
the order of their offsets; no byte of memory changes (10 R255, R257, R261, R262). -/
def VoxelReadsResolve : Prop :=
  (∀ (f : UN) (s : State) (x : Issuer) (l level value : Nat) (active : Bool) (tree : Tree), LaneReady s x f.h VW l →
    treeIs s x f.a (x.agent s) (f.d.toNat + 6) tree →
    Resolves s (x.agent s).gasid tree (pointOf x f.d.toNat l) level value active →
    ∃ t, exec (.vld f) s = .next t ∧ SameMemory s t ∧
      LaneDone s x f.h VW [x.pi] (.v (f.d.toNat + 3) l (word (level + if active then 4 else 0)) ::
        valueIn tree (f.d.toNat + 4) 0 l value) t) ∧
  (∀ (f : VS) (s : State) (x : Issuer) (l : Nat) (level value : Nat → Nat) (active : Nat → Bool) (tree : Tree),
    LaneReady s x f.h VW l → treeIs s x f.a (x.agent s) (f.d.toNat + 4 + 2 * around f.sub.toNat) tree →
    (∀ i, i < around f.sub.toNat →
      Resolves s (x.agent s).gasid tree ((pointOf x f.d.toNat l).moved (offsetOf f.sub.toNat i)) (level i) (value i) (active i)) →
    ∃ t, exec (.vlds f) s = .next t ∧ SameMemory s t ∧
      LaneDone s x f.h VW [x.pi]
        (.v (f.d.toNat + 3) l (word ((List.range (around f.sub.toNat)).map fun i => if active i then 2 ^ i else 0).sum) ::
          (List.range (around f.sub.toNat)).flatMap fun i => valueIn tree (f.d.toNat + 4) i l (value i)) t)

/-- vst writes the lane's value to its voxel's place in its leaf, and vact sets or clears the voxel's MASK bit and gives the lane
what it was; no other byte changes (10 R257, R263, R264). -/
def VoxelWritesReachTheLeaf : Prop :=
  (∀ (f : UN) (s : State) (x : Issuer) (l e1 value flags h : Nat) (tree : Tree), LaneReady s x f.h VW l →
    treeIs s x f.a (x.agent s) (f.d.toNat + 6) tree →
    let g := (x.agent s).gasid
    let c := pointOf x f.d.toNat l
    HasLeaf s g tree c e1 value flags h → held s g (dataAt tree c h) →
    ∃ t, exec (.vst f) s = .next t ∧ LaneDone s x f.h VW [x.pi] [] t ∧
      t.cachedNat g (dataAt tree c h) tree.vb =
        ((x.t.vr (f.d.toNat + 4) l).toNat + 2 ^ 32 * (x.t.vr (f.d.toNat + 5) l).toNat) % 256 ^ tree.vb ∧
      ChangesOnly s t g [(dataAt tree c h, tree.vb)]) ∧
  (∀ (f : UN) (set : Bool) (s : State) (x : Issuer) (l e1 value flags h : Nat) (tree : Tree), LaneReady s x f.h VW l →
    treeIs s x f.a (x.agent s) f.d.toNat tree →
    let g := (x.agent s).gasid
    let c := pointOf x f.d.toNat l
    let k := c.index % 8
    HasLeaf s g tree c e1 value flags h → held s g (maskAt tree c h) →
    let old := s.cachedNat g (maskAt tree c h) 1
    ∃ t, exec (if set then .vactSet f else .vactClr f) s = .next t ∧
      LaneDone s x f.h VW [x.pi] [.v (f.d.toNat + 3) l (word (old / 2 ^ k % 2))] t ∧
      (∀ j, j < 8 → t.cachedNat g (maskAt tree c h) 1 / 2 ^ j % 2 =
        if j = k then (if set then 1 else 0) else old / 2 ^ j % 2) ∧
      ChangesOnly s t g [(maskAt tree c h, 1)])

/-- The number of an FP32 word lies from a whole number up to the next. -/
def wholePart (w : Word) (c : Int) : Prop :=
  let n (k : Int) : FVal := .num (decide (k < 0)) k.natAbs 0
  (FFmt.f32.read w.toNat).order (n (c + 1)) = .less ∧
    ((FFmt.f32.read w.toNat).order (n c) = .equal ∨ (FFmt.f32.read w.toNat).order (n c) = .greater)

/-- The FP32 word is NaN or infinite. -/
def nonFinite (w : Word) : Prop := w.toNat / 2 ^ 23 % 256 = 255

/-- The four results of vmarch in flight for a lane. -/
def marchWrites (q l : Nat) (enter exit_ value status : Word) : List RegWrite :=
  [.v (q + 8) l enter, .v (q + 9) l exit_, .v (q + 10) l value, .v (q + 11) l status]

/-- vmarch of a ray that stands still, its direction +0 on every axis, from t0 to t1: where its voxel has a leaf it hits that,
where it resolves to an active tile that is not FP64 it hits the tile, from t0 to t1 either way, and where it resolves to an
inactive tile it passes to t1; and a ray with an input that is not finite, or with t0 above t1, is invalid. No byte of memory
changes (10 R266). -/
def MarchesMeetWhatStands : Prop :=
  (∀ (f : UN) (s : State) (x : Issuer) (l : Nat) (cx cy cz : Int) (tree : Tree) (t0 t1 : Word), LaneReady s x f.h VW l →
    treeIs s x f.a (x.agent s) f.d.toNat tree →
    let g := (x.agent s).gasid
    let q := f.d.toNat
    let c := pointAt cx cy cz
    (∀ e ∈ [(0, cx), (1, cy), (2, cz)], wholePart (x.t.vr (q + e.1) l) e.2 ∧ -(2 ^ 31) ≤ e.2 ∧ e.2 < 2 ^ 31 ∧
      x.t.vr (q + 3 + e.1) l = 0) →
    x.t.vr (q + 6) l = t0 → x.t.vr (q + 7) l = t1 → ¬nonFinite t0 → ¬nonFinite t1 →
    (FFmt.f32.read t1.toNat).order (FFmt.f32.read t0.toNat) ≠ .less →
    (∀ e1 value flags h, HasLeaf s g tree c e1 value flags h →
      ∃ t, exec (.vmarch f) s = .next t ∧ SameMemory s t ∧ LaneDone s x f.h VW [x.pi] (marchWrites q l t0 t1 (word h)
        (if s.cachedNat g (tree.leafAt h + 32) 64 = 0 then 1 else 0x11)) t) ∧
    (∀ level value, Resolves s g tree c level value true → level ≠ 0 → tree.vb ≠ 8 →
      ∃ t, exec (.vmarch f) s = .next t ∧ SameMemory s t ∧
        LaneDone s x f.h VW [x.pi] (marchWrites q l t0 t1 (word value) (word (0x13 + 4 * level))) t) ∧
    (∀ level value, Resolves s g tree c level value false → level ≠ 0 →
      ∃ t, exec (.vmarch f) s = .next t ∧ SameMemory s t ∧
        LaneDone s x f.h VW [x.pi] (marchWrites q l t1 t1 0 0x20) t)) ∧
  (∀ (f : UN) (s : State) (x : Issuer) (l : Nat) (tree : Tree), LaneReady s x f.h VW l →
    treeIs s x f.a (x.agent s) f.d.toNat tree →
    let q := f.d.toNat
    let t0 := x.t.vr (q + 6) l
    (∃ k, k < 8 ∧ nonFinite (x.t.vr (q + k) l)) ∨
      (FFmt.f32.read (x.t.vr (q + 7) l).toNat).order (FFmt.f32.read t0.toNat) = .less →
    ∃ t, exec (.vmarch f) s = .next t ∧ SameMemory s t ∧ LaneDone s x f.h VW [x.pi] (marchWrites q l t0 t0 0 0x80) t)

/-- The bytes that a Curator changes for one leaf lie apart: the fields of the descriptor, a level-1 entry and leaf slot h. -/
def leafApart (desc e1 : Nat) (t : Tree) (h : Nat) : Prop :=
  apart (desc, 128) (e1, 16) ∧ apart (desc, 128) (t.leafAt h, 128 + 512 * t.vb) ∧ apart (e1, 16) (t.leafAt h, 128 + 512 * t.vb)

/-- vins of a voxel that has a leaf gives the lane its handle and changes no byte; of one whose level-1 entry is a tile, with the
free list empty and a slot never handed out left, it gives the lane that slot with bit 31 set, and the leaf stands there with its
origin, the tree's type, LIVE, an empty MASK, REV one more and the tile's value in every voxel, the entry names it, and LEAFNEXT
and LIVE are one more. vdel of a voxel that has a leaf leaves the entry its tile, the header without LIVE, the slot at the head of
the free list under the next tag, and LIVE one less; of a voxel that has none it changes no byte (10 R267-R269). -/
def CuratorLanesEditTheTree : Prop :=
  ∀ (f : UN) (s : State) (x : Issuer) (l : Nat) (tree : Tree), LaneReady s x f.h AL l →
    treeIs s x f.a (x.agent s) 0 tree →
    let g := (x.agent s).gasid
    let desc := (x.t.zr f.a.toNat).toNat
    let c := pointOf x f.d.toNat l
    (∀ e1 value flags h, HasLeaf s g tree c e1 value flags h →
      ∃ t, exec (.vins f) s = .next t ∧ SameMemory s t ∧ LaneDone s x f.h AL [] [.v (f.d.toNat + 3) l (word h)] t) ∧
    (∀ e1 value child flags h, Reaches s g tree c e1 → NodeEntry s g e1 value child flags → flags % 2 = 0 →
      flags / 4 % 2 = 0 → s.cachedNat g (desc + 0x38) 4 = 0xFFFFFFFF → s.cachedNat g (desc + 0x34) 4 = h → h < tree.leafcap →
      leafApart desc e1 tree h → inRange (tree.leafAt h) (128 + 512 * tree.vb) = true →
      (∀ k, k ≤ 4 * tree.vb → (klook s.lines (lineKey g (tree.leafAt h + 128 * k))).isSome = true) →
      ∃ t, exec (.vins f) s = .next t ∧ LaneDone s x f.h AL [] [.v (f.d.toNat + 3) l (word (2 ^ 31 + h))] t ∧
        (∀ e ∈ [(0, 4, c.x / 8 * 8), (4, 4, c.y / 8 * 8), (8, 4, c.z / 8 * 8), (12, 1, tree.vtype), (13, 1, 1),
            (16, 4, 0xFFFFFFFF), (20, 4, (s.cachedNat g (tree.leafAt h + 20) 4 + 1) % 2 ^ 32), (32, 64, 0)],
          t.cachedNat g (tree.leafAt h + e.1) e.2.1 = e.2.2) ∧
        (∀ n, n < 512 → t.cachedNat g (tree.leafAt h + 128 + n * tree.vb) tree.vb = value % 256 ^ tree.vb) ∧
        NodeEntry t g e1 value h (1 + flags / 2 % 2 * 2) ∧ t.cachedNat g (desc + 0x34) 4 = h + 1 ∧
        t.cachedNat g (desc + 0x40) 4 = (s.cachedNat g (desc + 0x40) 4 + 1) % 2 ^ 32 ∧
        ChangesOnly s t g [(desc + 0x34, 4), (desc + 0x40, 4), (e1, 16), (tree.leafAt h, 128 + 512 * tree.vb)]) ∧
    (∀ e1 value flags h, HasLeaf s g tree c e1 value flags h → leafApart desc e1 tree h →
      ∃ t flags', exec (.vdel f) s = .next t ∧ LaneDone s x f.h AL [] [] t ∧
        (∃ child, NodeEntry t g e1 value child flags') ∧ flags' % 2 = 0 ∧ flags' / 2 % 2 = flags / 2 % 2 ∧ flags' / 4 % 2 = 0 ∧
        t.cachedNat g (tree.leafAt h + 13) 1 % 2 = 0 ∧
        t.cachedNat g (tree.leafAt h + 16) 4 = s.cachedNat g (desc + 0x38) 4 ∧
        t.cachedNat g (desc + 0x38) 4 = h ∧
        t.cachedNat g (desc + 0x3C) 4 = (s.cachedNat g (desc + 0x3C) 4 + 1) % 2 ^ 32 ∧
        t.cachedNat g (desc + 0x40) 4 = (s.cachedNat g (desc + 0x40) 4 + (2 ^ 32 - 1)) % 2 ^ 32 ∧
        ChangesOnly s t g [(desc + 0x38, 8), (desc + 0x40, 4), (e1, 16), (tree.leafAt h + 13, 1), (tree.leafAt h + 16, 4)]) ∧
    (∀ e1 value child flags, Reaches s g tree c e1 → NodeEntry s g e1 value child flags → flags % 2 = 0 → flags / 4 % 2 = 0 →
      ∃ t, exec (.vdel f) s = .next t ∧ SameMemory s t ∧ LaneDone s x f.h AL [] [] t)

/-- The fields that a lane of fins, resolve or lclear names: x, y and COVERAGE (12 R299, R304). -/
def pixelOf (x : Issuer) (q l : Nat) : Nat × Nat × Nat :=
  ((x.t.vr q l).toNat % 2 ^ 14, (x.t.vr q l).toNat / 2 ^ 14 % 2 ^ 14, (x.t.vr q l).toNat / 2 ^ 28)
/-- The addresses of the lane's head record, and of node n and its key (12 R295, R296). -/
def headOf (x : Issuer) (q l : Nat) (t : Layer) : Nat := t.heads + 8 * ((pixelOf x q l).2.1 * t.width + (pixelOf x q l).1)
def nodeOf (t : Layer) (n : Nat) : Nat := t.pool + 16 * n
def keyOf (t : Layer) (n : Nat) : Nat := t.keys + 4 * n

/-- The bytes of one node's list lie in cached lines, apart from one another, and n names a node (12 R295-R297). -/
structure ListBytes (s : State) (g : Nat) (t : Layer) (head n : Nat) : Prop where
  bound : 256 ≤ n ∧ n < 256 * t.pages
  held : ∀ a ∈ [head, t.pool, nodeOf t n, keyOf t n], (klook s.lines (lineKey g a)).isSome = true ∧ a + 64 ≤ 2 ^ 51
  apart : apart (head, 8) (t.pool, 64) ∧ apart (head, 8) (nodeOf t n, 16) ∧ apart (head, 8) (keyOf t n, 4) ∧
    apart (keyOf t n, 4) (t.pool, 64) ∧ apart (keyOf t n, 4) (nodeOf t n, 16)

/-- The lane's list is one node n, the last of it, and n is freed: the head is empty, n is the head of NODEFREE under the next
tag with the old one as its NEXT, LIVENODES is one less, and no other byte changes (12 R297, R304). -/
def listCleared (s : State) (g : Nat) (t : Layer) (head n : Nat) (u : State) : Prop :=
  u.cachedNat g head 8 = 0 ∧ u.cachedNat g (nodeOf t n + 12) 3 = s.cachedNat g (t.pool + 8) 3 ∧
    u.cachedNat g (t.pool + 8) 4 = n ∧ u.cachedNat g (t.pool + 12) 4 = (s.cachedNat g (t.pool + 12) 4 + 1) % 2 ^ 32 ∧
    u.cachedNat g (t.pool + 20) 4 = (s.cachedNat g (t.pool + 20) 4 + (2 ^ 32 - 1)) % 2 ^ 32 ∧
    ChangesOnly s u g [(head, 8), (nodeOf t n + 12, 4), (t.pool + 8, 8), (t.pool + 20, 4)]

/-- fins into an empty list, with no node free and CURNODE naming one, makes that node the list: its depth, colour, key and
coverage are the lane's, CURNODE is the next node of the page or 0, and LIVENODES one more. resolve of an empty list gives the
lane its background, where that is finite and not -0; of a list of one opaque RGBA16F node over a finite background it gives the
numbers of the node's channels; resolve.clr does the same and frees the node, and lclear frees it (12 R297, R299, R301, R304). -/
def ListLanesEditTheList : Prop :=
  (∀ (f : UN) (s : State) (x : Issuer) (l n : Nat) (t : Layer), LaneReady s x f.h FR l → targetIs s x f 0 5 t →
    let g := (x.agent s).gasid
    let q := f.d.toNat
    let head := headOf x q l t
    let w (k : Nat) : Nat := (x.t.vr (q + k) l).toNat
    ListBytes s g t head n → s.cachedNat g head 8 = 0 → s.cachedNat g (t.pool + 8) 3 = 0 →
    s.cachedNat g (t.pool + 16) 4 = n →
    ∃ u, exec (.fins f) s = .next u ∧ LaneDone s x f.h FR [x.pi] [] u ∧ u.cachedNat g head 8 = 2 ^ 24 + n ∧
      u.cachedNat g (nodeOf t n) 4 = w 1 ∧
      u.cachedNat g (nodeOf t n + 4) 8 = w 2 + (if t.cfmt = 0 then 2 ^ 32 * w 3 else 0) ∧
      u.cachedNat g (nodeOf t n + 12) 4 = (pixelOf x q l).2.2 * 2 ^ 24 ∧ u.cachedNat g (keyOf t n) 4 = w 4 ∧
      u.cachedNat g (t.pool + 16) 4 = (if (n + 1) % 256 = 0 then 0 else n + 1) ∧
      u.cachedNat g (t.pool + 20) 4 = (s.cachedNat g (t.pool + 20) 4 + 1) % 2 ^ 32 ∧
      ChangesOnly s u g [(head, 8), (nodeOf t n, 16), (keyOf t n, 4), (t.pool + 16, 4), (t.pool + 20, 4)]) ∧
  (∀ (f : UN) (s : State) (x : Issuer) (l : Nat) (t : Layer) (clear : Bool), LaneReady s x f.h FR l → targetIs s x f 1 8 t →
    let g := (x.agent s).gasid
    let q := f.d.toNat
    let head := headOf x q l t
    (klook s.lines (lineKey g head)).isSome = true → s.cachedNat g head 8 = 0 →
    (∀ k, k < 4 → x.t.vr (q + 4 + k) l ≠ 0x80000000 ∧ ¬nonFinite (x.t.vr (q + 4 + k) l)) →
    ∃ u, exec (if clear then .resolveClr f else .resolve f) s = .next u ∧ SameMemory s u ∧
      LaneDone s x f.h FR [x.pi] ((List.range 4).map fun k => .v (q + k) l (x.t.vr (q + 4 + k) l)) u) ∧
  (∀ (f : UN) (s : State) (x : Issuer) (l n : Nat) (t : Layer) (clear : Bool), LaneReady s x f.h FR l → targetIs s x f 1 8 t →
    let g := (x.agent s).gasid
    let q := f.d.toNat
    let head := headOf x q l t
    let channel (k : Nat) : Nat := s.cachedNat g (nodeOf t n + 4 + 2 * k) 2
    ListBytes s g t head n → s.cachedNat g head 8 = 2 ^ 24 + n → s.cachedNat g (nodeOf t n + 12) 3 = 0 → t.cfmt = 0 →
    channel 3 = 0x3C00 → (∀ k, k < 4 → channel k / 2 ^ 10 % 32 ≠ 31 ∧ ¬nonFinite (x.t.vr (q + 4 + k) l)) →
    ∃ (u : State) (c : Nat → Word), exec (if clear then .resolveClr f else .resolve f) s = .next u ∧
      LaneDone s x f.h FR [x.pi] ((List.range 4).map fun k => .v (q + k) l (c k)) u ∧
      (∀ k, k < 4 → (FFmt.f32.read (c k).toNat).order (FFmt.f16.read (channel k)) = .equal) ∧
      if clear then listCleared s g t head n u else SameMemory s u) ∧
  (∀ (f : UN) (s : State) (x : Issuer) (l n : Nat) (t : Layer), LaneReady s x f.h FR l → targetIs s x f 2 1 t →
    let g := (x.agent s).gasid
    let head := headOf x f.d.toNat l t
    ListBytes s g t head n → s.cachedNat g head 8 = 2 ^ 24 + n → s.cachedNat g (nodeOf t n + 12) 3 = 0 →
    ∃ u, exec (.lclear f) s = .next u ∧ LaneDone s x f.h FR [x.pi] [] u ∧ listCleared s g t head n u)

end Sys2Proof.Machine

/-- vleaf and the lane instructions of the walker, the Curator and the lists complete, and each has its effect where its tree or
list is in cached lines. That resolve and lclear read a node's key, whose line the statement therefore has cached, is the model's
choice (log 51). -/
def Obligations.TreeAndListInstructionsComplete : Prop :=
  Sys2Proof.Machine.LeafCopyIsHandedOver ∧
  Sys2Proof.Machine.WalkerAndListLanesComplete ∧
  Sys2Proof.Machine.VoxelReadsResolve ∧
  Sys2Proof.Machine.VoxelWritesReachTheLeaf ∧
  Sys2Proof.Machine.MarchesMeetWhatStands ∧
  Sys2Proof.Machine.CuratorLanesEditTheTree ∧
  Sys2Proof.Machine.ListLanesEditTheList

namespace Sys2Proof.Machine

/-! ### Privileged instructions (15 R319-R338, 17 R370) -/

/-- The instruction has passed with register writes ws: of the state only the issuing team's registers and path and the
partitions differ, and partition pn is part pn. -/
structure PassedWith (s : State) (x : Issuer) (mark : Bool) (ws : List RegWrite) (part : Nat → Part) (t : State) :
    Prop where
  rest : t = { s with teams := t.teams, parts := t.parts }
  team : ∃ t', t.team x.tk = some t' ∧ Moved x 4 mark t' ∧ Written x.t ws t' ∧
    t' = { x.t with s := t'.s, paths := t'.paths }
  others : ∀ k, k ≠ x.tk → t.team k = s.team k
  parts : ∀ pn, t.part pn = part pn

/-- The partitions with the issuing supervisor's own replaced. -/
def ownPart (s : State) (x : Issuer) (p : Part) (pn : Nat) : Part := if pn = pnumOf x.tk then p else s.part pn

/-- What a privileged register reads, by its number and fields; an action field reads 0 (00 R3, 15 R322, R323, 16 R347,
17 R371, 18 R383, R392). -/
def privValue (s : State) (pn n : Nat) : Word :=
  let p := s.part pn
  match n with
  | 0x00 => word (pn + 2 ^ 12 * p.halves.toNat
      + 2 ^ 20 * ((List.range 4).filter fun k => p.arrays.getLsbD k).length + 2 ^ 23 * p.rings.toNat)
  | 0x0E => word (65536 * Config.celUnits)
  | 0x0F => word ((if p.cellar.isSome then 1 else 0) + (if p.cellarOp = 0 then 0 else 4)
      + (if (p.reg 0x0F).getLsbD 3 then 8 else 0))
  | 0x41 => word (p.allot.toNat + 65536 * p.tokenHeld)
  | 0x2A | 0x2B | 0x60 | 0x61 => 0
  | 0x7C => word ((p.reg 0x7C).toNat / 512 * 512 + (p.reg 0x7C).toNat % 256)
  | 0x7E => dget 0 p.progress ((p.reg 0x7D).toNat % 16)
  | n => dget 0 p.regs n

/-- Bit k of a register after a write: a writable bit takes the value's, a bit that a written 1 clears is cleared, any other
stays (00 R3). -/
def privBitAfter (n : Nat) (old val : Word) (k : Nat) : Bool :=
  if nbit (privMasks n).1 k then val.getLsbD k else old.getLsbD k && !(nbit (privMasks n).2 k && val.getLsbD k)

/-- The registers whose write acts at once, each with the event of the opcode table that the write is (17 R374, 18 R383,
R392, R393). -/
noncomputable def actionEvent (pn n : Nat) (v : Word) : Option Instr :=
  match n with
  | 0x60 => some (.gend pn v)
  | 0x61 =>
    match v.toNat / 2 ^ 22 % 4 with
    | 0 => some (.presContinue pn v)
    | 1 => some (.presPerformHeld pn v)
    | _ => none
  | 0x2A => some (if v.getLsbD 16 then .replayAll pn else .replayAsid pn (v.toNat % 8192))
  | 0x2B => some (if v.getLsbD 16 then .reginvAll pn else .reginvAsid pn (v.toNat % 8192))
  | 0x7C => some (if v.getLsbD 8 then .causalTrialStart pn v else .causalTrialEnd pn v)
  | 0x7F => some (if v.getLsbD 8 then .clockLockRequest pn v else .clockLockRelease pn v)
  | _ => none

/-- The short instructions of the supervisor that act on its own registers and partition: the register writes and the
partition after them. tqpop is listed while no record is held back; hint where its code asks for nothing but timing; catw
while the catalogue does not take its kind; dbgh and dbgr of a TID other than 0 that names no live user team. -/
def serviceRow (s : State) (x : Issuer) (i : Instr) : Option (Hdr × List RegWrite × Part) :=
  let p := s.part (pnumOf x.tk)
  let q := p.reg 0x0B
  let log := if 4 ≤ q.toNat / 2 ^ 24 % 16 ∧ q.toNat / 2 ^ 24 % 16 ≤ 12 then q.toNat / 2 ^ 24 % 16 else 12
  let head := q.toNat % 4096
  let tail := q.toNat / 4096 % 4096
  let names (r : Nat) : Bool := (userTeam s (pnumOf x.tk) ((x.t.sr r).toNat % 65536)).isSome
  match i with
  | .tqpop f =>
    if head = tail then some (f.h, [.s f.a.toNat 0xFFFFFFFF], p)
    else if p.heldRecs = [] then
      some (f.h, [.s f.a.toNat (word head)],
        { p with regs := dput 0 p.regs 0x0B (word (q.toNat / 2 ^ 24 * 2 ^ 24 + tail * 4096 + (head + 1) % 2 ^ log)) })
    else none
  | .wdog h => some (h, [], { p with wdogAt := s.clock })
  | .hint f =>
    let code := (x.t.sr f.a.toNat).toNat % 256
    if code = 3 ∨ (code = 2 ∧ p.batch ≠ []) then none else some (f.h, [], p)
  | .catw f => if (p.reg 0x76).getLsbD 0 && (p.reg 0x76).getLsbD 22 then none else some (f.h, [], p)
  | .dbgh f =>
    if (x.t.sr f.a.toNat).toNat < 2 ^ 23 ∧ (x.t.sr f.a.toNat).toNat % 65536 ≠ 0 ∧ names f.a.toNat = false then
      some (f.h, [], p)
    else none
  | .dbgr f =>
    if (x.t.sr f.a.toNat).toNat < 2 ^ 23 ∧ (x.t.sr f.a.toNat).toNat % 65536 ≠ 0 ∧ names f.a.toNat = false then
      some (f.h, [], p)
    else none
  | _ => none

/-- The issuing path waits at its instruction; of the state nothing else has changed but what part says of partitions. -/
structure ParkedAt (s : State) (x : Issuer) (w : PathWait) (mark : Bool) (t : State) : Prop where
  rest : t = { s with teams := t.teams }
  team : ∃ t', t.team x.tk = some t' ∧ t'.path x.pi = some { x.path with st := .waiting w, mark := mark } ∧
    (∀ j, j ≠ x.pi → t'.path j = x.t.path j) ∧ t' = { x.t with paths := t'.paths }
  others : ∀ k, k ≠ x.tk → t.team k = s.team k

/-- The instructions that park the path, with what it waits for, when they act and their operands pass their checks
(15 R328, R337, 17 R370). -/
def parkRow (s : State) (x : Issuer) (i : Instr) : Option (Hdr × PathWait) :=
  match i with
  | .cflush f => given (canonicalVa (x.t.zr f.a.toNat)) (f.h, .maintenance (x.t.zr f.a.toNat) true s.nextTrap)
  | .cwb f => given (canonicalVa (x.t.zr f.a.toNat)) (f.h, .maintenance (x.t.zr f.a.toNat) false s.nextTrap)
  | .tlbinv f =>
    given (x.t.sup && decide ((x.t.zr f.a.toNat).toNat < 2 ^ 54)) (f.h, .tlbinv (x.t.zr f.a.toNat))
  | .cswap f =>
    given (x.t.sup && x.t.sr f.a.toNat == 0 && (s.part (pnumOf x.tk)).cellarOp == 0
        && s.teams.all fun e => !(e.1 / 65536 == pnumOf x.tk) || e.2.sup || !e.2.live || e.2.halted)
      (f.h, .exchange)
  | _ => none

/-- An instruction outside the supervisor's set, whose operands do not matter to this table, with its header. -/
def uniformHeader : Instr → Option Hdr
  | .cflush f | .cwb f | .tlbinv f | .cswap f | .tqpop f | .hint f | .catw f | .dbgh f | .dbgr f | .halt f
  | .resume f => some f.h
  | .rdpr f | .wrpr f => some f.h
  | .tret h | .wdog h => some h
  | _ => none

/-- The privileged functions of major 0x3F (15 R319). -/
def privilegedHeader : Instr → Option Hdr
  | .cflush _ | .cwb _ => none
  | i => uniformHeader i

end Sys2Proof.Machine

/-- rdpr of an assigned number completes and delivers what the register reads (15 R322, R336). -/
def Sys2Proof.Machine.PrivilegedReadsComplete : Prop :=
  ∀ (f : PR) (s : State) (x : Issuer), WellFormed (.rdpr f) = true → s.issuer = some x → x.t.sup = true →
    CompletesWith (.rdpr f) s x
      ⟨4, f.h.s, false, if x.uacts f.h then [.s f.a.toNat (privValue s (pnumOf x.tk) f.i.toNat)] else [], 0⟩

/-- wrpr of an assigned register whose write does not act at once completes: each bit of that register of the own partition is as
privBitAfter says, a write of PROGSEL with CLR clears the progress counters, and every other register, partition, team and
byte of memory stays (15 R336, 00 R3). -/
def Sys2Proof.Machine.PrivilegedWritesComplete : Prop :=
  ∀ (f : PR) (s : State) (x : Issuer), WellFormed (.wrpr f) = true → s.issuer = some x → x.t.sup = true →
    (∀ v, actionEvent 0 f.i.toNat v = none) → f.i.toNat ≠ 0x61 →
    (f.i.toNat = 0x09 ∨ f.i.toNat = 0x0A ∨ f.i.toNat = 0x0B → (s.part (pnumOf x.tk)).heldRecs = []) →
    let p := s.part (pnumOf x.tk)
    ∃ t new q, exec (.wrpr f) s = .next t ∧
      (∀ k, k < 32 → new.getLsbD k = privBitAfter f.i.toNat (dget 0 p.regs f.i.toNat) (x.t.sr f.a.toNat) k) ∧
      q = { p with regs := q.regs, heldStuck := q.heldStuck,
                   progress := if f.i.toNat = 0x7D ∧ (x.t.sr f.a.toNat).getLsbD 8 then [] else p.progress } ∧
      (∀ m, dget 0 q.regs m = if m = f.i.toNat then new else dget 0 p.regs m) ∧
      PassedWith s x f.h.s [] (ownPart s x (if x.uacts f.h then q else p)) t

/-- wrpr of GEND, PRES, REPLAY, REGINV, CXCTL and CLKLOCK completes: it is the event of that write in the issuing
supervisor's partition, and the path moves on (18 R383, R392, R393, 17 R374). -/
def Sys2Proof.Machine.ActionWritesAreTheirEvents : Prop :=
  ∀ (f : PR) (e : Instr) (s : State) (x : Issuer), WellFormed (.wrpr f) = true → s.issuer = some x → x.t.sup = true →
    x.uacts f.h = true → actionEvent (pnumOf x.tk) f.i.toNat (x.t.sr f.a.toNat) = some e →
    ∃ u, exec e s = .next u ∧ exec (.wrpr f) s = .next (u.pass x 4 f.h.s)

/-- rdpr and wrpr complete for every assigned number: plain registers and those whose write acts. An unassigned number
traps at decoding (15 R322, 03 R86). -/
def Obligations.PrivilegedRegisterAccessesComplete : Prop :=
  Sys2Proof.Machine.PrivilegedReadsComplete ∧
  Sys2Proof.Machine.PrivilegedWritesComplete ∧
  Sys2Proof.Machine.ActionWritesAreTheirEvents

/-- tqpop, wdog, hint, catw, dbgh and dbgr complete as serviceRow lists them; a false predicate leaves all but the path
(15 R334, R336, 16 R356, 18 R391). -/
def Sys2Proof.Machine.SupervisorServicesComplete : Prop :=
  ∀ (i : Instr) (h : Hdr) (ws : List RegWrite) (p : Part) (s : State) (x : Issuer),
    serviceRow s x i = some (h, ws, p) → s.issuer = some x → x.t.sup = true →
    ∃ t, exec i s = .next t ∧
      if x.uacts h then PassedWith s x h.s ws (ownPart s x p) t else PassedWith s x h.s [] s.part t

/-- dbgh and dbgr of one path of a live user team set and clear its hold, and change nothing else of that team or of any
other, while the catalogue is off (15 R336, 18 R389). -/
def Sys2Proof.Machine.DebuggerHoldsOnePath : Prop :=
  ∀ (f : SA) (hold : Bool) (s : State) (x : Issuer) (tid : Nat) (u : Team) (j : Nat) (p : Path),
    s.issuer = some x → x.t.sup = true → x.uacts f.h = true → x.tk % 65536 = 0 → 1 ≤ tid → tid < 65536 → j < 64 →
    x.t.sr f.a.toNat = word (tid + 65536 * j) → s.team (x.tk + tid) = some u → u.live = true → u.sup = false →
    u.path j = some p → (u.paths.map Prod.fst).Nodup → ((s.part (pnumOf x.tk)).reg 0x76).getLsbD 0 = false →
    ∃ t u' x', exec (if hold then .dbgh f else .dbgr f) s = .next t ∧ t.team (x.tk + tid) = some u' ∧
      u'.path j = some { p with hold := hold } ∧ (∀ k, k ≠ j → u'.path k = u.path k) ∧
      u' = { u with paths := u'.paths } ∧
      t.team x.tk = some x' ∧ Moved x 4 f.h.s x' ∧ x' = { x.t with paths := x'.paths } ∧
      (∀ k, k ≠ x.tk → k ≠ x.tk + tid → t.team k = s.team k) ∧ t = { s with teams := t.teams }

/-- dbgr of TID 0 clears the hold of the path that it names of the supervisor itself, which a brk has set there, and changes
nothing else, while the catalogue is off (05 R143, 15 R336, R320). -/
def Sys2Proof.Machine.DebuggerReleasesTheSupervisorsPath : Prop :=
  ∀ (f : SA) (s : State) (x : Issuer) (j : Nat) (p : Path), s.issuer = some x → x.t.sup = true → x.t.live = true →
    x.uacts f.h = true → x.tk % 65536 = 0 → j < 64 → j ≠ x.pi → x.t.sr f.a.toNat = word (65536 * j) →
    x.t.path j = some p → (x.t.paths.map Prod.fst).Nodup → ((s.part (pnumOf x.tk)).reg 0x76).getLsbD 0 = false →
    ∃ t t', exec (.dbgr f) s = .next t ∧ t.team x.tk = some t' ∧ t'.path j = some { p with hold := false } ∧
      t'.path x.pi = some (x.after 4 f.h.s t') ∧ (∀ k, k ≠ j → k ≠ x.pi → t'.path k = x.t.path k) ∧
      t' = { x.t with paths := t'.paths } ∧ (∀ k, k ≠ x.tk → t.team k = s.team k) ∧ t = { s with teams := t.teams }

/-- The records of the catalogue, as they act: 2^SIZELOG with SIZELOG 8 to 24, else 2^8 (18 R390). -/
def Sys2Proof.Machine.catRecords (ctl : Word) : Nat :=
  2 ^ (if 8 ≤ ctl.toNat / 256 % 32 ∧ ctl.toNat / 256 % 32 ≤ 24 then ctl.toNat / 256 % 32 else 8)

/-- catw with EN and bit 6 of KINDS set, in a ring with room whose line is cached, writes the record of kind 6 at CATBASE
+ 32 (PTR mod 2^SIZELOG) and then increments PTR: its kind, path, %clock, PC and word, every other field zero; no other byte
of memory, no other register and nothing else of any team changes (18 R390, R391). -/
def Sys2Proof.Machine.CatwWritesItsRecord : Prop :=
  ∀ (f : SA) (s : State) (x : Issuer), s.issuer = some x → x.t.sup = true → x.uacts f.h = true → x.tk % 65536 = 0 →
    x.pi < 64 →
    let p := s.part (pnumOf x.tk)
    let ctl := p.reg 0x76
    let ptr := (p.reg 0x77).toNat
    let base := p.reg64 0x74
    let at_ : Dword := BitVec.ofNat 64 (base + 32 * (ptr % catRecords ctl))
    let g := (supAgent s (pnumOf x.tk)).gasid
    ctl.getLsbD 0 = true → ctl.getLsbD 22 = true → ctl.getLsbD 1 = true ∨ ptr < catRecords ctl →
    base % 4096 = 0 → base + 2 ^ 29 < 2 ^ 51 → (klook s.lines (lineKey g at_.toNat)).isSome = true →
    (∀ w ∈ s.waits, ∀ va, w.loc = .virt g va → overlap va.toNat 4 at_.toNat 32 = false) →
    ∃ t t', exec (.catw f) s = .next t ∧ t.team x.tk = some t' ∧ Moved x 4 f.h.s t' ∧ t' = { x.t with paths := t'.paths } ∧
      (∀ k, k ≠ x.tk → t.team k = s.team k) ∧ t = { s with teams := t.teams, parts := t.parts, lines := t.lines, dieCaches := t.dieCaches } ∧
      (∀ e ∈ [(0, 1, 6), (1, 1, 0), (2, 2, 0), (4, 1, x.pi), (5, 1, 0), (6, 2, 0), (8, 8, (s.now x.t.die).toNat),
        (16, 8, x.path.pc.toNat), (24, 8, (x.t.sr f.a.toNat).toNat)], t.cachedNat g (at_.toNat + e.1) e.2.1 = e.2.2) ∧
      StoresOnlyAt s t g 32 [at_] ∧
      (∀ n, (t.part (pnumOf x.tk)).reg n = if n = 0x77 then word (ptr + 1) else p.reg n) ∧
      t.part (pnumOf x.tk) = { p with regs := (t.part (pnumOf x.tk)).regs } ∧
      ∀ q, q ≠ pnumOf x.tk → t.part q = s.part q

/-- tqpop, wdog, hint, catw, dbgh and dbgr complete. -/
def Obligations.SupervisorServicesAndHoldsComplete : Prop :=
  Sys2Proof.Machine.SupervisorServicesComplete ∧
  Sys2Proof.Machine.CatwWritesItsRecord ∧
  Sys2Proof.Machine.DebuggerHoldsOnePath ∧
  Sys2Proof.Machine.DebuggerReleasesTheSupervisorsPath

/-- cflush, cwb, tlbinv and the exchange of cswap park the path at the instruction with nothing else changed; with a false
predicate the path moves on (15 R328, R337, 17 R370). -/
def Sys2Proof.Machine.MaintenanceParksThePath : Prop :=
  ∀ (i : Instr) (h : Hdr) (w : PathWait) (s : State) (x : Issuer), parkRow s x i = some (h, w) → s.issuer = some x →
    ∃ t, exec i s = .next t ∧
      if x.uacts h then ParkedAt s x w h.s t else ∃ t', OnlyTeam s x.tk t t' ∧ PathMoved s x h.s t t'

/-- halt of one live user team with no engine command marks it and parks the supervisor's path, and resume clears the mark
of a team for which no replay and no completed wait has come due meanwhile, with the traps of its expired counts, starts a
count that had expired again, and lets the path go on; an ID that names no live team makes either complete with no effect
(15 R326, R333). -/
def Sys2Proof.Machine.HaltMarksAndResumeClears : Prop :=
  ∀ (f : SA) (s : State) (x : Issuer) (tid : Nat), s.issuer = some x → x.t.sup = true → x.uacts f.h = true →
    x.tk % 65536 = 0 → 1 ≤ tid → tid < 65536 → x.t.sr f.a.toNat = word (65536 * tid) →
    ((s.teams.map Prod.fst).Pairwise (· < ·)) →
    (∀ u, s.team (x.tk + tid) = some u → u.live = true → u.sup = false → u.replayDue = false →
      u.letGo = [] → (∀ pi k ks, u.wait ≠ .bar pi k true ∧ u.wait ≠ .regroup pi ks) →
      (∀ c ∈ s.cmds, c.tk ≠ x.tk + tid) → (s.peuri (pnumOf x.tk)).queue = [] →
      (∃ t u', exec (.halt f) s = .next t ∧ t.team (x.tk + tid) = some u' ∧ u' = { u with halted := true } ∧
        (∃ x', t.team x.tk = some x' ∧
          x'.path x.pi = some { x.path with st := .waiting (.halt (x.t.sr f.a.toNat)), mark := f.h.s }) ∧
        (∀ k, k ≠ x.tk → k ≠ x.tk + tid → t.team k = s.team k)) ∧
      (∃ t u', exec (.resume f) s = .next t ∧ t.team (x.tk + tid) = some u' ∧
        u' = (if u.halted = true then
          { u with halted := false, expired := u.expired.filter fun tr => tr.cause != 0x1B && tr.cause != 0x1C,
                   wdcnt := if u.expired.any (fun tr => tr.cause == 0x1B) then 0 else u.wdcnt,
                   fscnt := if u.expired.any (fun tr => tr.cause == 0x1C) then 0 else u.fscnt }
        else u) ∧
        (∃ x', t.team x.tk = some x' ∧ Moved x 4 f.h.s x' ∧ x' = { x.t with paths := x'.paths }) ∧
        (∀ k, k ≠ x.tk → k ≠ x.tk + tid → t.team k = s.team k))) ∧
    ((∀ u, s.team (x.tk + tid) = some u → u.live = false ∨ u.sup = true) →
      ∀ i, i = .halt f ∨ i = .resume f → ∃ t t', exec i s = .next t ∧ OnlyTeam s x.tk t t' ∧ PathMoved s x f.h.s t t')

/-- Maintenance parks the path, halt marks a team and resume clears the mark. -/
def Obligations.MaintenanceAndHaltComplete : Prop :=
  Sys2Proof.Machine.MaintenanceParksThePath ∧
  Sys2Proof.Machine.HaltMarksAndResumeClears

/-- tret in the supervisor's handler: INH is cleared, the issuing path is at EPC, every other path of the supervisor is
released, and nothing else changes; with INH clear it raises the illegal-instruction trap, subcode 1, and with a false
predicate its path moves on (15 R336). That its switch marker acts at EPC, where the path parks if results are outstanding,
is the model's reading of 02 R54 (log 25). -/
def Obligations.TretReturnsToEpc : Prop :=
  (∀ (h : Hdr) (s : State) (x : Issuer), s.issuer = some x → x.t.sup = true → x.uacts h = false →
    ∃ t t', exec (.tret h) s = .next t ∧ OnlyTeam s x.tk t t' ∧ PathMoved s x h.s t t') ∧
  (∀ (h : Hdr) (s : State) (x : Issuer), s.issuer = some x → x.t.sup = true → x.uacts h = true →
    ((s.part (pnumOf x.tk)).reg 0x01).getLsbD 0 = false →
    exec (.tret h) s = .next (takeTrap s x 0x01 1 0 0 16 0)) ∧
  ∀ (h : Hdr) (s : State) (x : Issuer), s.issuer = some x → x.t.sup = true → x.uacts h = true →
    ((s.part (pnumOf x.tk)).reg 0x01).getLsbD 0 = true →
    let p := s.part (pnumOf x.tk)
    ∃ t t', exec (.tret h) s = .next t ∧ t.team x.tk = some t' ∧ t = { s with teams := t.teams, parts := t.parts } ∧
      (∀ k, k ≠ x.tk → t.team k = s.team k) ∧
      t'.path x.pi = some { x.path with pc := pairOf (p.reg 0x04) (p.reg 0x05), mark := false,
                                        st := if h.s && x.t.outstanding x.pi x.path.mask then .parked else .ready } ∧
      (∀ j, j ≠ x.pi → t'.path j = (x.t.path j).map fun q => { q with hold := false }) ∧
      t' = { x.t with paths := t'.paths } ∧
      (∀ pn, pn ≠ pnumOf x.tk → t.part pn = s.part pn) ∧
      (∀ n, (t.part (pnumOf x.tk)).reg n = if n = 0x01 then 0 else p.reg n) ∧
      t.part (pnumOf x.tk) = { p with regs := (t.part (pnumOf x.tk)).regs }

/-- Every privileged instruction that a user team issues raises cause 0x02, whatever its predicate and operands, and has
none of its effect (15 R319, R338). -/
def Obligations.PrivilegedInstructionsTrapInUserMode : Prop :=
  ∀ (i : Instr) (h : Hdr) (s : State) (x : Issuer), privilegedHeader i = some h → s.issuer = some x →
    x.t.sup = false → exec i s = .next (takeTrap s x 0x02 0 0 0 16 0)

/-- A trap that the supervisor's own instruction raises, with INH clear and TVEC not zero, is taken in one step: EPC, ECAUSE,
EADDR and INH are written, the path goes on at TVEC with its mask, every other path of the supervisor is held, and nothing
else changes (15 R321). -/
def Sys2Proof.Machine.SupervisorTrapsEnterTheHandler : Prop :=
  ∀ (s : State) (x : Issuer) (cause sub : Nat) (addr : Dword) (mask : Mask) (fl : BitVec 8) (code : Word),
    s.issuer = some x → x.t.sup = true → cause < 64 → sub < 256 →
    let p := s.part (pnumOf x.tk)
    (p.reg 0x01).getLsbD 0 = false → pairOf (p.reg 0x02) (p.reg 0x03) ≠ 0 →
    ∃ t', let t := takeTrap s x cause sub addr mask fl code
      t.team x.tk = some t' ∧ t = { s with teams := t.teams, parts := t.parts } ∧
      (∀ k, k ≠ x.tk → t.team k = s.team k) ∧
      t'.path x.pi = some { x.path with pc := pairOf (p.reg 0x02) (p.reg 0x03), st := .ready, mark := false } ∧
      (∀ j, j ≠ x.pi → t'.path j = (x.t.path j).map fun q => { q with hold := true }) ∧
      t' = { x.t with paths := t'.paths } ∧
      (∀ pn, pn ≠ pnumOf x.tk → t.part pn = s.part pn) ∧
      (∀ n, (t.part (pnumOf x.tk)).reg n =
        if n = 0x01 then 1 else if n = 0x04 then loWord x.path.pc else if n = 0x05 then hiWord x.path.pc
        else if n = 0x06 then word (cause + 256 * sub) else if n = 0x07 then loWord addr
        else if n = 0x08 then hiWord addr else p.reg n) ∧
      t.part (pnumOf x.tk) = { p with regs := (t.part (pnumOf x.tk)).regs }

/-- A trap of the supervisor with INH set, or with TVEC zero, fails it: it is halted where it stands, SVSTAT has FAILED,
REASON 1 and the cause, SVPC the PC, and ALERT bit 4 and the partition's vector are raised (15 R321, 20 R404). -/
def Sys2Proof.Machine.SupervisorTrapsWithoutHandlerFail : Prop :=
  ∀ (s : State) (x : Issuer) (cause sub : Nat) (addr : Dword) (mask : Mask) (fl : BitVec 8) (code : Word),
    s.issuer = some x → x.t.sup = true → x.tk % 65536 = 0 → cause < 64 →
    let p := s.part (pnumOf x.tk)
    (p.reg 0x01).getLsbD 0 = true ∨ pairOf (p.reg 0x02) (p.reg 0x03) = 0 →
    (∀ e ∈ s.grids, e.1 / 65536 ≠ pnumOf x.tk) →
    let t := takeTrap s x cause sub addr mask fl code
    t.team x.tk = some { x.t with halted := true } ∧ (∀ k, k ≠ x.tk → t.team k = s.team k) ∧
      t.part (pnumOf x.tk) = { p with svFailed := true, svReason := 1, svCause := BitVec.ofNat 8 cause, svPc := x.path.pc } ∧
      (∀ pn, pn ≠ pnumOf x.tk → t.part pn = s.part pn) ∧ t.host = { s.host with alert := s.host.alert ||| 0x10 } ∧
      t.irqs = s.irqs ++ (if s.host.alerten.getLsbD 4 then [0] else []) ++ [1 + pnumOf x.tk] ∧
      t = { s with teams := t.teams, parts := t.parts, host := t.host, irqs := t.irqs }

/-- A trap of the supervisor enters its handler, and fails it where there is none to enter. -/
def Obligations.SupervisorTrapsEnterTheHandlerOrFail : Prop :=
  Sys2Proof.Machine.SupervisorTrapsEnterTheHandler ∧
  Sys2Proof.Machine.SupervisorTrapsWithoutHandlerFail

namespace Sys2Proof.Machine

/-! ### Traps of user teams (02 R44, 07 R177, 15 R324, 18 R379-R384) -/

/-- The causes after which a grid goes on: user traps, watchpoints, replayable faults and expired counts (18 R378). -/
def resumableCause (cause sub : Nat) : Bool :=
  [0x04, 0x07, 0x0A, 0x0B, 0x13, 0x14, 0x17, 0x1B, 0x1C].contains cause || (cause == 0x03 && sub != 2)

/-- The fields of a trap-queue record, each with its offset and size (18 R381). -/
structure IsRecord (bs : List Byte) (kind cause sub fl tid path pc addr gid team cohort code time : Nat) : Prop where
  length : bs.length = 64
  fields : ∀ e ∈ [(0, 1, kind), (1, 1, cause), (2, 1, sub), (3, 1, fl), (4, 2, tid), (6, 1, path), (8, 8, pc),
    (16, 8, addr), (24, 2, gid), (26, 2, team), (28, 4, cohort), (44, 4, code), (48, 8, time), (56, 8, 0)],
    fieldAt bs e.1 e.2.1 = e.2.2 % 256 ^ e.2.1

/-- A record joins those held back, with OVF set (15 R324). -/
def holdRecord (p : Part) (bs : List Byte) : Part :=
  { p with regs := dput 0 p.regs 0x0B (p.reg 0x0B ||| 0x80000000), heldRecs := p.heldRecs ++ [bs], heldStuck := false }

/-- The grid of a trap: marked failed by a cause that is not resumable, with its first error noted (18 R383). -/
def gridAfter (x : Issuer) (cause sub : Nat) (addr : Dword) (mask : Mask) (g : Grid) : Grid :=
  if resumableCause cause sub then g
  else
    { g with failed := true,
             noted := g.noted.orElse fun _ => some
               { cause := cause, cohort := x.t.cohort, pc := x.path.pc, addr := addr, team := x.t.team,
                 lane := (lanesOf x.t.width mask).headD 0xFFFF } }

/-- A precise trap has been taken by a user path: it is faulted at its instruction, the trap stands, its record is held back
for want of a queue, its switch marker kept for the time it goes on (log 25), and of the team, its siblings, other teams and memory nothing else has changed (18 R379, R381-R383). -/
structure Trapped (s : State) (x : Issuer) (cause sub : Nat) (addr : Dword) (mask : Mask) (fl code : Nat) (mark : Bool)
    (t : State) : Prop where
  rest : t = { s with teams := t.teams, parts := t.parts, grids := t.grids, nextTrap := s.nextTrap + 1 }
  team : ∃ t' tr, t.team x.tk = some t' ∧ t'.path x.pi = some { x.path with st := .faulted, mark := mark, trap := some tr } ∧
    tr = { cause := cause, sub := sub, pc := x.path.pc, addr := addr, path := x.pi, mask := mask,
           fl := BitVec.ofNat 8 fl, code := BitVec.ofNat 32 code, time := s.now x.t.die, seq := s.nextTrap } ∧
    (∀ j, j ≠ x.pi → t'.path j = x.t.path j) ∧ t' = { x.t with paths := t'.paths }
  others : ∀ k, k ≠ x.tk → t.team k = s.team k
  grids : ∀ g, t.grid g = if g = x.t.gid then (s.grid g).map (gridAfter x cause sub addr mask) else s.grid g
  parts : ∃ bs, IsRecord bs 1 cause sub fl (x.tk % 65536) x.pi x.path.pc.toNat addr.toNat x.t.gid x.t.team x.t.cohort
      code (s.now x.t.die).toNat ∧
    ∀ pn, t.part pn = if pn = pnumOf x.tk then holdRecord (s.part pn) bs else s.part pn

/-- The first check of a global address of n bytes that it fails: form, then alignment (07 R177). -/
def addressCause (n : Nat) (a : Dword) : Option Nat :=
  if a.toNat / 2 ^ 51 ≠ 0 ∧ a.toNat / 2 ^ 51 ≠ 2 ^ 13 - 1 then some 0x09 else if a.toNat % n ≠ 0 then some 0x08 else none

/-- The operations of a path's fetch of a work item: the mailbox bytes FLAG, INDEX, X, Y, Z, or FLAG 2 when no work is left
(02 R37). -/
def handOver (nx ny nz i : Nat) : List Nat :=
  if i < nx * ny * nz then [1, i, i % nx + 65536 * (i / nx % ny), i / (nx * ny)] else [2, 0, 0, 0]

end Sys2Proof.Machine

/-- A precise trap of a user team in a partition with a supervisor and no trap queue: the path is faulted at its
instruction, the trap stands with what its record says, and nothing of the instruction is performed (18 R379, R381, R383,
15 R324). -/
def Sys2Proof.Machine.UserTrapsFaultThePath : Prop :=
  ∀ (s : State) (x : Issuer) (cause sub : Nat) (addr : Dword) (mask : Mask) (fl : BitVec 8) (code : Word),
    s.issuer = some x → x.t.sup = false → cause < 64 → sub < 256 → x.pi < 64 → hasSupervisor s (pnumOf x.tk) = true →
    (s.part (pnumOf x.tk)).reg64 0x09 = 0 → (s.part (pnumOf x.tk)).heldRecs = [] →
    Trapped s x cause sub addr mask (fl ||| 1 ||| if resumableCause cause sub then 2 else 0).toNat code.toNat
      x.path.mark (takeTrap s x cause sub addr mask fl code)

/-- trap with a lane acting takes the user trap: cause 0x04, its imm8 as subcode and code, the acting lanes as mask,
precise and resumable; with no lane acting the path moves on (05 R142). That its switch marker is kept for the time the path
goes on is the model's reading of 02 R54 (log 25). brk of a debugged team with a lane acting holds its
path after the instruction and records the stop; any other brk is passed over (05 R143, 18 R388). -/
def Sys2Proof.Machine.TrapAndBrkComplete : Prop :=
  (∀ (f : CTI) (s : State) (x : Issuer), s.issuer = some x → x.t.sup = false → x.pi < 64 → x.lanes f.h ≠ [] →
    hasSupervisor s (pnumOf x.tk) = true → (s.part (pnumOf x.tk)).reg64 0x09 = 0 →
    (s.part (pnumOf x.tk)).heldRecs = [] →
    ∃ t, exec (.trap f) s = .next t ∧ Trapped s x 0x04 f.i.toNat 0 (x.acts f.h) 3 f.i.toNat f.h.s t) ∧
  (∀ (f : CTI) (s : State) (x : Issuer) (i : Instr), s.issuer = some x →
    ((i = .trap f ∧ x.lanes f.h = []) ∨ (i = .brk f ∧ (x.lanes f.h = [] ∨ x.t.debug = false))) →
    ∃ t t', exec i s = .next t ∧ OnlyTeam s x.tk t t' ∧ PathMoved s x f.h.s t t') ∧
  (∀ (f : CTI) (s : State) (x : Issuer), s.issuer = some x → x.t.debug = true → x.pi < 64 → x.lanes f.h ≠ [] →
    (s.part (pnumOf x.tk)).reg64 0x09 = 0 → (s.part (pnumOf x.tk)).heldRecs = [] →
    ((s.part (pnumOf x.tk)).reg 0x76).getLsbD 0 = false →
    ∃ t t' bs, exec (.brk f) s = .next t ∧ t.team x.tk = some t' ∧
      t'.path x.pi = some { x.after 4 f.h.s t' with hold := true } ∧ (∀ j, j ≠ x.pi → t'.path j = x.t.path j) ∧
      t' = { x.t with paths := t'.paths } ∧ (∀ k, k ≠ x.tk → t.team k = s.team k) ∧
      IsRecord bs 3 0 0 0 (x.tk % 65536) x.pi x.path.pc.toNat 0 x.t.gid x.t.team x.t.cohort f.i.toNat (s.now x.t.die).toNat ∧
      (∀ pn, t.part pn = if pn = pnumOf x.tk then holdRecord (s.part pn) bs else s.part pn) ∧
      t = { s with teams := t.teams, parts := t.parts, nextTrap := s.nextTrap + 1 })

/-- A precise trap faults its path and is recorded; trap takes one, and brk holds a debugged path. -/
def Obligations.UserTrapsAndTrapInstructions : Prop :=
  Sys2Proof.Machine.UserTrapsFaultThePath ∧
  Sys2Proof.Machine.TrapAndBrkComplete

/-- A global load or store of which some acting lane's address fails a check takes the trap of the lowest such lane: its
cause and address, with every lane that fails the same check as mask, and no lane performs anything (07 R177). The
instruction is well-formed: a reserved size code traps at decoding (03 R79, R86). -/
def Obligations.GlobalAddressChecksTrap : Prop :=
  ∀ (i : Instr) (f : M) (s : State) (x : Issuer) (before after : List Nat) (l c : Nat), i = .ldG f ∨ i = .stG f →
    WellFormed i = true → s.issuer = some x → x.lanes f.h = before ++ l :: after →
    let cause (k : Nat) := addressCause (sizeBytes f.sz.toNat) (globalAt x f k)
    (∀ k ∈ before, cause k = none) → cause l = some c →
    exec i s = .next (takeTrap s x c 0 (globalAt x f l) (maskOf (l :: after.filter fun k => cause k == some c)) 0 0)

/-- The next record of a trap queue whose lines are cached is delivered: its bytes stand at TQBASE + 64 (TAIL + 1), TAIL is
one more modulo the queue's size and TAILCOPY holds it, and no other byte and no other register changes (15 R324). -/
def Obligations.TrapQueueDelivery : Prop :=
  ∀ (s : State) (pn log tail head : Nat) (top : Word) (bs : List Byte), bs.length = 64 → s.waits = [] →
    4 ≤ log → log ≤ 12 → tail < 2 ^ log → head < 2 ^ log → (tail + 1) % 2 ^ log ≠ head → pn < 8 →
    let p := s.part pn
    let g := (supAgent s pn).gasid
    let base := p.reg64 0x09
    let rec_ := base + 64 * (tail + 1)
    p.reg 0x0B = word (head + 4096 * tail + 2 ^ 24 * log) ||| (top &&& 0xF0000000) → p.heldRecs = [] →
    base ≠ 0 → base % 4096 = 0 → base + 64 * 4097 < 2 ^ 51 →
    (klook s.lines (lineKey g base)).isSome = true → (klook s.lines (lineKey g rec_)).isSome = true →
    let t := tqDeliver s pn bs
    (∀ k, k < 64 → t.cachedByte g (rec_ + k) = (bs[k]?).map fun b => [b]) ∧
      (∀ k, k < 4 → t.cachedByte g (base + k) = some [BitVec.ofNat 8 ((tail + 1) % 2 ^ log / 256 ^ k)]) ∧
      (∀ h va, va < 2 ^ 51 → ¬(h = g ∧ ((base ≤ va ∧ va < base + 4) ∨ (rec_ ≤ va ∧ va < rec_ + 64))) →
        t.cachedByte h va = s.cachedByte h va) ∧
      t = { s with lines := t.lines, parts := t.parts, dieCaches := t.dieCaches } ∧ (∀ q, q ≠ pn → t.part q = s.part q) ∧
      (∀ n, (t.part pn).reg n = if n = 0x0B then
          word (head + 4096 * ((tail + 1) % 2 ^ log) + 2 ^ 24 * log) ||| (top &&& 0xF0000000) else p.reg n)

/-- launch with an address and a depth that pass parks the path until the block is read; fetchw hands a FETCH grid's next
work item to the mailbox and takes a SPLIT team to its next segment, and has no effect otherwise; either moves on with no
lane acting (07 R195, R196, 02 R37, R38). -/
def Obligations.LaunchAndFetchwComplete : Prop :=
  (∀ (f : SA) (s : State) (x : Issuer) (lane : Nat), s.issuer = some x → x.elected f.h = some lane →
    canonicalVa (x.t.zr f.a.toNat) = true → (x.t.zr f.a.toNat).toNat % 64 = 0 → teamDepth s x.t < 10 →
    ∃ t, exec (.launch f) s = .next t ∧ ParkedAt s x (.launch (x.t.zr f.a.toNat) lane s.nextTrap) f.h.s t) ∧
  (∀ (h : Hdr) (f : SA) (i : Instr) (s : State) (x : Issuer), s.issuer = some x → x.lanes h = [] →
    i = .fetchw h ∨ (i = .launch f ∧ h = f.h) →
    ∃ t t', exec i s = .next t ∧ OnlyTeam s x.tk t t' ∧ PathMoved s x h.s t t') ∧
  (∀ (h : Hdr) (s : State) (x : Issuer) (g : Grid), s.issuer = some x → x.lanes h ≠ [] → x.t.sup = false →
    s.grid x.t.gid = some g → g.lpb.mode = 0 ∨ g.lpb.mode = 1 →
    ∃ t t', exec (.fetchw h) s = .next t ∧ OnlyTeam s x.tk t t' ∧ PathMoved s x h.s t t') ∧
  (∀ (h : Hdr) (s : State) (x : Issuer) (g : Grid) (nx ny nz mbox persist : Nat), s.issuer = some x → x.lanes h ≠ [] →
    x.t.sup = false → s.grid x.t.gid = some g → g.lpb.mode = 2 → g.lpb.modef = [nx, ny, nz, mbox, persist] →
    1 ≤ nx → nx ≤ 65536 → 1 ≤ ny → ny ≤ 65536 → 1 ≤ nz → nz ≤ 65536 → nx * ny * nz ≤ 2 ^ 32 →
    mbox + 16 ≤ x.t.scratch →
    ∃ t t' bs, exec (.fetchw h) s = .next t ∧ PathMoved s x h.s t t' ∧ t.mails = s.mails ++ [(x.tk, bs)] ∧
      bs.length = 16 ∧ (List.range 4).map (fun k => fieldAt bs (4 * k) 4) = handOver nx ny nz g.work ∧
      (∀ k, t.grid k = if k = x.t.gid then some { g with work := g.work + 1 } else s.grid k) ∧
      t = { s with teams := t.teams, grids := t.grids, mails := t.mails }) ∧
  (∀ (h : Hdr) (s : State) (x : Issuer) (g : Grid) (tiles k persist : Nat), s.issuer = some x → x.lanes h ≠ [] →
    x.t.sup = false → s.grid x.t.gid = some g → g.lpb.mode = 3 → g.lpb.modef = [tiles, k, persist] → 1 ≤ k →
    ∃ t t', exec (.fetchw h) s = .next t ∧ OnlyTeam s x.tk t t' ∧ Moved x 4 h.s t' ∧
      let a := x.t.segNext
      let stop := min x.t.segLast ((a / k + 1) * k)
      t' = if a < x.t.segLast then
          { x.t with paths := t'.paths, tile := word (a / k), klo := word (a % k), khi := word (stop - a / k * k),
                     fixup := word ((if a % k ≠ 0 then 1 else 0) + if stop - a / k * k < k then 2 else 0), segNext := stop }
        else { x.t with paths := t'.paths, tile := 0xFFFFFFFF, klo := 0, khi := 0, fixup := 0 })

namespace Sys2Proof.Machine

/-! ### Results, waits and fills (02 R53-R57, 07 R178, R189, R193, 16 R350, 17 R370, 18 R388) -/

/-- The next state t differs from s in the record of one team at most, which is t' in it. -/
structure TeamIs (s : State) (tk : Nat) (t : State) (t' : Team) : Prop where
  rest : t = { s with teams := t.teams }
  here : t.team tk = some t'
  others : ∀ k, k ≠ tk → t.team k = s.team k

/-- A path that waited has moved past its 4-byte instruction; the team's other paths are as before (02 R54, R57). -/
def Went (u : Team) (pi : Nat) (u' : Team) : Prop :=
  ∃ p, u.path pi = some p ∧
    u'.path pi = some { p with pc := p.pc + 4, mark := false, st := pathAfter p.mark u' pi p } ∧
    ∀ j, j ≠ pi → u'.path j = u.path j

/-- No team waits as a whole, at a barrier, at regroup or by waitc. -/
def noTeamWaits (s : State) : Prop := ∀ k u, s.team k = some u → u.wait = .none

/-- Every lane write of a list names a lane of the architecture. -/
def lanesInRange (ws : List RegWrite) : Prop :=
  ∀ w ∈ ws, (∀ r l y, w = .v r l y → l < 1024) ∧ ∀ k l y, w = .p k l y → l < 1024

/-- The writes of a returning result that are made: all, or those of one lane. -/
def returned (lane : Option Nat) : RegWrite → Bool
  | .v _ l _ | .p _ l _ => lane == none || lane == some l
  | .s _ _ | .q _ _ => lane == none

/-- The accesses that hold their path at the instruction: a launch's block, waitc's read and a fetch. -/
def pathWaitsAt : Access → Bool
  | .launch | .waitc _ _ _ | .fetch => true
  | _ => false

/-- Every access that the team issued before a point has been performed, but for engine accesses and list operations, which
a fence does not order (07 R189, 08 R209, 12 R305). -/
def Team.finishedTo (u : Team) (upTo : Nat) : Prop := ∀ r ∈ u.replay, r.access.engine = false → upTo ≤ r.issued

/-- A path of the team counts at waitn. -/
def Team.counts (u : Team) : Prop := ∃ j p a b, u.path j = some p ∧ p.st = .counting a b

/-- The copy of a cached line that a maintenance operation leaves: none after cflush (17 R370). -/
def afterMaintenance (s : State) (key : Nat) (remove : Bool) (k : Nat) : Option Line :=
  if remove ∧ k = key then none else klook s.lines k

end Sys2Proof.Machine

/-- LONG_RESULT_RETURN delivers a result in flight, whole or for one lane: its writes stand, its flags are in FST, and paths
parked at a switch marker with nothing outstanding are ready (02 R53, R54, 04 R115). That the flags come with the first return
and not earlier is the model's choice (log 44). -/
def Obligations.LongResultsReturn : Prop :=
  ∀ (s : State) (tk k : Nat) (lane : Option Nat) (u : Team) (r : LongRes), s.team tk = some u → u.long[k]? = some r →
    noTeamWaits s → lanesInRange r.writes →
    let made := r.writes.filter (returned lane)
    let rest := r.writes.filter fun w => !returned lane w
    ∃ t t', exec (.longResultReturn tk k lane) s = .next t ∧ TeamIs s tk t t' ∧ Written u made t' ∧
      t'.fst = u.fst ||| (r.flags &&& 0x7F) ∧
      t'.long = (if rest = [] then u.long.eraseIdx k else u.long.set k { r with writes := rest }) ∧
      (∀ j, t'.path j = (u.path j).map fun p =>
        if p.st = .parked ∧ t'.outstanding j p.mask = false then { p with st := .ready } else p) ∧
      t' = { u with v := t'.v, p := t'.p, s := t'.s, q := t'.q, fst := t'.fst, long := t'.long, paths := t'.paths }

/-- The events that end waits: a fault report marks its entry and stops a path that waits at the access; a fence before which
no access of its team is unfinished lets its path go on, an sc fence with the next ticket; waitc whose location now satisfies
it lets its path go on; an operation with nothing outstanding leaves its counter, and counting paths go on; cflush and cwb of
a line with no dirty byte let their path go on, cflush without the line in any cache; a wait that acquires empties the team's
part of the scale cache (01 R12, 02 R56, R57, 07 R178, R189, R193, 08 R217, 09 R237, 10 R270, 17 R370). -/
def Obligations.WaitsEnd : Prop :=
  (∀ (s : State) (tk k : Nat) (u : Team) (r : Replay), s.team tk = some u → u.replay[k]? = some r →
    ∃ t t', exec (.faultReportArrival tk k) s = .next t ∧ TeamIs s tk t t' ∧
      t'.replay = u.replay.set k { r with reported := true } ∧
      (∀ j, t'.path j = (u.path j).map fun p => if pathWaitsAt r.access ∧ j = r.path then { p with st := .faulted } else p) ∧
      t' = { u with replay := t'.replay, paths := t'.paths }) ∧
  (∀ (s : State) (tk pi scope ord upTo : Nat) (u : Team) (p : Path), s.team tk = some u → u.path pi = some p →
    p.st = .waiting (.fence scope ord upTo) → u.finishedTo upTo →
    ∃ t t', exec (.fenceComplete tk pi) s = .next t ∧
      TeamIs { s with ticket := if ord = 4 then s.ticket + 1 else s.ticket } tk t t' ∧ Went u pi t' ∧
      t' = { u with paths := t'.paths, scales := if ord = 1 ∨ ord = 3 ∨ ord = 4 then [] else u.scales }) ∧
  (∀ (s : State) (tk : Nat) (u : Team) (o : AsyncOp), s.team tk = some u → u.ops = [o] → o.done = false →
    (∀ r ∈ u.long, r.op ≠ some o.id) → (∀ r ∈ u.replay, r.op ≠ some o.id) → (∀ c ∈ s.cmds, c.op ≠ o.id) →
    noTeamWaits s → (u.paths.map Prod.fst).Nodup →
    ∃ t t', exec (.asyncCompletion tk o.apath) s = .next t ∧ TeamIs { s with ghosts := t.ghosts } tk t t' ∧ t'.ops = [] ∧
      (∀ g, g ∈ t.ghosts ↔ g ∈ s.ghosts ∧ ¬(g.tk = tk ∧ g.op = o.id) ∧ g.reused ≠ some (tk, o.id)) ∧
      (∀ j p, u.path j = some p → t'.path j = some (match p.st with
        | .counting _ _ => { p with pc := p.pc + 4, mark := false, st := pathAfter p.mark t' j p }
        | _ => p)) ∧
      (u.counts → t'.scales = []) ∧ (¬u.counts → t'.scales = u.scales) ∧
      t' = { u with ops := [], paths := t'.paths, scales := t'.scales }) ∧
  (∀ (s : State) (tk pi cmp lane : Nat) (addr : Dword) (e m v : Word) (u : Team) (p : Path), s.team tk = some u →
    u.path pi = some p → u.wait = .waitc pi addr cmp e m lane true → cmp < 6 → u.halted = false → onCore s u = true →
    (∀ r ∈ u.replay, r.access ≠ .waitc cmp e m) → canonicalVa addr = true → s.cachedWord (teamAgent s tk u).gasid addr.toNat = some v →
    waitHolds cmp v e m = true →
    ∃ t t', exec (.waitcReread tk) s = .next t ∧ TeamIs { s with badReads := t.badReads, dieCaches := t.dieCaches } tk t t' ∧ Went u pi t' ∧
      (s.sound (teamAgent s tk u).gasid addr.toNat → t.badReads = s.badReads) ∧
      t' = { u with wait := .none, paths := t'.paths, scales := [] }) ∧
  (∀ (s : State) (tk pi upTo : Nat) (va : Dword) (remove : Bool) (u : Team) (p : Path), s.team tk = some u →
    u.path pi = some p → p.st = .waiting (.maintenance va remove upTo) → u.finishedTo upTo →
    let key := lineKey (teamAgent s tk u).gasid va.toNat
    (∀ l, klook s.lines key = some l → l.dirty = 0) →
    ∃ t t', exec (.cacheMaintenanceComplete tk pi) s = .next t ∧ Went u pi t' ∧ t' = { u with paths := t'.paths } ∧
      TeamIs { s with lines := t.lines, copies := t.copies, dieCaches := t.dieCaches } tk t t' ∧
      (∀ e, e ∈ t.copies ↔ e ∈ s.copies ∧ ¬(remove = true ∧ e.2 = key)) ∧
      t.dieCaches.seen = s.dieCaches.seen ∧
      (∀ e, e ∈ t.dieCaches.lines ↔ e ∈ s.dieCaches.lines ∧ ¬(remove = true ∧ e.key = key)) ∧
      ∀ k, klook t.lines k = afterMaintenance s key remove k)

/-- BREAKPOINT_STOP of a debugged team's only path at an enabled breakpoint's PC under its ASID, SVASID for the supervisor:
the path is held instead of issuing, that
breakpoint does not stop its next attempt, and the stop is recorded, with no queue held back (18 R388). -/
def Sys2Proof.Machine.BreakpointsHoldThePath : Prop :=
  ∀ (s : State) (tk n asid : Nat) (u : Team) (p : Path), s.team tk = some u → u.paths = [(0, p)] → u.debug = true →
    u.live = true → u.halted = false → u.wait = .none → onCore s u = true → u.replay = [] → p.st = .ready →
    p.hold = false → p.skipBp = 0 → n < 2 → asid < 8192 →
    let r := s.part (pnumOf tk)
    asid = (if u.sup then (r.reg 0x25).toNat % 8192 else u.asid) →
    r.reg (0x70 + 3 * n) = word (1 + 65536 * asid) → r.reg64 (0x6E + 3 * n) = p.pc.toNat →
    (n = 1 → (r.reg 0x70).getLsbD 0 = false) → r.reg64 0x09 = 0 → r.heldRecs = [] → (r.reg 0x76).getLsbD 0 = false →
    ∃ t t' bs, exec (.breakpointStop tk) s = .next t ∧
      TeamIs { s with parts := t.parts, nextTrap := s.nextTrap + 1 } tk t t' ∧
      t'.path 0 = some { p with hold := true, skipBp := BitVec.twoPow 2 n } ∧ t' = { u with paths := t'.paths } ∧
      IsRecord bs 3 0 0 0 (tk % 65536) 0 p.pc.toNat 0 u.gid u.team u.cohort (n + 256) (s.now u.die).toNat ∧
      (∀ pn, t.part pn = if pn = pnumOf tk then holdRecord (s.part pn) bs else s.part pn)

/-- ICACHE_FILL puts a cached line, of the address space under which it was asked for (17 R357), into the asking core's
instruction cache, which holds 512 lines and gives one of the others
up when it is full, of free choice (log 4); a line with an uncorrectable error joins it never, and is noted as read by the
team unless it was asked for ahead (log 46). FETCH_MAILBOX_WRITE puts the 16 bytes of a hand-over at MBOX of the team's
scratchpad, wherever the state of its cohort stands. CURATOR_LANE_RETRY, when every waiting lane performs, puts their results
in flight and ends the waiting command (16 R350, 02 R37, 10 R267, 20 R421). -/
def Sys2Proof.Machine.FillsMailsAndRetriesArrive : Prop :=
  (∀ (s : State) (k : Nat) (f : Fill) (u : Team) (l : Line), s.fills[k]? = some f → s.team f.tk = some u →
    canonicalVa f.va = true → klook s.lines (lineKey (pnumOf f.tk * 8192 + f.gasid % 8192) f.va.toNat) = some l →
    let base := f.va.toNat / 128 * 128
    let key := f.core * 2 ^ 61 + lineKey f.gasid base
    let mine := (s.icache.map Prod.fst).filter fun e => e / 2 ^ 61 == f.core && e != key
    ∃ t, exec (.icacheFill k) s = .next t ∧
      t = { s with fills := s.fills.eraseIdx k, icache := t.icache, fresh := t.fresh, dieCaches := t.dieCaches,
                   badReads := s.badReads ++ if l.bad = 0 ∨ f.ahead = true then [] else [(f.tk, dword base)] } ∧
      (l.bad ≠ 0 → t.icache = s.icache ∧ t.fresh = s.fresh) ∧
      (l.bad = 0 → mine.length < 512 →
        t.fresh = s.fresh ∧ ∀ j, klook t.icache j = if j = key then some l.data else klook s.icache j) ∧
      (l.bad = 0 → 512 ≤ mine.length →
        ∃ out ∈ mine, ∀ j, klook t.icache j =
          if j = key then some l.data else if j = out then none else klook s.icache j)) ∧
  (∀ (s : State) (k tk : Nat) (bs : List Byte) (u : Team) (g : Grid), s.mails[k]? = some (tk, bs) → bs.length = 16 →
    s.team tk = some u → s.grid u.gid = some g → s.waits = [] →
    ∃ t t', exec (.fetchMailboxWrite k) s = .next t ∧ TeamIs { s with mails := s.mails.eraseIdx k } tk t t' ∧
      cellsRead t'.scr (g.lpb.mf 3) 16 = bs ∧
      (∀ a, a < g.lpb.mf 3 ∨ g.lpb.mf 3 + 16 ≤ a → cellsRead t'.scr a 1 = cellsRead u.scr a 1) ∧
      t' = { u with scr := t'.scr }) ∧
  (∀ (s s0 : State) (tk k : Nat) (c : Cmd) (u u' : Team) (tree : Tree), s.cmd k = some c → s.team tk = some u → c.tk = tk →
    c.stop = none → u.live = true → c.kind = kindVol + 6 ∨ c.kind = kindVol + 7 → c.lanes ≠ [] →
    let a := cmdAgent s c u
    readTree s a (BitVec.ofNat 64 (c.args.getD 0 0)) u.vregs 0 = .ok (s0, .ok tree) →
    let p := performWith { s0 with cmds := s0.cmds.filter fun d => d.id != c.id }
      (fun s r => curatorLane s a tree (c.kind - kindVol) (c.args.getD 1 0) c.tk c.op r) c.lanes
    p.failed = [] → p.s.team tk = some u' → noTeamWaits p.s →
    ∃ t, exec (.curatorLaneRetry tk k) s = .next t ∧ TeamIs p.s tk t (u'.addLong (some c.op) [] p.ws 0))

/-- A request that passes the cache of its die for a line homed there changes nothing but the die caches, and one for a line
homed elsewhere not even those. A line found there stays with all others, whatever the shares; one that is filled in takes one of
the partition's ways, of its class's share, of the common pool or of a class idle at the slice; and the only line that can leave
is one of the same set in the way that the new line takes (01 R15, 16 R352, R353). Which set a line belongs to, and which of the
24 ways a half owns, are the model's choice (log 8). -/
def Sys2Proof.Machine.DieFillsStayInTheirWays : Prop :=
  ∀ (s : State) (a : Agent) (key home : Nat),
    let t := passDie s a key home
    let old := s.dieCaches.lines
    let new := t.dieCaches.lines
    t = { s with dieCaches := t.dieCaches } ∧ (home / 2 ≠ a.die → t = s) ∧
    ((∃ l ∈ old, l.die = a.die ∧ l.key = key) → ∀ m, m ∈ new ↔ m ∈ old) ∧
    (∀ m ∈ new, m ∉ old → m.die = a.die ∧ m.key = key ∧ m.cls = s.classOf a ∧ m.way ∈ fillWays s a.die m.cls key ∧
      m.way ∈ (s.part (key / 2 ^ 58)).ways a.die) ∧
    ∀ m ∈ old, m ∉ new → m.inSet a.die key = true ∧ ∃ n ∈ new, n ∉ old ∧ n.way = m.way

/-- Breakpoint stops, cache fills, hand-overs and Curator retries, and what a request brings into the cache of its die. -/
def Obligations.StopsFillsAndMailsArrive : Prop :=
  Sys2Proof.Machine.BreakpointsHoldThePath ∧
  Sys2Proof.Machine.FillsMailsAndRetriesArrive ∧
  Sys2Proof.Machine.DieFillsStayInTheirWays

/-- LAUNCH_BLOCK_READ of a DENSE child whose block is valid and cached: a grid with the lowest free number starts with the
block's fields, one level below its parent, on every die of the partition; PARENT and DEPTH stand in the block, and the
path goes on (02 R28, R31, R35, 07 R196, 15 R320). -/
def Obligations.LaunchStartsTheChild : Prop :=
  ∀ (s : State) (tk pi n lane upTo : Nat) (addr : Dword) (u : Team) (p : Path) (pg : Grid) (bs : List Byte) (d : DieCaches),
    s.team tk = some u → u.sup = false → u.halted = false → u.finishedTo upTo →
    (∀ r ∈ u.replay, r.access = .launch → r.path ≠ pi) → u.path pi = some p → p.st = .waiting (.launch addr lane upTo) → s.grid u.gid = some pg → canonicalVa addr = true → addr.toNat < 2 ^ 51 →
    addr.toNat % 64 = 0 → s.waits = [] → unplacedChildren s (pnumOf tk) < 1024 →
    let a := engineAgent s tk u
    (∀ j, j < 4 → (klook s.lines (lineKey a.gasid (addr.toNat + 64 * j))).isSome = true) →
    vread s a addr.toNat 256 = .ok ({ s with dieCaches := d }, bs) → (lpbOf bs).valid = true → (lpbOf bs).mode = 0 →
    1 ≤ n → n < 65536 → s.grid (pnumOf tk * 65536 + n) = none →
    (∀ k, 1 ≤ k → k < n → (s.grid (pnumOf tk * 65536 + k)).isSome = true) →
    let l := lpbOf bs
    let dies := (List.range 4).filter fun d =>
      (s.part (pnumOf tk)).halves.getLsbD (2 * d) || (s.part (pnumOf tk)).halves.getLsbD (2 * d + 1)
    ∃ t t', exec (.launchBlockRead tk pi) s = .next t ∧ t.team tk = some t' ∧ Went u pi t' ∧ t' = { u with paths := t'.paths } ∧
      (∀ k, k ≠ tk → t.team k = s.team k) ∧
      (∀ k, t.grid k = if k = pnumOf tk * 65536 + n then some
          { addr := addr, lpb := l, depth := pg.depth + 1, parent := some u.gid, cls := pg.cls, asid := u.asid,
            n := l.mf 0 * l.mf 1 * l.mf 2, leafSet := [], work := 0, retry := 0, noted := none, errCount := 0,
            failed := false, error := none, claiming := dies, cleared := [], unplaced := [],
            halted := pg.halted, placed := false }
        else s.grid k) ∧
      (∀ j, j < 8 → t.cachedByte a.gasid (addr.toNat + 64 + j) = some [BitVec.ofNat 8 (pg.addr.toNat / 256 ^ j)]) ∧
      t.cachedByte a.gasid (addr.toNat + 26) = some [BitVec.ofNat 8 (pg.depth + 1)] ∧
      t = { s with teams := t.teams, grids := t.grids, lines := t.lines, parts := t.parts, dieCaches := t.dieCaches } ∧
      ∀ pn, t.part pn = if pn = pnumOf tk then { s.part pn with procs := (t.part pn).procs } else s.part pn

namespace Sys2Proof.Machine

/-! ### Engine events (02 R56, 04 R115, 07 R199-R204, 09 R235-R247, 10 R272-R274, 11 R283-R292, 12 R310, 16 R347, 20 R414) -/

/-- The team of a command that may proceed: not stopped, its team live and not halted but for a command without a progress
point, which a halt waits for, and the accesses that the team issued before the command performed (15 R325, 08 R222). -/
def mayProceed (s : State) (id : Nat) : Option (Cmd × Team) :=
  (s.cmds.find? fun c => c.id == id).bind fun c => (s.team c.tk).bind fun u =>
    if c.stop = none ∧ u.live = true ∧ (u.halted = false ∨ c.isWhole = true) ∧ u.performedTo c.upTo = true then some (c, u)
    else none

/-- What is left after a run that is done: the state and the flags. -/
def EngineRun.finished : EngineRun → Option (State × Word)
  | .done s f => some (s, f)
  | _ => none

/-- A command whose event completes it: the command, the state with its effect performed, its register writes and its
flags. -/
structure Ending where
  c : Cmd
  s : State
  ws : List RegWrite
  flags : Word

/-- The ending that a run gives. -/
def endingOf (c : Cmd) (r : EngineRun) : Option Ending := r.finished.map fun e => ⟨c, e.1, [], e.2⟩

/-- The state with one team replaced by f of it. -/
def withTeam (s : State) (tk : Nat) (f : Team → Team) : State := { s with teams := kmod s.teams tk f }

/-- The completion events: the instruction whose turn it is, a started task, a copy or halo command, the command that the
array set performs, an acknowledged send, and a leaf copy or rasterisation that is the first of its counter. Accumulator
commands without an image are spelt out: mzero clears its tile, mrd reads one element, mscl sets a scale base and control. -/
def endingRow (s : State) (i : Instr) : Option Ending :=
  match i with
  | .copyCommandComplete id => (mayProceed s id).bind fun e =>
      if e.1.kind = kindCp ∧ e.1.started = false ∧ (copyOf e.1.bytes).kind ≠ 4 then endingOf e.1 (copyRun s e.1 e.2) else none
  | .mmaStepComplete id => (mayProceed s id).bind fun e =>
      if e.1.kind = kindMma ∧ e.1.token = true ∧ matrixTurn s e.1 e.2 = true then endingOf e.1 (stepRun s e.1 e.2 e.1.step) else none
  | .accumulatorCommandComplete id => (mayProceed s id).bind fun e =>
      let c := e.1
      if matrixTurn s c e.2 = false ∨ c.renewed = false then none
      else if c.kind = kindAcc then
        some ⟨c, withTeam s c.tk fun u => { u with tiles := u.tiles.filter fun k => k.1 / 16384 != c.args.getD 0 0 }, [], 0⟩
      else if c.kind = kindAcc + 7 then
        let x := dget 0 e.2.tiles (16384 * c.args.getD 0 0 + 128 * c.args.getD 1 0 + c.args.getD 2 0)
        let r := outElement 0 c.fpm x
        some ⟨c, s, [.s (c.args.getD 3 0) (word r.1)], r.2⟩
      else if c.kind = kindMscl then
        some ⟨c, withTeam s c.tk fun u =>
          if c.sub = 0 then { u with scaleBase0 := dword (c.args.getD 0 0), scaleCtl0 := word (c.args.getD 1 0) }
          else { u with scaleBase1 := dword (c.args.getD 0 0), scaleCtl1 := word (c.args.getD 1 0) }, [], 0⟩
      else if kindAcc < c.kind ∧ c.kind < kindAcc + 7 then endingOf c (imageRun s c e.2 c.image)
      else none
  | .tileTaskComplete id => (mayProceed s id).bind fun e =>
      let c := e.1
      if c.kind ≠ kindTtq ∨ c.started = false ∨ c.token = false then none
      else if byteAt c.bytes 12 = 0 then endingOf c (stepRun s c e.2 c.step)
      else if byteAt c.bytes 12 = 1 then
        some ⟨c, withTeam s c.tk fun u => { u with tiles := u.tiles.filter fun k => k.1 / 16384 != byteAt c.bytes 13 % 4 },
          [], 0⟩
      else endingOf c (imageRun s c e.2 c.image)
  | .haloCommandComplete id => (mayProceed s id).bind fun e =>
      if e.1.kind = kindVol + 8 then endingOf e.1 (haloRun s e.1 e.2) else none
  | .rdmaAcknowledgement id => (mayProceed s id).bind fun e =>
      if (klook s.sends id).isSome ∧ e.1.started = true then some ⟨e.1, { s with sends := kdel s.sends id }, [], e.1.flags⟩ else none
  | .peuriCommandComplete pn => (peuriRunning s pn).bind fun c => (mayProceed s c.id).bind fun e =>
      if e.1 = c ∧ pnumOf c.tk = pn then
        (peuriRun s c e.2).finished.map fun r =>
          ⟨c, r.1.modPeuri pn fun q => { q with queue := q.queue.filter fun i => i != c.id }, [], r.2⟩
      else none
  | .asyncCompletion tk a => (s.team tk).bind fun u => (u.ops.find? fun o => o.apath == a).bind fun o =>
      (s.cmds.find? fun c => c.op == o.id).bind fun c => (mayProceed s c.id).bind fun e =>
        if e.1 = c ∧ c.tk = tk ∧ o.done = false ∧ u.opSettled o.id = true then
          if c.kind = kindVol + 2 then endingOf c (leafCopyRun s c e.2)
          else if c.kind = kindLayer + 3 then endingOf c (rastRun s c e.2) else none
        else none
  | _ => none

/-- The engine's command has completed: it is gone, its writes and flags stand in the team, its operation has left its
counter, and its token is back; the rest is as the performed effect left it. -/
structure CommandDone (e : Ending) (u : Team) (t : State) (t' : Team) : Prop where
  cmds : t.cmds = e.s.cmds.filter fun d => d.id != e.c.id
  here : t.team e.c.tk = some t'
  others : ∀ k, k ≠ e.c.tk → t.team k = e.s.team k
  regs : Written u e.ws t'
  fst : t'.fst = u.fst ||| (e.flags &&& 0x7F)
  ops : t'.ops = u.ops.tail
  team : t' = { u with s := t'.s, fst := t'.fst, ops := t'.ops }
  parts : ∀ pn, t.part pn =
    if pn = pnumOf e.c.tk ∧ e.c.token = true then { e.s.part pn with tokenHeld := (e.s.part pn).tokenHeld - 1 } else e.s.part pn
  rest : t = { e.s with teams := t.teams, parts := t.parts, cmds := t.cmds }

/-- The fault events with the run that they perform. -/
def faultRow (s : State) (i : Instr) : Option (Cmd × Bool × EngineRun) :=
  match i with
  | .copyFaultStop id => (mayProceed s id).bind fun e =>
      if e.1.kind = kindCp ∧ e.1.started = false then some (e.1, false, copyRun s e.1 e.2) else none
  | .mmaStepFaultStop id => (mayProceed s id).bind fun e =>
      if e.1.token = true ∧ ((e.1.kind = kindMma ∧ matrixTurn s e.1 e.2 = true)
          ∨ (e.1.kind = kindTtq ∧ e.1.started = true ∧ byteAt e.1.bytes 12 = 0)) then
        some (e.1, true, stepRun s e.1 e.2 e.1.step)
      else none
  | .accumulatorFaultStop id => (mayProceed s id).bind fun e =>
      if (kindAcc < e.1.kind ∧ e.1.kind < kindAcc + 7 ∧ matrixTurn s e.1 e.2 = true ∧ e.1.renewed = true)
          ∨ (e.1.kind = kindTtq ∧ e.1.started = true ∧ 2 ≤ byteAt e.1.bytes 12) then
        some (e.1, true, imageRun s e.1 e.2 e.1.image)
      else none
  | .haloFaultStop id => (mayProceed s id).bind fun e =>
      if e.1.kind = kindVol + 8 then some (e.1, false, haloRun s e.1 e.2) else none
  | .peuriLoadFault pn => (peuriRunning s pn).bind fun c => (mayProceed s c.id).bind fun e =>
      if e.1 = c then some (c, false, peuriRun s c e.2) else none
  | _ => none

end Sys2Proof.Machine

/-- An engine command that its event performs to the end completes: it leaves the engine, its register writes and flags stand,
its operation leaves its counter and its token goes back, while no team waits at a barrier or regroup and no path counts
(02 R56, 04 R115, 16 R347). -/
def Sys2Proof.Machine.PerformedCommandsLeave : Prop :=
  ∀ (i : Instr) (e : Ending) (s : State) (u : Team) (o : AsyncOp), endingRow s i = some e → e.s.team e.c.tk = some u →
    u.ops.head? = some o → o.id = e.c.op → (∀ q ∈ u.ops, q.done = false) → (u.ops.map AsyncOp.id).Nodup →
    (∀ j p, u.path j = some p → ∀ a b, p.st ≠ .counting a b) → (u.paths.map Prod.fst).Nodup → noTeamWaits e.s →
    ∃ t t', exec i s = .next t ∧ CommandDone e u t t'

/-- A plain copy of rows that lie one after another in the own scratchpad moves their bytes: every byte of the destination
is the source's byte, and every other byte of the scratchpad is as before (07 R198, R199). -/
def Sys2Proof.Machine.PlainCopyMovesItsBytes : Prop :=
  ∀ (s : State) (c : Cmd) (u : Team), mayProceed s c.id = some (c, u) → c.kind = kindCp → c.started = false → c.prog = 0 →
    s.waits = [] →
    let k := copyOf c.bytes
    let row := k.elems * fmtBits k.sf / 8
    k.kind = 0 → k.ssp = 1 → k.dsp = 1 → k.conv = 0 → k.df = k.sf → 1 ≤ k.elems → k.elems * fmtBits k.sf % 8 = 0 →
    k.sstr = row → k.dstr = row → (k.src + k.rows * row ≤ k.dst ∨ k.dst + k.rows * row ≤ k.src) →
    ∃ t u', exec (.copyCommandComplete c.id) s = .next t ∧ t.team c.tk = some u' ∧
      (∀ j, j < k.rows * row → dget 0 u'.scr (k.dst + j) = dget 0 u.scr (k.src + j)) ∧
      ∀ b, ¬(k.dst ≤ b ∧ b < k.dst + k.rows * row) → dget 0 u'.scr b = dget 0 u.scr b

/-- The signed byte of A in row m and column k, INT8: bit 7 - i is bit k of row m in plane i of its group of 32 columns
(09 R229, R230). -/
def Sys2Proof.Machine.int8A (scr : List Host.Cell) (off m k : Nat) : Int :=
  (BitVec.ofNat 8 ((List.range 8).map fun i =>
    if (dget 0 scr (off + 4096 * (k / 32) + 512 * i + 4 * m + k % 32 / 8)).getLsbD (k % 8) then 2 ^ (7 - i) else 0).sum).toInt

/-- The signed byte of B in row k and column n, INT8 (09 R231). -/
def Sys2Proof.Machine.int8B (scr : List Host.Cell) (off k n : Nat) : Int := (dget 0 scr (off + 128 * k + n)).toInt

/-- An unscaled INT8 step adds to each element of its tile the product of its row of A and its column of B, exactly, in units
of 2^-64 (04 R118-R122, 09 R226-R231, R235). -/
def Sys2Proof.Machine.Int8StepAccumulatesProducts : Prop :=
  ∀ (s : State) (c : Cmd) (u : Team) (nb m n : Nat), mayProceed s c.id = some (c, u) → c.kind = kindMma → c.token = true →
    matrixTurn s c u = true → c.prog = 0 →
    let p := c.step
    p.fmt.toNat % 2 ^ 10 = 7 + 32 * 7 → p.fmt.toNat / 2 ^ 15 = 0 → p.k = 32 * nb → nb ≤ 256 → m < 128 → n < 128 →
    let key := 16384 * p.acc + 128 * m + n
    let old := (dget 0 u.tiles key).toInt
    old ≤ 2 ^ 126 → -(2 ^ 126) ≤ old →
    ∃ t u', exec (.mmaStepComplete c.id) s = .next t ∧ t.team c.tk = some u' ∧
      (dget 0 u'.tiles key).toInt =
        old + 2 ^ 64 * ((List.range p.k).map fun k => int8A u.scr p.ao m k * int8B u.scr p.bo k n).sum

/-- Engine commands complete, and a copy and a matrix step have the effect that the spec gives their elements. -/
def Obligations.EngineCommandsComplete : Prop :=
  Sys2Proof.Machine.PerformedCommandsLeave ∧
  Sys2Proof.Machine.PlainCopyMovesItsBytes ∧
  Sys2Proof.Machine.Int8StepAccumulatesProducts

/-- A replayable fault stops a user team's engine command at its progress point: the command keeps its place and counter and
gives up its token, and the fault's report joins the partition's batch, which it leaves below its COUNT (07 R204, 09 R240, R244, R247, 10 R274, 11 R291,
17 R372). -/
def Obligations.EngineFaultsStopCommands : Prop :=
  ∀ (i : Instr) (c d : Cmd) (matrix : Bool) (s s1 : State) (prog cause sub addr : Nat) (flags : Word) (acc : BitVec 8)
    (u : Team), faultRow s i = some (c, matrix, .stopped s1 prog flags cause sub addr acc) → s1.team c.tk = some u →
    u.sup = false → s1.cmd c.id = some d → d.token = c.token → d.stop = none → hasSupervisor s1 (pnumOf c.tk) = true →
    cause = 0x0A ∨ cause = 0x0B →
    let pn := pnumOf c.tk
    let b := s1.part pn
    b.batch.length + 1 < max 1 (min 256 ((b.reg 0x29).toNat / 65536 % 512)) →
    ∃ t tr, exec i s = .next t ∧ tr.cause = cause ∧ tr.sub = sub ∧ tr.pc = c.pc ∧ tr.addr = dword addr ∧ tr.path = c.path ∧
      t.cmd c.id = some { d with prog := prog, flags := flags, token := false, asked := false, stop := some tr,
                                 started := if matrix then false else d.started,
                                 broken := if matrix then false else d.broken } ∧
      (∀ k, k ≠ c.id → t.cmd k = s1.cmd k) ∧
      t.part pn = { b with tokenHeld := if c.token = true then b.tokenHeld - 1 else b.tokenHeld,
                           batch := b.batch ++ [{ asid := u.asid, page := (dword addr).toNat / 65536, cause := cause,
                                                  sub := sub, acc := acc ||| 8, tid := c.tk % 65536 }],
                           batchAt := if b.batch = [] then s1.clock else b.batchAt } ∧
      (∀ q, q ≠ pn → t.part q = s1.part q) ∧
      t = { s1 with cmds := t.cmds, parts := t.parts, nextTrap := s1.nextTrap + 1 }

/-- The events that start, repeat and fail commands: a task whose turn it is and that holds its token starts; the array set
starts the command whose turn it is when that passes its start checks, of different teams the one issued first, an order that
11 R283 leaves open and the model chooses (log 53); an unacknowledged packet is sent again, seven times at most; a send
that fails clears OPEN in its queue-pair record and ends with cause 0x10, subcode 7, which stands and is recorded, its grid
marked failed and its operation still counted (09 R247, 11 R283, 18 R380, R383, 20 R414). -/
def Sys2Proof.Machine.EngineCommandsStartAndFail : Prop :=
  (∀ (s : State) (c : Cmd) (u : Team), mayProceed s c.id = some (c, u) → taskReady s c u = true → c.token = true →
    olderStartable s c u = false → (s.cmds.map Cmd.id).Nodup →
    ∃ t, exec (.tileTaskStart c.id) s = .next t ∧ t.cmd c.id = some { c with started := true } ∧
      (∀ k, k ≠ c.id → t.cmd k = s.cmd k) ∧ t = { s with cmds := t.cmds }) ∧
  (∀ (s : State) (pn : Nat) (c : Cmd) (u : Team), peuriNext s pn = some (c, u) → startFails s c u = none →
    c.kind ≠ kindPeuri → c.kind ≠ kindPeuri + 2 → s.cmd c.id = some c →
    ∃ t, exec (.peuriCommandStart pn) s = .next t ∧ t.cmd c.id = some { c with started := true } ∧
      (∀ k, k ≠ c.id → t.cmd k = s.cmd k) ∧ t = { s with cmds := t.cmds }) ∧
  (∀ (s : State) (id n : Nat), klook s.sends id = some n →
    ∃ t, exec (.rdmaRetry id) s = .next t ∧ t = { s with sends := t.sends } ∧
      ∀ k, klook t.sends k = if k = id ∧ n < 7 then some (n + 1) else klook s.sends k) ∧
  (∀ (s : State) (c : Cmd) (n : Nat) (u : Team), klook s.sends c.id = some n → s.cmd c.id = some c → s.team c.tk = some u →
    u.sup = false → c.token = false → hasSupervisor s (pnumOf c.tk) = true → (s.part (pnumOf c.tk)).reg64 0x09 = 0 →
    (s.part (pnumOf c.tk)).heldRecs = [] → s.waits = [] → c.path < 256 →
    let net := (copyOf c.bytes).net
    let at_ := (dget Port.reset s.ports (net % 8)).qpbase.toNat + 64 * (net / 256 % 65536)
    ∃ t bs tr, exec (.networkTransferFailure c.id) s = .next t ∧
      t.cmds = (s.cmds.map fun d => if d.id = c.id then
        { d with kind := kindEnded, stop := some tr, lanes := [], token := false, asked := false } else d) ∧
      tr.cause = 0x10 ∧ tr.sub = 7 ∧ tr.pc = c.pc ∧ tr.path = c.path ∧ t.teams = s.teams ∧ klook t.sends c.id = none ∧ t.physByte 0 at_ = (s.physByte 0 at_).map (fun b => b &&& 0xFE) ∧
      (∀ loc pa, ¬(loc = 0 ∧ pa = at_) → t.physByte loc pa = s.physByte loc pa) ∧
      IsRecord bs 1 0x10 7 8 (c.tk % 65536) c.path c.pc.toNat 0 u.gid u.team u.cohort 0 (s.now u.die).toNat ∧
      (∀ pn, t.part pn = if pn = pnumOf c.tk then holdRecord (s.part pn) bs else s.part pn) ∧
      (t.grid u.gid).map Grid.failed = (s.grid u.gid).map fun _ => true)

/-- A ring push of a command that reaches a ring with room and no waiter takes slot PUSH mod 64 and counts; a pop of one with
an entry takes slot POP mod 64 to the scratchpad and counts; a try that cannot be served writes 0, one that is writes 1,
and a blocking command that cannot be served waits at the ring (12 R309, R310). -/
def Sys2Proof.Machine.RingCommandsPerform : Prop :=
  ∀ (s : State) (c : Cmd) (u : Team) (o : AsyncOp), mayProceed s c.id = some (c, u) → c.started = false → c.token = false →
    c.kind = kindLayer + 4 ∨ c.kind = kindLayer + 5 →
    (∀ d ∈ s.cmds, d.tk = c.tk → d.id ≠ c.id → d.kind ≠ kindLayer + 4 ∧ d.kind ≠ kindLayer + 5) →
    u.ops.head? = some o → o.id = c.op → (∀ q ∈ u.ops, q.done = false) → (u.ops.map AsyncOp.id).Nodup →
    (∀ j p, u.path j = some p → ∀ a b, p.st ≠ .counting a b) → (u.paths.map Prod.fst).Nodup → noTeamWaits s →
    s.waits = [] → (s.cmds.map Cmd.id).Nodup →
    let key := c.args.getD 0 0
    let off := c.args.getD 1 0
    let r := s.ring key
    let push := c.kind = kindLayer + 4
    let n := (r.push - r.pop).toNat
    let slot := (if push then r.push else r.pop).toNat % 64
    let free := (if push then r.pushers else r.poppers) = [] ∧ if push then n < 64 else 0 < n
    ∃ t u', exec (.ringCommandPerform c.id) s = .next t ∧ t.team c.tk = some u' ∧
      (∀ k, k ≠ key → t.ring k = s.ring k) ∧ (∀ k, k ≠ c.tk → t.team k = s.team k) ∧
      t = { s with teams := t.teams, cmds := t.cmds, rings := t.rings } ∧
      (free → t.cmd c.id = none ∧ u'.ops = u.ops.tail ∧ Written u (if c.sub = 1 then [.s (c.args.getD 2 0) 1] else []) u' ∧
        (push → klook (t.ring key).slots slot = some (cellsRead u.scr off 64) ∧ (t.ring key).push = r.push + 1 ∧
          (t.ring key).pop = r.pop ∧ (∀ j, j ≠ slot → klook (t.ring key).slots j = klook r.slots j) ∧ u'.scr = u.scr) ∧
        (¬push → (t.ring key).pop = r.pop + 1 ∧ (t.ring key).push = r.push ∧
          (∀ bs, klook r.slots slot = some bs → bs.length = 64 → cellsRead u'.scr off 64 = bs))) ∧
      (¬free ∧ c.sub = 1 → t.cmd c.id = none ∧ u'.ops = u.ops.tail ∧ Written u [.s (c.args.getD 2 0) 0] u' ∧
        t.rings = s.rings) ∧
      (¬free ∧ c.sub = 0 → u' = u ∧ t.cmd c.id = some { c with started := true } ∧
        t.ring key = if push then { r with pushers := r.pushers ++ [c.id] } else { r with poppers := r.poppers ++ [c.id] })

/-- Engine commands start, repeat and fail, and ring commands push, pop or wait. -/
def Obligations.EngineCommandsStartFailAndMeetRings : Prop :=
  Sys2Proof.Machine.EngineCommandsStartAndFail ∧
  Sys2Proof.Machine.RingCommandsPerform

namespace Sys2Proof.Machine

/-! ### Events of a partition and of its supervisor (15 R326-R334, R337, 16 R347, 17 R371-R374, 18 R383, R392, R393, 19 R398) -/

/-- The token pool of the module: 512 tokens at 2,900 watts, in proportion below (20 R407). -/
def poolSize (s : State) : Nat :=
  512 * (if s.host.fallback then s.host.fbCap.toNat else min s.host.pwrcap.toNat 2900) / 2900

/-- A register after a write: the bits of set take the value's, the bits of clear are cleared by a 1 (00 R3). -/
def merged (set clear old val : Word) : Word := ((old &&& ~~~set) ||| (val &&& set)) &&& ~~~(val &&& clear)

/-- The partition with one register replaced. -/
def withReg (p : Part) (n : Nat) (v : Word) : Part := { p with regs := dput 0 p.regs n v }

/-- The catalogue takes no record. -/
def Part.catOff (p : Part) : Bool := !(p.reg 0x76).getLsbD 0

/-- The region-cache entries of a partition's address spaces, one or all. -/
def regionLeft (s : State) (pn : Nat) (asid : Option Nat) : List (Nat × Byte) :=
  s.region.filter fun e =>
    let g := e.1 / 2 ^ 22 % 65536
    !(g / 8192 == pn && (asid.all fun a => g % 8192 == a))

/-- The state after an event of a partition, where it is one record update: a token grant, an expired supervisor check, region
invalidations, and writes of PROGSEL, TQBASE, TQPTR, CXCTL and CLKLOCK with no record held back and the catalogue off. A
lock is for the POINT last written while none held (18 R393). -/
def partitionRow (s : State) (i : Instr) : Option State :=
  let cx (pn : Nat) (val : Word) : Word := merged 0xFFFF01FF 0 ((s.part pn).reg 0x7C) val
  let lock (pn : Nat) (val : Word) : Word := merged 0x10F 0x400 ((s.part pn).reg 0x7F) val
  let aimed (pn : Nat) (val : Word) : BitVec 4 :=
    if ((s.part pn).reg 0x7F).getLsbD 9 then (s.part pn).lockPoint else BitVec.ofNat 4 (val.toNat % 16)
  match i with
  | .powerTokenGrant pn =>
    let p := s.part pn
    if p.tokenHeld < min (min ((p.reg 0x40).toNat % 1024) 512) p.allot.toNat
        ∧ (s.parts.map fun e => e.2.tokenHeld).sum < poolSize s then
      match p.tokenReqs with
      | [] => none
      | (true, id) :: rest =>
        some ({ s with cmds := s.cmds.map fun (c : Cmd) => if c.id = id then { c with token := true, asked := false } else c }.setPart
          pn { p with tokenReqs := rest, tokenHeld := p.tokenHeld + 1 })
      | (false, tk) :: rest =>
        some ({ s with teams := kmod s.teams tk fun (u : Team) => { u with token := true, tokenAsked := false } }.setPart
          pn { p with tokenReqs := rest, tokenHeld := p.tokenHeld + 1 })
    else none
  | .supervisorWatchdogExpiry pn =>
    let p := s.part pn
    let lim := (p.reg 0x12).toNat
    if lim ≠ 0 ∧ hasSupervisor s pn = true ∧ p.wdogAt + 1024 * lim ≤ s.clock then
      some ({ s with host := { s.host with alert := s.host.alert ||| 0x20 },
                     irqs := if s.host.alerten.getLsbD 5 then s.irqs ++ [0] else s.irqs }.setPart
        pn { p with wdogAt := s.clock })
    else none
  | .reginvAsid pn asid => some { s with region := regionLeft s pn (some (asid % 8192)) }
  | .reginvAll pn => some { s with region := regionLeft s pn none }
  | .progressCounterClear pn val =>
    if val.getLsbD 8 then
      some (s.setPart pn { withReg (s.part pn) 0x7D (merged 0xF 0 ((s.part pn).reg 0x7D) val) with progress := [] })
    else none
  | .trapQueueConfigWrite pn reg val =>
    if 0x09 ≤ reg ∧ reg ≤ 0x0B ∧ (s.part pn).heldRecs = [] then
      some (s.setPart pn { withReg (s.part pn) reg (merged
        (if reg = 0x09 then 0xFFFFF000 else if reg = 0x0A then 0xFFFFFFFF else 0x0F000000)
        (if reg = 0x0B then 0x80000000 else 0) ((s.part pn).reg reg) val) with heldStuck := false })
    else none
  | .causalTrialStart pn val =>
    if val.getLsbD 8 ∧ (s.part pn).catOff = true then
      some (s.setPart pn { withReg (s.part pn) 0x7C (cx pn val) with cxIn := 0, cxOut := 0 })
    else none
  | .causalTrialEnd pn val =>
    if val.getLsbD 8 = false ∧ (s.part pn).catOff = true then
      some (s.setPart pn (withReg (s.part pn) 0x7C (cx pn val)))
    else none
  | .clockLockRequest pn val =>
    if val.getLsbD 8 ∧ ((s.part pn).reg 0x7F).getLsbD 8 = false then
      some ({ s with irqs := s.irqs ++ [1 + pn] }.setPart pn
        { withReg (s.part pn) 0x7F (lock pn val) with lockPoint := aimed pn val })
    else none
  | .clockLockRelease pn val =>
    if val.getLsbD 8 = false ∧ ((s.part pn).reg 0x7F).getLsbD 8 = true ∧ (s.part pn).catOff = true then
      some (s.setPart pn { withReg (s.part pn) 0x7F
        (if ((s.part pn).reg 0x7F).getLsbD 9 then lock pn val &&& ~~~0x200 else lock pn val) with lockPoint := aimed pn val })
    else none
  | .clockLockGrant pn =>
    let p := s.part pn
    let w := p.reg 0x7F
    let point := p.lockPoint.toNat
    let steady (d : Nat) : Bool :=
      (if s.host.stage = 2 then 4 else dget 0 s.host.points d) == point && (s.host.pending.all fun c => c.1 || c.2.1 != d) &&
        (match s.host.running with
         | some (link, n, _) => link || n != d
         | none => true)
    if pn < 8 ∧ s.host.stage ≠ 15 ∧ w.getLsbD 8 = true ∧ w.getLsbD 9 = false ∧ p.catOff = true
        ∧ (∀ d, d < 4 → p.halves.getLsbD (2 * d) = true ∨ p.halves.getLsbD (2 * d + 1) = true → steady d = true) then
      some (s.setPart pn (withReg p 0x7F (w ||| 0x200)))
    else none
  | _ => none

/-- A TLB entry leaves under a selector of a partition: its address space and its page are selected (15 R337). -/
def tlbSelected (pn : Nat) (sel : Dword) (e : Nat × Dword × Nat) : Prop :=
  let g := e.1 / 2 ^ 36 % 65536
  let unit := 2 ^ ([0, 5, 14].getD e.2.2 14)
  g / 8192 = pn ∧ (sel.getLsbD 53 = true ∨ g % 8192 = sel.toNat % 8192) ∧
    (sel.getLsbD 52 = true ∨ e.1 % 2 ^ 36 / unit = sel.toNat / 2 ^ 16 % 2 ^ 36 / unit)

/-- The supervisor's team, with one path, which waits for w. -/
structure SupervisorWaits (s : State) (pn pi : Nat) (u : Team) (p : Path) (w : PathWait) : Prop where
  team : s.team (pn * 65536) = some u
  paths : u.paths = [(pi, p)]
  waits : p.st = .waiting w

/-- The teams of a partition but for its supervisor. -/
def usersOf (s : State) (pn : Nat) : List (Nat × Team) := s.teams.filter fun e => e.1 / 65536 == pn && !e.2.sup

end Sys2Proof.Machine

/-- The events that partitionRow lists complete with the state it gives (15 R334, 16 R347, R348, 17 R371, 18 R392, R393,
20 R407, R411). The model's own in it: that a lock is for the POINT last written while none held, and when it is granted and
broken (log 28); that a write of CXCTL while a trial runs starts it again, and one while none runs only stores its fields
(logs 25, 47); and that the check of SVLIM starts again when it expires (log 51). -/
def Obligations.PartitionEventsComplete : Prop :=
  ∀ (i : Instr) (s u : State), partitionRow s i = some u →
    ∃ t, exec i s = .next t ∧ t = { u with parts := t.parts } ∧ ∀ pn, t.part pn = u.part pn

/-- The waits of the supervisor end: HALT_SETTLE once every named team has settled, TLBINV_COMPLETE without the entries that
the selector names, and CELLAR_EXCHANGE_COMPLETE with every user team in the cellar that held none; SUPERVISOR_ENGINE_FAULT
enters the handler with the trap of the command, and a command that the trap has ended is then outstanding no more (15 R326,
R328, R337, 19 R398). -/
def Sys2Proof.Machine.SupervisorWaitsEnd : Prop :=
  (∀ (s : State) (pn pi : Nat) (sel : Word) (u : Team) (p : Path), SupervisorWaits s pn pi u p (.halt sel) →
    (∀ k ∈ namedTeams s pn sel, settled s k = true) →
    ∃ t t', exec (.haltSettle pn) s = .next t ∧ TeamIs s (pn * 65536) t t' ∧ Went u pi t' ∧ t' = { u with paths := t'.paths }) ∧
  (∀ (s : State) (pn pi : Nat) (sel : Dword) (u : Team) (p : Path), SupervisorWaits s pn pi u p (.tlbinv sel) →
    ∃ t t', exec (.tlbinvComplete pn) s = .next t ∧ TeamIs { s with tlb := t.tlb } (pn * 65536) t t' ∧ Went u pi t' ∧
      t' = { u with paths := t'.paths } ∧ ∀ e, e.2.2 ≤ 2 → (e ∈ t.tlb ↔ e ∈ s.tlb ∧ ¬tlbSelected pn sel e)) ∧
  (∀ (s : State) (pn pi : Nat) (u : Team) (p : Path), SupervisorWaits s pn pi u p .exchange → u.sup = true →
    (s.part pn).cellar = none → (∀ e ∈ s.cohorts, e.2.gid / 65536 = pn → e.2.place ≠ .shadow) →
    (∀ e ∈ usersOf s pn, e.1 ≠ pn * 65536 ∧ settled s e.1 = true) →
    ∃ t t', exec (.cellarExchangeComplete pn) s = .next t ∧ t.team (pn * 65536) = some t' ∧ Went u pi t' ∧
      usersOf t pn = [] ∧
      ((t.part pn).cellar.map fun c => c.teams.map Prod.fst) =
        (if usersOf s pn = [] then none else some ((usersOf s pn).map Prod.fst)) ∧
      (∀ k, k / 65536 ≠ pn → t.team k = s.team k) ∧ (∀ q, q ≠ pn → t.part q = s.part q)) ∧
  (∀ (s : State) (pn id : Nat) (tr : Trap) (u : Team) (p : Path), s.team (pn * 65536) = some u → u.halted = false →
    s.parts.find? (fun e => e.2.svPending.any fun q => q.1 == id) = some (pn, s.part pn) →
    (s.part pn).svPending = [(id, tr)] → u.path tr.path = some p → (∀ c, s.cmd id = some c → c.path = tr.path) →
    (s.part pn).reg 0x01 = 0 →
    (s.part pn).reg64 0x02 ≠ 0 → tr.cause < 64 → tr.sub < 256 → u.sup = true →
    (s.cmd id).map Cmd.kind ≠ some kindEnded ∨ ¬u.counts →
    ∃ t t', exec (.supervisorEngineFault id) s = .next t ∧ t.team (pn * 65536) = some t' ∧ t'.wait = .none ∧
      ((s.cmd id).map Cmd.kind ≠ some kindEnded → t'.ops = u.ops ∧ t.cmds = s.cmds) ∧
      (∀ c o, s.cmds = [c] → c.id = id → c.kind = kindEnded → u.ops = [o] → o.id = c.op → u.opSettled o.id = true →
        t'.ops = [] ∧ t.cmds = []) ∧
      t'.path tr.path = some { p with pc := dword ((s.part pn).reg64 0x02), st := .ready, mark := false } ∧
      (∀ j, j ≠ tr.path → t'.path j = (u.path j).map fun q => { q with hold := true }) ∧
      (t.part pn).svPending = [] ∧
      ∀ n, (t.part pn).reg n = if n = 0x01 then 1 else if n = 0x04 then loWord p.pc else if n = 0x05 then hiWord p.pc
        else if n = 0x06 then word (tr.cause + 256 * tr.sub) else if n = 0x07 then loWord tr.addr
        else if n = 0x08 then hiWord tr.addr else (s.part pn).reg n)

/-- A drain of the cellar whose writes do not fault ends with the context as an image in memory and the cellar empty, and one
with a fault with ERR set and the context where it was. A fill ends with the context of an image whose bytes stand at
CELBASE, and with ERR set and no context when a read faults or meets data with an uncorrectable error, or no image has those
bytes; either way BUSY falls (15 R328, log 9). -/
def Sys2Proof.Machine.CellarTransfersEnd : Prop :=
  (∀ (s : State) (pn : Nat) (c : Context), (s.part pn).cellar = some c → (s.part pn).cellarOp = 1 →
    let write := vwrite { s with fresh := s.fresh + 1 } (supAgent s pn) (s.part pn).celBase.toNat (imageBytes s.fresh)
    ∃ t, exec (.cellarDrainComplete pn) s = .next t ∧
      (∀ s1, write = .ok s1 → (∀ k, klook t.images k = if k = s.fresh then some c else klook s.images k) ∧
        t = { s1 with images := t.images, away := s1.away ++ [s.fresh], parts := t.parts } ∧
        ∀ q, t.part q = if q = pn then { s1.part pn with cellar := none, cellarOp := 0 } else s1.part q) ∧
      ∀ s1 e, write = .error (s1, e) → t = { s1 with parts := t.parts } ∧
        (∀ q, q ≠ pn → t.part q = s1.part q) ∧ ((t.part pn).reg 0x0F).getLsbD 3 = true ∧
        t.part pn = { s1.part pn with cellar := some c, cellarOp := 0, regs := (t.part pn).regs }) ∧
  (∀ (s : State) (pn : Nat), (s.part pn).cellarOp = 2 →
    let read := vread s { supAgent s pn with team := some (pn * 65536) } (s.part pn).celBase.toNat (65536 * Config.celUnits)
    ∃ t, exec (.cellarFillComplete pn) s = .next t ∧ (t.part pn).cellarOp = 0 ∧
      (∀ s1 bs, read = .ok (s1, bs) → s1.badReads = s.badReads → (∃ e ∈ s.images, imageBytes e.1 = bs) →
        t = { s1 with away := t.away, parts := t.parts } ∧ ∃ e ∈ s.images, imageBytes e.1 = bs ∧
          ((∀ k ∈ e.2.teams, k.1 / 65536 = pn) → ∀ n, n ∈ t.away ↔ n ∈ s1.away ∧ n ≠ e.1) ∧
          ∀ q, t.part q = if q = pn then { s1.part pn with cellar := some e.2, cellarOp := 0 } else s1.part q) ∧
      ((∃ s1 e, read = .error (s1, e)) ∨
        (∃ s1 bs, read = .ok (s1, bs) ∧ (s1.badReads ≠ s.badReads ∨ ∀ e ∈ s.images, imageBytes e.1 ≠ bs)) →
        (t.part pn).cellar = none ∧ ((t.part pn).reg 0x0F).getLsbD 3 = true))

/-- The supervisor's waits and the cellar's transfers end. -/
def Obligations.SupervisorWaitsAndCellarTransfersEnd : Prop :=
  Sys2Proof.Machine.SupervisorWaitsEnd ∧
  Sys2Proof.Machine.CellarTransfersEnd

/-- PRES action 0 lets a user-trapped path go on at PC + 4; GEND ends a childless grid that names no record: its teams and
cohorts are gone, its completion counter is one more, and its number is free; a due batch of one report is delivered as one
fault-range record (17 R372, R373, 18 R383), whose TIME is %clock of the die of the partition's lowest half, the model's choice
(log 53). That the path goes on under its trap's switch marker is the model's reading of
02 R54 (log 25), and that the counter is accessed under the grid's address space its reading of 02 R29 (log 20). -/
def Sys2Proof.Machine.ResolutionWritesAct : Prop :=
  (∀ (s : State) (pn tid pi : Nat) (u : Team) (p : Path) (tr : Trap), 1 ≤ tid → tid < 65536 → pi < 64 →
    s.team (pn * 65536 + tid) = some u → u.live = true → u.sup = false → u.path pi = some p → p.trap = some tr →
    tr.cause = 0x04 →
    ∃ t t', exec (.presContinue pn (word (tid + 65536 * pi))) s = .next t ∧ TeamIs s (pn * 65536 + tid) t t' ∧
      t'.path pi = some { p with pc := p.pc + 4, trap := none, mark := false,
                                 st := if p.mark && u.outstanding pi p.mask then .parked else .ready } ∧
      (∀ j, j ≠ pi → t'.path j = u.path j) ∧ t' = { u with paths := t'.paths }) ∧
  (∀ (s : State) (pn id : Nat) (g : Grid), id < 65536 → s.grid (pn * 65536 + id) = some g →
    (∀ e ∈ s.grids, e.2.parent ≠ some (pn * 65536 + id)) → (s.grids.map Prod.fst).Nodup → g.depth ≤ 10 →
    g.lpb.errec = 0 → g.lpb.done.toNat % 8 = 0 → canonicalVa g.lpb.done = true → s.waits = [] →
    (klook s.lines (lineKey (pn * 8192 + g.asid % 8192) g.lpb.done.toNat)).isSome = true →
    ∃ t, exec (.gend pn (word (65536 + id))) s = .next t ∧ t.grid (pn * 65536 + id) = none ∧
      (∀ k, k ≠ pn * 65536 + id → t.grid k = s.grid k) ∧
      (∀ e ∈ t.teams, e.2.gid ≠ pn * 65536 + id ∨ e.2.sup = true) ∧
      (∀ e ∈ t.cohorts, e.2.gid ≠ pn * 65536 + id) ∧
      t.cachedNat (pn * 8192 + g.asid % 8192) g.lpb.done.toNat 8 =
        (s.cachedNat (pn * 8192 + g.asid % 8192) g.lpb.done.toNat 8 + 1) % 2 ^ 64) ∧
  (∀ (s : State) (pn : Nat) (r : Report), (s.part pn).batch = [r] →
    (s.part pn).batchAt + max 1 (((s.part pn).reg 0x29).toNat % 65536) ≤ s.clock → (s.part pn).reg64 0x09 = 0 →
    (s.part pn).heldRecs = [] →
    ∃ t bs, exec (.faultBatchDelivery pn) s = .next t ∧ bs.length = 64 ∧
      (∀ e ∈ [(0, 1, 2), (1, 1, r.cause), (2, 1, r.sub), (3, 1, r.acc.toNat), (4, 2, r.asid), (6, 2, 1),
        (8, 8, r.page * 65536), (16, 8, (r.page + 1) * 65536), (24, 2, r.tid), (26, 2, 1), (32, 8, (s.now (supAgent s pn).die).toNat)],
        fieldAt bs e.1 e.2.1 = e.2.2 % 256 ^ e.2.1) ∧
      (∀ q, t.part q = if q = pn then holdRecord { s.part pn with batch := [] } bs else s.part q) ∧
      t = { s with parts := t.parts })

/-- REPLAY and PRES action 1 perform the lanes that a fault or a watchpoint held of a load: their results stand, the replay
state is empty and the faulted path is ready (07 R178, 17 R374, 18 R386). -/
def Sys2Proof.Machine.ReplayPerformsHeldLanes : Prop :=
  ∀ (i : Instr) (s : State) (pn tid pi sz d : Nat) (u : Team) (p : Path) (r : Replay), 1 ≤ tid → tid < 65536 → pn < 8 →
    pi < 64 → s.teams = [(pn * 65536 + tid, u)] → u.live = true → u.sup = false → u.halted = false → u.wait = .none →
    u.asid < 8192 → u.paths = [(pi, p)] → p.st = .faulted → p.trap = none → u.replay = [r] → r.path = pi →
    r.access = .load sz d → sz ≤ 6 → r.uniform = false → r.op = none → s.cmds = [] → r.lanes ≠ [] →
    (∀ q ∈ r.lanes, p.mask.getLsbD q.lane = true ∧ q.lane < 1024 ∧ canonicalVa q.addr = true ∧
      q.addr.toNat % sizeBytes sz = 0 ∧ (klook s.lines (lineKey (pn * 8192 + u.asid) q.addr.toNat)).isSome = true) →
    ((r.cause = 0x07 ∧ i = .presPerformHeld pn (word (tid + 65536 * pi + 2 ^ 22))) ∨
      (r.cause = 0x0A ∧ (i = .replayAll pn ∨ i = .replayAsid pn u.asid))) →
    ∃ t t', exec i s = .next t ∧ TeamIs { s with badReads := t.badReads, dieCaches := t.dieCaches } (pn * 65536 + tid) t t' ∧
      ((∀ q ∈ r.lanes, s.sound (pn * 8192 + u.asid) q.addr.toNat) → t.badReads = s.badReads) ∧
      Written u (r.lanes.flatMap fun q =>
        loadedWrites sz d q.lane (s.cachedNat (pn * 8192 + u.asid) q.addr.toNat (sizeBytes sz))) t' ∧
      ScalesSee s (pn * 8192 + u.asid) u (sizeBytes sz) (r.lanes.map LaneReq.addr) t' ∧
      t'.path pi = some { p with st := .ready } ∧
      t' = { u with v := t'.v, replay := [], paths := t'.paths, scales := t'.scales }

/-- PRES, GEND and REPLAY act on the paths, grids and accesses that faults hold. -/
def Obligations.ResolutionActsOnHeldWork : Prop :=
  Sys2Proof.Machine.ResolutionWritesAct ∧
  Sys2Proof.Machine.ReplayPerformsHeldLanes

namespace Sys2Proof.Machine

/-! ### Cohorts, teams and grids (02 R29, R34, R41, R42, 15 R320, R329, R333, R335, 16 R344, R345, 20 R421) -/

/-- A team in its start state on a reservation (02 R42): one path at the entry with every lane, every register and flag zero
but the argument pair z1, the modes of its block, nothing in flight. -/
structure Started (u : Team) (l : Lpb) (r : Resv) : Prop where
  path : u.paths = [(0, { pc := l.entry, mask := fullMask l.teamw, fmt := 0, entryFmt := 0, st := .ready, mark := false,
                          hold := false, skipBp := 0, trap := none })]
  lane : ∀ k j, u.vr k j = 0
  preds : ∀ k j, k < 7 → u.pr k j = false
  uniform : ∀ k, u.sr k = if k = 2 then loWord l.args else if k = 3 then hiWord l.args else 0
  qs : u.q = 0
  modes : u.fpm = l.fpminit ∧ u.fst = 0
  sizes : u.width = l.teamw ∧ u.vregs = l.vregs ∧ u.sregs = l.sregs ∧ u.npaths = l.paths ∧ u.acct = l.acct ∧
    u.scratch = l.scratch
  memory : u.scr = [] ∧ u.tiles = []
  flight : u.ops = [] ∧ u.long = [] ∧ u.replay = [] ∧ u.wait = .none ∧ u.expired = [] ∧ u.scales = []
  place : u.core = r.core ∧ u.vbase = r.vbase ∧ u.sbase = r.sbase ∧ u.accEngine = r.engine ∧ u.accTile = r.tile
  live : u.live = true ∧ u.sup = false

/-- The cohort of one team waits by waitc (02 R41). -/
structure Idles (s : State) (c : Cohort) (tk : Nat) (u : Team) : Prop where
  teams : c.teams = [tk]
  here : s.team tk = some u
  live : u.live = true
  waits : ∃ p a cmp e m l w, u.wait = .waitc p a cmp e m l w

/-- The counts of a team and the register that limits each (15 R333). -/
def countRow (u : Team) (tk : Nat) (i : Instr) : Option (Nat × Nat × Nat) :=
  match i with
  | .watchdogExpiry k => if k = tk then some (0x10, 0x1B, u.wdcnt) else none
  | .faultStallExpiry k => if k = tk then some (0x11, 0x1C, u.fscnt) else none
  | _ => none

end Sys2Proof.Machine

/-- A cohort whose team waits by waitc goes to the shadow and begins to drain, while its partition holds fewer than its limit
swapped out; one whose drain writes its bytes into the swap area, of which it takes the lowest free slot by the model's
choice (log 33), leaves the shadow, and one whose writes fault stays there; a woken one that fits is resident again where it
fits, with no wait-on-address entry of its team left (02 R41, 07 R194, 15 R329, 17 R371). Where it fits is the model's choice
(log 53). -/
def Obligations.CohortsSwap : Prop :=
  (∀ (s : State) (cid tk : Nat) (c : Cohort) (u : Team), klook s.cohorts cid = some c → c.place = .resident →
    Idles s c tk u → (s.part (c.gid / 65536)).cellar = none → (∀ e ∈ s.cohorts, e.2.place = .resident) →
    1 ≤ ((s.part (c.gid / 65536)).reg 0x28).toNat % 65536 →
    ∃ t, exec (.cohortSwapOut cid) s = .next t ∧ t = { s with cohorts := t.cohorts } ∧
      ∀ k, klook t.cohorts k = if k = cid then some { c with place := .shadow, draining := true } else klook s.cohorts k) ∧
  (∀ (s : State) (cid : Nat) (c : Cohort), klook s.cohorts cid = some c → c.place = .shadow → c.draining = true →
    (∀ e ∈ s.cohorts, ∀ n, e.2.place ≠ .drained n) →
    let pn := c.gid / 65536
    let write := vwrite { s with fresh := s.fresh + 1 } (supAgent s pn) ((s.part pn).reg64 0x26) (swapBytes s.fresh)
    ∃ t, exec (.cohortDrainComplete cid) s = .next t ∧
      (∀ s1, write = .ok s1 → t = { s1 with cohorts := t.cohorts } ∧
        ∀ k, klook t.cohorts k =
          if k = cid then some { c with place := .drained 0, draining := false } else klook s.cohorts k) ∧
      ∀ s1 e, write = .error (s1, e) → t = s1 ∧ t.cohorts = s.cohorts) ∧
  (∀ (s : State) (cid tk cluster : Nat) (c : Cohort) (block : Option Nat) (r : Resv) (u : Team) (p cmp lane : Nat)
    (addr : Dword) (e m : Word), klook s.cohorts cid = some c → c.place ≠ .resident → c.teams = [tk] → s.team tk = some u →
    u.live = true → u.wait = .waitc p addr cmp e m lane true → swapInFit s c = some (cluster, block, [r]) →
    ∃ t t', exec (.cohortSwapIn cid) s = .next t ∧ TeamIs { s with cohorts := t.cohorts, waits := t.waits } tk t t' ∧
      t.waits = (s.waits.filter fun w => decide (w.who ≠ .team tk)) ∧
      t' = { u with core := r.core, slot := r.slot.getD 0, vbase := r.vbase, sbase := r.sbase, accEngine := r.engine,
                    accTile := r.tile } ∧
      ∀ k, klook t.cohorts k = if k = cid then
        some { c with place := .resident, draining := false, cluster := cluster, block := block } else klook s.cohorts k)

/-- A processor's claim for its head grid adds one to the ticket: an index below N is the die's to place, any other ends the
processor's part of the launch (02 R34, 16 R344). That the ticket is accessed under the grid's address space is the model's
reading (log 20). -/
def Sys2Proof.Machine.ClaimsTakeTheTicket : Prop :=
  ∀ (s : State) (pn die gid : Nat) (g : Grid), headGrid s pn die = some (gid, g) → g.claiming.contains die = true →
    (∀ e ∈ g.unplaced, e.1 ≠ die) → heldBack s gid g = false → s.grid gid = some g → g.lpb.ticket.toNat % 8 = 0 → s.waits = [] →
    let a := gid / 65536 * 8192 + g.asid % 8192
    let v := s.cachedNat a g.lpb.ticket.toNat 8
    (klook s.lines (lineKey a g.lpb.ticket.toNat)).isSome = true →
    ∃ t, exec (.cohortClaim pn die) s = .next t ∧ t = { s with grids := t.grids, lines := t.lines, dieCaches := t.dieCaches } ∧
      t.cachedNat a g.lpb.ticket.toNat 8 = (v + 1) % 2 ^ 64 ∧
      ∀ k, t.grid k = if k = gid then
          some (if v < g.n then { g with unplaced := g.unplaced ++ [(die, v)] } else { g with claiming := g.claiming.erase die })
        else s.grid k

/-- A cohort of one team that fits is placed: its team is in its start state on the reservation, with the lowest free TID,
and the grid has the cohort no longer unplaced (02 R42, 15 R320, 16 R345). -/
def Sys2Proof.Machine.PlacementStartsTheTeam : Prop :=
  ∀ (s : State) (pn die gid idx n cluster tid : Nat) (g : Grid) (block : Option Nat) (r : Resv),
    headFit s pn die = some (gid, g, idx, (cluster, block, [r])) → s.grid gid = some g → gid / 65536 = pn →
    createdTeams g idx = [n] → g.lpb.mode = 0 → 1 ≤ tid → tid < 65536 →
    (takenKeys s pn).contains (pn * 65536 + tid) = false → s.team (pn * 65536 + tid) = none →
    (∀ k, 1 ≤ k → k < tid → (s.team (pn * 65536 + k)).isSome = true ∨ (takenKeys s pn).contains (pn * 65536 + k) = true) →
    ∃ t u, exec (.cohortPlacement pn die) s = .next t ∧ t.team (pn * 65536 + tid) = some u ∧ Started u g.lpb r ∧
      u.asid = g.asid ∧ u.gid = gid ∧ u.cohort = idx ∧ u.team = n ∧ u.halted = g.halted ∧
      u.debug = g.lpb.flags.getLsbD 1 ∧ u.profile = g.lpb.flags.getLsbD 2 ∧
      (∀ k, k ≠ pn * 65536 + tid → t.team k = s.team k) ∧
      klook t.cohorts s.nextCid = some
        { gid := gid, idx := idx, die := die, cluster := cluster, span := g.lpb.span, block := block,
          teams := [pn * 65536 + tid], place := .resident, barSkew := [], draining := false } ∧
      (∀ k, t.grid k = if k = gid then (t.grid gid) else s.grid k) ∧
      (t.grid gid).map (fun h => (h.placed, h.unplaced)) = some (true, g.unplaced.erase (die, idx)) ∧
      t.hbm = s.hbm ∧ t.lines = s.lines

/-- A claim takes the ticket, under the grid's address space (log 20), and a placed cohort's team stands in its start
state. -/
def Obligations.ClaimsAndPlacementStartTeams : Prop :=
  Sys2Proof.Machine.ClaimsTakeTheTicket ∧
  Sys2Proof.Machine.PlacementStartsTheTeam

/-- A team with no path and nothing outstanding retires; the only team of its cohort takes the cohort with it; the
supervisor's exit leaves the partition without one, REASON 2; a grid with nothing left retires without an error by one
more in its completion counter (02 R29, R48, 15 R319, 20 R404), which is accessed under the grid's address space by the
model's reading (log 20). -/
def Obligations.TeamsAndGridsRetire : Prop :=
  (∀ (s : State) (tk : Nat) (u : Team) (c : Cohort), s.team tk = some u → Team.spent s tk u = true → u.sup = false →
    klook s.cohorts u.cid = some c → c.teams = [tk] →
    ∃ t, exec (.teamRetire tk) s = .next t ∧ t.team tk = none ∧ (∀ k, k ≠ tk → t.team k = s.team k) ∧
      klook t.cohorts u.cid = none ∧ (∀ k, k ≠ u.cid → klook t.cohorts k = klook s.cohorts k) ∧ t.lines = s.lines ∧
      t.hbm = s.hbm ∧ t.grids = s.grids) ∧
  (∀ (s : State) (pn : Nat) (u : Team), s.team (pn * 65536) = some u → Team.spent s (pn * 65536) u = true → u.sup = true →
    (∀ e ∈ s.grids, e.1 / 65536 ≠ pn) →
    ∃ t, exec (.teamRetire (pn * 65536)) s = .next t ∧ hasSupervisor t pn = false ∧ (t.part pn).svFailed = true ∧
      (t.part pn).svReason = 2 ∧ t.grids = s.grids ∧ t.lines = s.lines ∧ t.hbm = s.hbm) ∧
  (∀ (s : State) (gid : Nat) (g : Grid), s.grid gid = some g → Grid.spent s gid g = true → g.error = none →
    g.lpb.done.toNat % 8 = 0 → s.waits = [] →
    let a := gid / 65536 * 8192 + g.asid % 8192
    (klook s.lines (lineKey a g.lpb.done.toNat)).isSome = true →
    ∃ t, exec (.gridRetire gid) s = .next t ∧ t.grid gid = none ∧ (∀ k, k ≠ gid → t.grid k = s.grid k) ∧
      t.cachedNat a g.lpb.done.toNat 8 = (s.cachedNat a g.lpb.done.toNat 8 + 1) % 2 ^ 64 ∧ t.teams = s.teams)

/-- A count that reaches its limit halts the team's cohort, if it is not halted, and stands beside the team's other traps as a
team-wide trap of cause 0x1B or 0x1C, recorded in the partition's trap queue (15 R333). -/
def Sys2Proof.Machine.CountsExpire : Prop :=
  ∀ (i : Instr) (s : State) (tk reg cause n : Nat) (u : Team) (c : Cohort), s.team tk = some u →
    countRow u tk i = some (reg, cause, n) → u.live = true → u.sup = false → (∀ tr ∈ u.expired, tr.cause ≠ cause) →
    (∀ d ∈ s.cmds, d.tk ≠ tk) → klook s.cohorts u.cid = some c → c.teams = [tk] →
    let p := s.part (pnumOf tk)
    (p.reg reg).toNat ≠ 0 → 1024 * (p.reg reg).toNat ≤ n → p.peuri.queue = [] → hasSupervisor s (pnumOf tk) = true →
    p.reg64 0x09 = 0 → p.heldRecs = [] →
    ∃ t t' tr bs, exec i s = .next t ∧ TeamIs { s with parts := t.parts, nextTrap := s.nextTrap + 1 } tk t t' ∧
      t' = { u with halted := true, expired := u.expired ++ [tr] } ∧ tr.cause = cause ∧ tr.path = 0xFF ∧ tr.mask = 0 ∧
      IsRecord bs 1 cause 0 2 (tk % 65536) 0xFF 0 0 u.gid u.team u.cohort 0 (s.now u.die).toNat ∧
      ∀ q, t.part q = if q = pnumOf tk then holdRecord (s.part q) bs else s.part q

/-- The partition's trap queue takes no record and holds none back: TQBASE is 0. -/
def Sys2Proof.Machine.noQueue (p : Part) : Prop := p.reg64 0x09 = 0 ∧ p.heldRecs = []

/-- The record of an uncorrectable error has been held back: cause 0x1A, handled, naming no path and no lane (15 R335, R338,
18 R381). -/
def Sys2Proof.Machine.ErrorRecorded (s : State) (tk : Nat) (va : Dword) (u : Team) (t : State) : Prop :=
  ∃ bs, IsRecord bs 1 0x1A 0 4 (tk % 65536) 0xFF 0 va.toNat u.gid u.team u.cohort 0 (s.now u.die).toNat ∧
    (t.part (pnumOf tk)).heldRecs = [bs]

/-- An uncorrectable error met by a user team is recorded and ends its cohort; where the launch allows it the cohort's index
is placed again with RETRY one more, and otherwise the childless grid ends, its completion counter one more; one that no team
reads is only reported, and its data is poisoned (15 R335, R338, 20 R421). The counter is accessed under the grid's address
space by the model's reading (log 20). -/
def Sys2Proof.Machine.UncorrectableErrorsEndTheCohort : Prop :=
  (∀ (s : State) (i : Instr) (tk : Nat) (va : Dword) (u : Team) (c : Cohort) (g : Grid), s.team tk = some u → u.sup = false →
    klook s.cohorts u.cid = some c → c.teams = [tk] → s.grid u.gid = some g → g.lpb.flags.getLsbD 0 = true →
    g.lpb.mode ≠ 2 → g.retry < 3 → noQueue (s.part (pnumOf tk)) → i = .storageUncorrectableError tk va ∨ (∃ pa, i = .hbmUncorrectableError pa (some (tk, va))) →
    ∃ t, exec i s = .next t ∧ t.team tk = none ∧ (∀ k, k ≠ tk → t.team k = s.team k) ∧ klook t.cohorts u.cid = none ∧
      (∀ k, t.grid k = if k = u.gid then
          some { g with retry := g.retry + 1, errCount := g.errCount + 1, unplaced := g.unplaced ++ [(c.die, u.cohort)] }
        else s.grid k) ∧ ErrorRecorded s tk va u t ∧ t.lines = s.lines ∧ t.hbm = s.hbm) ∧
  (∀ (s : State) (tk : Nat) (va : Dword) (u : Team) (c : Cohort) (g : Grid), s.team tk = some u → u.sup = false →
    klook s.cohorts u.cid = some c → c.teams = [tk] → s.grid u.gid = some g → g.lpb.flags.getLsbD 0 = false →
    noQueue (s.part (pnumOf tk)) →
    (∀ e ∈ s.grids, e.2.parent ≠ some u.gid) → g.depth ≤ 10 → g.lpb.errec = 0 → g.lpb.done.toNat % 8 = 0 → s.waits = [] →
    let a := u.gid / 65536 * 8192 + g.asid % 8192
    (klook s.lines (lineKey a g.lpb.done.toNat)).isSome = true →
    ∃ t, exec (.storageUncorrectableError tk va) s = .next t ∧ t.team tk = none ∧ t.grid u.gid = none ∧
      (∀ e ∈ t.teams, e.2.gid ≠ u.gid ∨ e.2.sup = true) ∧
      t.cachedNat a g.lpb.done.toNat 8 = (s.cachedNat a g.lpb.done.toNat 8 + 1) % 2 ^ 64 ∧ ErrorRecorded s tk va u t ∧
      t.hbm = s.hbm) ∧
  (∀ (s : State) (pa : Nat),
    exec (.hbmUncorrectableError pa none) s = .next { s with
      host := { s.host with hbmerr := dword pa, alert := s.host.alert ||| 0x08 },
      poison := if pa ∈ s.poison then s.poison else s.poison ++ [pa],
      irqs := if s.host.alerten.getLsbD 3 then s.irqs ++ [0] else s.irqs })

/-- Expired counts halt a cohort, and uncorrectable errors end it. -/
def Obligations.CountsAndMemoryErrorsStopTeams : Prop :=
  Sys2Proof.Machine.CountsExpire ∧
  Sys2Proof.Machine.UncorrectableErrorsEndTheCohort

namespace Sys2Proof.Machine

/-! ### Command queues (16 R339-R342, 20 R405) -/

/-- A queue of an enabled partition reads an entry now, and its bytes are bs. -/
structure EntryAt (s : State) (pn k : Nat) (q : Queue) (bs : List Byte) : Prop where
  number : k < 4
  queue : (s.part pn).queue k = q
  enabled : q.enable = true ∧ (s.part pn).enable = true
  pending : q.head ≠ q.tail ∧ q.waiting = none
  read : ∃ d, vread s (queueAgent s pn k) (q.base.toNat + 64 * (q.head.toNat % 2 ^ q.log)) 64 = .ok ({ s with dieCaches := d }, bs)
  reserved : ∀ j, (1 ≤ j ∧ j < 8) ∨ (24 ≤ j ∧ j < 64) → byteAt bs j = 0

/-- The next state t differs from s in queue k of partition pn, which is q in it, and in what the die caches hold, at most. -/
structure QueueIs (s : State) (pn k : Nat) (t : State) (q : Queue) : Prop where
  rest : t = { s with parts := t.parts, dieCaches := t.dieCaches }
  part : t.part pn = { s.part pn with queues := (t.part pn).queues }
  here : (t.part pn).queue k = q
  queues : ∀ j, j ≠ k → (t.part pn).queue j = (s.part pn).queue j
  others : ∀ n, n ≠ pn → t.part n = s.part n

/-! ### The host's registers (20 R402-R411, R416-R420) -/

/-- The reason with which an event breaks the clock lock of a partition, when it breaks one: 2 for a command to one of its
dies and for the end of the fallback state, 3 for a thermal alert, 1 for the fallback state (18 R393, 20 R409-R411). -/
def lockBreak (s : State) (i : Instr) (pn : Nat) : Option Nat :=
  match i with
  | .pscmdWrite die _ => if s.parts.any fun e => e.1 == pn && (diesOf e.2.halves).contains die then some 2 else none
  | .fallbackExit _ => if s.host.fallback then some 2 else none
  | .thermalAlert _ => some 3
  | .thermalExamination => if s.host.alert.getLsbD 0 then some 1 else none
  | _ => none

/-- A partition after that event: of a lock that holds LOCKED is cleared, BROKEN set, and REASON says why (18 R393). -/
def lockAfter (s : State) (i : Instr) (pn : Nat) (p : Part) : Part :=
  match lockBreak s i pn with
  | some r =>
    if (p.reg 0x7F).getLsbD 9 then withReg p 0x7F ((p.reg 0x7F &&& 0xFFFFC5FF) ||| 0x400 ||| word (2048 * r)) else p
  | none => p

/-- The host's part of the state replaced. -/
def withHost (s : State) (h : HostRegs) : State := { s with host := h }

/-- The alert bits set, with vector 0 where ALERTEN has the bit (20 R403). -/
def alerted (s : State) (bit : Nat) : State :=
  { s with host := { s.host with alert := s.host.alert ||| BitVec.twoPow 8 bit },
           irqs := if s.host.alerten.getLsbD bit then s.irqs ++ [0] else s.irqs }

/-- The state after an event of the host's registers, where it is one record update: the power registers, the sequencer, the
thermal alert and its examination, bring-up, firmware, health, the link, and attestation. -/
def hostRow (s : State) (i : Instr) : Option State :=
  let h := s.host
  match i with
  | .pwrcapWrite val =>
    if h.stage ≠ 15 then some (withHost s { h with pwrcap := BitVec.ofNat 12 (val.toNat % 4096) }) else none
  | .pscmdWrite die val =>
    let point := val.toNat % 16
    if die < 4 ∧ point ≤ 6 ∧ h.stage ≠ 15 then
      some (withHost s { h with
        pscmd := dput 0 h.pscmd die point,
        pending := if h.fallback then h.pending
          else (h.pending.filter fun d => d.1 || d.2.1 != die) ++ [(false, die, point)] })
    else none
  | .linkcmdWrite link val =>
    let width := val.toNat % 4
    if link < 15 ∧ h.stage ≠ 15 then
      some (withHost s { h with
        linkcmd := dput 0 h.linkcmd link width,
        pending := if h.fallback then h.pending
          else (h.pending.filter fun d => !(d.1 && d.2.1 == link)) ++ [(true, link, width)] })
    else none
  | .sequencerLinkApply =>
    match h.running, h.pending with
    | none, (true, n, v) :: rest => some (withHost s { h with running := some (true, n, v), pending := rest })
    | none, (false, d, v) :: (true, n, w) :: rest =>
      if d ∈ linkDies n then some (withHost s { h with running := some (true, n, w), pending := (false, d, v) :: rest })
      else none
    | _, _ => none
  | .sequencerFrequencyApply =>
    match h.running, h.pending with
    | none, (false, n, v) :: rest =>
      if ∀ d ∈ rest, d.1 = true → n ∉ linkDies d.2.1 then
        some (withHost s { h with running := some (false, n, v), pending := rest })
      else
        match rest with
        | (true, _, _) :: _ => some s
        | _ => none
    | _, _ => none
  | .linkRetrainComplete =>
    match h.running with
    | some (true, n, v) => some (withHost s { h with running := none, widths := dput 0 h.widths n (if v = 3 then 0 else v) })
    | _ => none
  | .clockChangeComplete =>
    match h.running with
    | some (false, n, v) => some (withHost s { h with running := none, points := dput 0 h.points n v })
    | _ => none
  | .thermalAlert _ =>
    some (alerted (withHost s { h with thermAt := if h.alert.getLsbD 0 then h.thermAt else some s.clock }) 0)
  | .thermalExamination =>
    match h.thermAt with
    | some t =>
      if t + 1050000 ≤ s.clock then
        if h.alert.getLsbD 0 then
          some (alerted (withHost s { h with
            thermAt := none, fallback := true, pending := [],
            running := match h.running with
              | some (true, c) => some (true, c)
              | _ => none,
            points := if h.fbPoint.toNat < 7 then
                dput 0 (dput 0 (dput 0 (dput 0 h.points 0 h.fbPoint.toNat) 1 h.fbPoint.toNat) 2 h.fbPoint.toNat) 3
                  h.fbPoint.toNat
              else h.points }) 1)
        else some (withHost s { h with thermAt := none })
      else none
    | none => none
  | .fallbackExit val =>
    let g := { h with fbCap := BitVec.ofNat 16 (val.toNat / 65536), fbPoint := BitVec.ofNat 4 (val.toNat % 16) }
    if val.getLsbD 4 = false ∨ h.stage = 15 then none
    else if h.fallback = false then some (withHost s g)
    else if h.pending = [] then
      some (withHost s { g with
        fallback := false,
        pending := (List.range 4).map (fun d => (false, d, dget 0 h.pscmd d))
          ++ (List.range 15).map fun l => (true, l, dget 0 h.linkcmd l) })
    else none
  | .hbmTrainingComplete weak failed =>
    if h.stage = 2 ∧ h.hbmdone = false ∧ (h.replace = true ∨ (weak = 0 ∧ failed = 0)) then
      some (withHost s { h with weak := weak, hbmdone := decide (failed = 0) })
    else none
  | .fullServiceEntry =>
    if h.stage = 2 ∧ h.hbmdone = true ∧ ∀ e ∈ s.parts, e.2.enable = false then
      some { withHost s { h with stage := 3, points := [], pscmd := [] } with
        poison := s.poison.filter fun pa => decide (12288 * 65536 ≤ pa) || decide (2 ≤ pa / 4096 % 8) }
    else none
  | .firmwareLoad => some (withHost s { h with fwBusy := true })
  | .firmwareVerifyComplete =>
    if h.fwBusy = true ∧ fieldAt (cellsRead s.staging 0 160) 0 4 ≠ 0x57464B4A then
      some (alerted (withHost s { h with fwBusy := false, fwResult := 2 }) 7)
    else none
  | .retiredWrite off val =>
    if off = 0x18 ∧ (h.replace = true ∨ val.toNat ≤ h.retthr.toNat) then some (withHost s { h with retired := val })
    else if off = 0x1C ∧ (h.replace = true ∨ h.retired.toNat ≤ val.toNat) then some (withHost s { h with retthr := val })
    else none
  | .registerWrite off val =>
    if off = 0x10 then some (withHost s { h with alerten := BitVec.ofNat 8 (val.toNat % 256) })
    else if off = 0x0C ∧ h.thermAt = none then
      some (withHost s { h with alert := h.alert &&& ~~~BitVec.ofNat 8 (val.toNat % 256) })
    else none
  | .hostLinkTraining width rate =>
    if [1, 2, 4, 8, 16].contains width ∧ 1 ≤ rate ∧ rate ≤ 6 then
      some (withHost s { h with linkWidth := width, linkRate := rate })
    else none
  | .allotWrite pn val =>
    if pn < 8 ∧ h.stage ≠ 15 then
      let others := ((s.parts.filter fun e => e.1 != pn).map fun e => e.2.allot.toNat).sum
      some (s.setPart pn { s.part pn with allot := BitVec.ofNat 10 (min (val.toNat % 1024) (poolSize s - others)) })
    else none
  | .queueDoorbell pn k val =>
    if pn < 8 ∧ k < 4 ∧ h.stage ≠ 15 then some (s.modQueue pn k fun q => { q with tail := val }) else none
  | .queueEnable pn k val =>
    if pn < 8 ∧ k < 4 ∧ h.stage ≠ 15 ∧ val.getLsbD 8 then
      some (s.modQueue pn k fun q =>
        { q with enable := true, sizelog := if q.enable then q.sizelog else BitVec.ofNat 5 (val.toNat % 32) })
    else none
  | .queueDisable pn k val =>
    if pn < 8 ∧ k < 4 ∧ h.stage ≠ 15 ∧ val.getLsbD 8 = false then
      some (s.modQueue pn k fun q =>
        { q with enable := false, sizelog := if q.enable then q.sizelog else BitVec.ofNat 5 (val.toNat % 32) })
    else none
  | _ => none

/-- What a measurement is the digest of: the boot ROM, the running firmware image with REV, the fused configuration
(20 R422). -/
noncomputable def measuredBytes (s : State) (index : Nat) : List Byte :=
  if index = 1 then Config.bootRom
  else if index = 2 then
    cellsRead s.flash 0 (160 + fieldAt (cellsRead s.flash 8 4) 0 4) ++ cellsRead s.flash 4 4
  else Config.fuses

/-- The state after an answer. -/
def answered (s : State) (bs : List Byte) : State :=
  { s with answers := s.answers ++ [{ error := false, poisoned := false, bytes := bs }] }

/-- The state after an answer that reports an error. -/
def refusedWith (s : State) : State :=
  { s with answers := s.answers ++ [{ error := true, poisoned := false, bytes := [] }] }

/-- The state after a signed answer. -/
noncomputable def signedAnswer (s : State) (bs nonce : List Byte) : State :=
  answered { s with fresh := s.fresh + 1 } (bs ++ Config.signature (bs ++ nonce) s.fresh)

/-- The state after each of the seven requests, which have no answer with STAGE 15 (20 R416, R422; the form of the answers and
the negotiation that must come first are log 16's). -/
noncomputable def attestationRow (s : State) (i : Instr) : Option State :=
  let spoken (t : State) : Option State := some (if s.host.stage = 15 then s else t)
  match i with
  | .spdmGetVersion => spoken (answered { s with spdm := false } (Config.spdmBytes 0))
  | .spdmGetCapabilities => spoken (answered s (Config.spdmBytes 1))
  | .spdmNegotiateAlgorithms req =>
    spoken (if Config.offersAlgorithms req then answered { s with spdm := true } (Config.spdmBytes 2) else refusedWith s)
  | .spdmGetDigests => spoken (if s.spdm then answered s (Config.digest Config.certificate) else refusedWith s)
  | .spdmGetCertificate slot off len =>
    spoken (if s.spdm ∧ slot = 0 then answered s ((Config.certificate.drop off).take len) else refusedWith s)
  | .spdmChallenge slot nonce =>
    spoken (if s.spdm ∧ slot = 0 then signedAnswer s (Config.digest Config.certificate) nonce else refusedWith s)
  | .spdmGetMeasurements index nonce =>
    spoken (if s.spdm = false ∨ (3 < index ∧ index ≠ 255) then refusedWith s
      else if index = 0 then signedAnswer s [3] nonce
      else if index = 255 then
        signedAnswer s (Config.digest (measuredBytes s 1) ++ Config.digest (measuredBytes s 2)
          ++ Config.digest (measuredBytes s 3)) nonce
      else signedAnswer s (Config.digest (measuredBytes s index)) nonce)
  | _ => none

end Sys2Proof.Machine

/-- The entries of a command queue: NOP advances the head; SIGNAL stores its value; WAIT, and a woken wait, advance once the
counter has reached the bound, and otherwise the queue waits at the counter; LAUNCH of a DENSE block starts a grid of depth
1 and the queue's class; an entry whose OP is none of these stops the queue with ERR 1 (16 R341-R343). That the grid takes
the lowest free number is the model's choice (log 14). -/
def Obligations.QueueEntriesArePerformed : Prop :=
  ∀ (s : State) (pn k : Nat) (q : Queue),
    (∀ bs, EntryAt s pn k q bs → byteAt bs 0 = 3 →
      ∃ t, exec (.queueNop pn k) s = .next t ∧ QueueIs s pn k t { q with head := q.head + 1 }) ∧
    (∀ bs, EntryAt s pn k q bs → 4 ≤ byteAt bs 0 →
      ∃ t, exec (.queueLaunch pn k) s = .next t ∧ t.irqs = s.irqs ++ [1 + pn] ∧
        QueueIs { s with irqs := t.irqs } pn k t { q with enable := false, err := 1, errIdx := q.head.setWidth 24 }) ∧
    (∀ bs (addr : Dword), EntryAt s pn k q bs → byteAt bs 0 = 2 → addr = dword (fieldAt bs 8 8) → canonicalVa addr = true →
      addr.toNat % 8 = 0 → s.waits = [] →
      let g := (queueAgent s pn k).gasid
      (klook s.lines (lineKey g addr.toNat)).isSome = true →
      ∃ t, exec (.queueSignal pn k) s = .next t ∧ t.cachedNat g addr.toNat 8 = fieldAt bs 16 8 ∧
        StoresOnlyAt s t g 8 [addr] ∧ QueueIs { s with lines := t.lines } pn k t { q with head := q.head + 1 }) ∧
    (∀ bs (addr : Dword), EntryAt s pn k q bs → byteAt bs 0 = 1 → addr = dword (fieldAt bs 8 8) → canonicalVa addr = true →
      addr.toNat % 8 = 0 → s.waits.length < 16 →
      let g := (queueAgent s pn k).gasid
      (klook s.lines (lineKey g addr.toNat)).isSome = true →
      ∃ t, exec (.queueWait pn k) s = .next t ∧
        if fieldAt bs 16 8 ≤ s.cachedNat g addr.toNat 8 then QueueIs s pn k t { q with head := q.head + 1 }
        else ∃ w, t.waits = s.waits ++ [w] ∧ w.who = .queue pn k ∧ w.loc = .virt g addr ∧
          QueueIs { s with waits := t.waits } pn k t { q with waiting := some (false, addr, fieldAt bs 16 8) }) ∧
    (∀ (addr : Dword) (bound : Nat), (s.part pn).queue k = q → q.waiting = some (true, addr, bound) →
      (s.part pn).enable = true →
      let g := (queueAgent s pn k).gasid
      (klook s.lines (lineKey g addr.toNat)).isSome = true → bound ≤ s.cachedNat g addr.toNat 8 →
      ∃ t, exec (.queueWaitReread pn k) s = .next t ∧ QueueIs s pn k t { q with head := q.head + 1, waiting := none }) ∧
    (∀ bs blk n d (addr : Dword), EntryAt s pn k q bs → byteAt bs 0 = 0 → addr = dword (fieldAt bs 8 8) →
      canonicalVa addr = true → addr.toNat % 64 = 0 → s.waits = [] →
      let a := queueAgent s pn k
      (∀ j, j < 4 → (klook s.lines (lineKey a.gasid (addr.toNat + 64 * j))).isSome = true) →
      vread s a addr.toNat 256 = .ok ({ s with dieCaches := d }, blk) → (lpbOf blk).valid = true → (lpbOf blk).mode = 0 →
      1 ≤ n → n < 65536 → s.grid (pn * 65536 + n) = none →
      (∀ j, 1 ≤ j → j < n → (s.grid (pn * 65536 + j)).isSome = true) →
      let l := lpbOf blk
      ∃ t g, exec (.queueLaunch pn k) s = .next t ∧ t.grid (pn * 65536 + n) = some g ∧
        (g.addr, g.lpb, g.depth, g.parent, g.cls, g.asid) = (addr, l, 1, none, k, a.asid) ∧
        g.n = l.mf 0 * l.mf 1 * l.mf 2 ∧ g.unplaced = [] ∧ g.error = none ∧
        (∀ j, j ≠ pn * 65536 + n → t.grid j = s.grid j) ∧ ((t.part pn).queue k) = { q with head := q.head + 1 } ∧
        t = { s with grids := t.grids, parts := t.parts, lines := t.lines, dieCaches := t.dieCaches })

namespace Sys2Proof.Machine

/-- A 64-bit register with its low or its high word replaced. -/
def withLow (old : Dword) (v : Nat) : Dword := dword (old.toNat / 2 ^ 32 * 2 ^ 32 + v % 2 ^ 32)
def withHigh (old : Dword) (v : Nat) : Dword := dword (v % 2 ^ 32 * 2 ^ 32 + old.toNat % 2 ^ 32)

/-- A partition after a write of a word of its map entry, which has no effect while ENABLE is set, and of a word of its block
after the queues (15 R317, 20 R404). -/
def mapWritten (off v : Nat) (p : Part) : Part :=
  if p.enable then p
  else match off with
    | 0x00 => { p with halves := BitVec.ofNat 8 (v % 256) }
    | 0x04 => { p with arrays := BitVec.ofNat 4 (v % 16) }
    | 0x08 => { p with ringbase := BitVec.ofNat 16 (v % 65536), rings := BitVec.ofNat 16 (v / 65536) }
    | 0x10 => { p with svlpb := withLow p.svlpb v }
    | 0x14 => { p with svlpb := withHigh p.svlpb v }
    | _ => p
def blockWritten (off v : Nat) (p : Part) : Part :=
  match off with
  | 0x104 => if v % 2 = 1 then { p with svFailed := false } else p
  | 0x118 => { p with migVa := withLow p.migVa (v / 65536 * 65536) }
  | 0x11C => { p with migVa := withHigh p.migVa v }
  | 0x120 => { p with migDst := withLow p.migDst v }
  | 0x124 => { p with migDst := withHigh p.migDst v }
  | _ => p
/-- A network port after a write of one of its words (20 R412). -/
def portWritten (off v : Nat) (p : Port) : Port :=
  match off with
  | 0x08 => { p with qpbase := withLow p.qpbase v }
  | 0x0C => { p with qpbase := withHigh p.qpbase v }
  | 0x10 => { p with qpcnt := BitVec.ofNat 17 (v % 2 ^ 17) }
  | _ => p

/-- REGISTER_WRITE changes one field and nothing else: a word of the partition map, of a partition's block, of a queue's QBASE,
which has no effect while the queue is enabled, of a port, of the staging window and of the MSI-X table (15 R317, 16 R340, 20
R402, R404, R412, R416). -/
def RegisterWritesTakeTheirFields : Prop :=
  (∀ (s : State) (pn off : Nat) (v : Word), pn < 8 → s.host.stage ≠ 15 →
    (off ∈ [0x00, 0x04, 0x08, 0x10, 0x14] →
      ∃ t, exec (.registerWrite (0x1000 + 32 * pn + off) v) s = .next t ∧ t = { s with parts := t.parts } ∧
        ∀ n, t.part n = if n = pn then mapWritten off v.toNat (s.part n) else s.part n) ∧
    (off ∈ [0x104, 0x118, 0x11C, 0x120, 0x124] →
      ∃ t, exec (.registerWrite (0x10000 + 0x10000 * pn + off) v) s = .next t ∧ t = { s with parts := t.parts } ∧
        ∀ n, t.part n = if n = pn then blockWritten off v.toNat (s.part n) else s.part n)) ∧
  (∀ (s : State) (pn k : Nat) (high : Bool) (v : Word), pn < 8 → k < 4 → s.host.stage ≠ 15 →
    let q := (s.part pn).queue k
    ∃ t, exec (.registerWrite (0x10000 + 0x10000 * pn + 32 * k + (if high then 4 else 0)) v) s = .next t ∧
      QueueIs s pn k t (if q.enable then q
        else { q with base := if high then withHigh q.base v.toNat else withLow q.base (v.toNat / 4096 * 4096) })) ∧
  (∀ (s : State) (n off : Nat) (v : Word), n < 8 → off ∈ [0x08, 0x0C, 0x10] → s.host.stage ≠ 15 →
    ∃ t, exec (.registerWrite (0x3000 + 64 * n + off) v) s = .next t ∧ t = { s with ports := t.ports } ∧
      ∀ k, dget Port.reset t.ports k =
        if k = n then portWritten off v.toNat (dget Port.reset s.ports k) else dget Port.reset s.ports k) ∧
  (∀ (s : State) (off : Nat) (v : Word), off % 4 = 0 → off < 0x200000 →
    ∃ t, exec (.registerWrite (0x100000 + off) v) s = .next t ∧ t = { s with staging := t.staging } ∧
      natOfBytes (cellsRead t.staging off 4) = v.toNat ∧
      ∀ b, b < off ∨ off + 4 ≤ b → cellsRead t.staging b 1 = cellsRead s.staging b 1) ∧
  (∀ (s : State) (off : Nat) (v : Word), off % 4 = 0 → off < 0x90 → s.host.stage ≠ 15 →
    ∃ t, exec (.registerWrite (0x300000 + off) v) s = .next t ∧ t = { s with msix := t.msix } ∧
      ∀ k, dget 0 t.msix k = if k = 0x300000 + off then v else dget 0 s.msix k)

/-- With STAGE 15 a write outside the module registers and the staging window changes nothing, the power registers' own events
among them (20 R416). -/
def OnlyModuleRegistersAnswerAwaitingReload : Prop :=
  ∀ (s : State), s.host.stage = 15 →
    (∀ (off : Nat) (v : Word), 0x1000 ≤ off → off < 0x100000 ∨ 0x300000 ≤ off → exec (.registerWrite off v) s = .next s) ∧
    (∀ (n : Nat) (v : Word) (i : Instr), i ∈ [.pwrcapWrite v, .pscmdWrite n v, .linkcmdWrite n v, .fallbackExit v] →
      exec i s = .next s)

/-- The events that hostRow lists complete with the state it gives, and with the clock locks broken that the event breaks, while
the catalogue takes no record (20 R402-R411, R416-R420). -/
def HostRowsComplete : Prop :=
  ∀ (i : Instr) (s u : State), hostRow s i = some u → (∀ pn, (s.part pn).catOff = true) →
    ∃ t, exec i s = .next t ∧ t = { u with parts := t.parts } ∧ ∀ pn, t.part pn = lockAfter s i pn (u.part pn)

/-- A staged image of a legal form goes to flash when its signature is valid and its revision not below the minimum, and the
module resets; otherwise RESULT says why it is refused, with ALERT.FWFAIL, and nothing else changes (20 R416). -/
def StagedImagesAreVerified : Prop :=
  ∀ (s : State) (n : Nat), s.host.fwBusy = true → fieldAt (cellsRead s.staging 0 160) 0 4 = 0x57464B4A →
    fieldAt (cellsRead s.staging 0 160) 8 4 = n → n ≤ 2096992 →
    ∃ t, exec .firmwareVerifyComplete s = .next t ∧
      if Config.signatureValid (cellsRead s.staging 0 (160 + n)) = true then
        if Config.minRevision ≤ fieldAt (cellsRead s.staging 0 160) 4 4 then
          exec .moduleReset { s with flash := t.flash } = .next t ∧ t.host.stage = 2 ∧
            cellsRead t.flash 0 (160 + n) = cellsRead s.staging 0 (160 + n)
        else t = alerted (withHost s { s.host with fwBusy := false, fwResult := 3 }) 7
      else t = alerted (withHost s { s.host with fwBusy := false, fwResult := 2 }) 7

end Sys2Proof.Machine

/-- The host's events that hostRow lists complete with the state it gives, and with the clock locks broken that the event
breaks, while the catalogue takes no record: among them the sequencer's, which applies a pending link command before the
frequency command of a die at either end of that link even where the latter arrived first. A staged image is verified, and goes
to flash or is refused. REGISTER_WRITE changes the field that its offset names, of ALERT and ALERTEN by hostRow; with STAGE 15
nothing but the module registers and the staging window takes a write (15 R317, 16 R340, 20 R402-R412, R416-R420). That STAGE is 2 in the
step that resets the module is the model's choice (log 40), and so is that full service ends the errors of the HBM data that it
writes (log 46). -/
def Obligations.HostEventsComplete : Prop :=
  Sys2Proof.Machine.HostRowsComplete ∧
  Sys2Proof.Machine.StagedImagesAreVerified ∧
  Sys2Proof.Machine.RegisterWritesTakeTheirFields ∧
  Sys2Proof.Machine.OnlyModuleRegistersAnswerAwaitingReload

/-- Each of the seven attestation requests is answered and nothing else changes: a measurement is the digest of the boot
ROM, of the running firmware image with REV, or of the fused configuration; a request for another slot or index, or one that
comes before the algorithms are agreed, is answered with an error (20 R422; log 16). With STAGE 15 none is answered (20 R416). -/
def Sys2Proof.Machine.AttestationAnswers : Prop :=
  ∀ (i : Instr) (s t : State), attestationRow s i = some t → exec i s = .next t

/-- A byte of early service's flat memory: below frame 12,288, on memory die 0 or 1 (17 R359, 20 R417). -/
def Sys2Proof.Machine.flatByte (pa : Nat) : Prop := pa < 12288 * 65536 ∧ pa / 4096 % 8 < 2

/-- The host's accesses through BAR2 read and write device memory at their offset, a read of data with an uncorrectable
error in HBM, which the flat memory of early service is not, being poisoned and a write of it making it new, and both are refused
beyond 2^39; a port that changes raises its alert; an inbound RDMA write that an open record of a port that is up accepts stores
its bytes, and any other is refused and changes no memory (20 R400, R412, R415, R421). That new bytes are no longer poisoned is the
model's choice (log 46), and so is what an access reads and writes, at STAGE 2, of device memory that is not flat: the bytes
held for its address (log 54). -/
def Sys2Proof.Machine.HostAndNetworkReachMemory : Prop :=
  (∀ (s : State) (off len : Nat), off + len ≤ 2 ^ 39 → off < 2 ^ 39 → s.host.stage = 2 ∨ s.host.stage = 3 →
    ∃ t e, exec (.hostMemoryAccess off len none) s = .next t ∧ t = { s with answers := s.answers ++ [e] } ∧
      e.error = false ∧ e.bytes = cellsRead s.hbm off len ∧
      (e.poisoned = true ↔ ∃ p ∈ s.poison, off ≤ p ∧ p < off + len ∧
        ¬(s.host.stage = 2 ∧ Sys2Proof.Machine.flatByte p))) ∧
  (∀ (s : State) (off len : Nat) (bs : List Byte), off + bs.length ≤ 2 ^ 39 → off < 2 ^ 39 →
    s.host.stage = 2 ∨ s.host.stage = 3 → s.waits = [] →
    ∃ t, exec (.hostMemoryAccess off len (some bs)) s = .next t ∧ t = { s with hbm := t.hbm, poison := t.poison } ∧
      (∀ j, j < bs.length → t.physByte 0 (off + j) = (bs[j]?).toList) ∧
      (∀ a, ¬(off ≤ a ∧ a < off + bs.length) → t.physByte 0 a = s.physByte 0 a) ∧
      ∀ p, p ∈ t.poison ↔ p ∈ s.poison ∧ ¬(off ≤ p ∧ p < off + bs.length)) ∧
  (∀ (s : State) (off len : Nat), 2 ^ 39 < off + len ∨ 2 ^ 39 ≤ off →
    exec (.hostMemoryAccess off len none) s = .next (refusedWith s)) ∧
  (∀ (s : State) (off len : Nat) (bs : List Byte), 2 ^ 39 < off + bs.length ∨ 2 ^ 39 ≤ off →
    exec (.hostMemoryAccess off len (some bs)) s = .next (refusedWith s)) ∧
  (∀ (s : State) (port : Nat) (up : Bool), port < 8 → s.host.stage = 3 → (dget Port.reset s.ports port).up ≠ up →
    (∀ c ∈ allCmds s, c.sendsOn port = false) →
    exec (.portLinkChange port up) s = .next (alerted { s with
      ports := dput Port.reset s.ports port { dget Port.reset s.ports port with up := up } } 6)) ∧
  (∀ (s : State) (port lqpn pa : Nat) (key : Word) (bs r : List Byte), inboundRecord s port lqpn key = some r →
    (dget Port.reset s.ports port).up = true → fieldAt r 0x30 8 ≤ pa → pa + bs.length ≤ fieldAt r 0x30 8 + fieldAt r 0x38 8 →
    ∃ t, exec (.inboundRdmaWrite port lqpn key pa bs) s = .next t ∧
      t = { answered s [] with hbm := t.hbm, poison := t.poison } ∧
      (∀ j, j < bs.length → t.physByte 0 (pa + j) = (bs[j]?).toList) ∧
      (∀ a, ¬(pa ≤ a ∧ a < pa + bs.length) → t.physByte 0 a = s.physByte 0 a) ∧
      ∀ p, p ∈ t.poison ↔ p ∈ s.poison ∧ ¬(pa ≤ p ∧ p < pa + bs.length)) ∧
  (∀ (s : State) (port lqpn pa : Nat) (key : Word) (bs : List Byte),
    ((dget Port.reset s.ports port).up = false ∨ ∀ r, inboundRecord s port lqpn key = some r →
      pa < fieldAt r 0x30 8 ∨ fieldAt r 0x30 8 + fieldAt r 0x38 8 < pa + bs.length) →
    exec (.inboundRdmaWrite port lqpn key pa bs) s = .next (refusedWith s))

/-- Attestation requests are answered, but for STAGE 15, and the host and the network reach device memory. What the host reads and
writes, at STAGE 2, of device memory that is not flat is the model's choice (log 54). -/
def Obligations.HostNetworkAndAttestationComplete : Prop :=
  Sys2Proof.Machine.AttestationAnswers ∧
  Sys2Proof.Machine.HostAndNetworkReachMemory

/-- A migration request for a page that cannot be pushed is refused with STAT 4, one for a page that can starts with STAT 1;
the push under way ends with its STAT and the partition's vector; a move record that has expired leaves the table
(17 R375-R377, 20 R404). A push whose page can no longer be pushed when it is to be moved ends with STAT 4 by the model's
reading (log 30). -/
def Obligations.MigrationsRequestedAndEnded : Prop :=
  (∀ (s : State) (pn : Nat) (val : Word), pn < 8 → s.host.stage ≠ 15 →
    let p := s.part pn
    let asid := val.toNat % 8192
    let ok := p.migRun = none ∧ (pushLeaf s pn p.migVa p.migDst asid).isSome = true
    ∃ t, exec (.migrationPushRequest pn val) s = .next t ∧ (∀ n, n ≠ pn → t.part n = s.part n) ∧
      (ok → t = { s with parts := t.parts } ∧
        t.part pn = { p with migAsid := BitVec.ofNat 13 asid, migStat := 1, migRun := some (p.migVa, p.migDst, asid) }) ∧
      (¬ok → t = { s with parts := t.parts, irqs := s.irqs ++ [1 + pn] } ∧
        t.part pn = { p with migAsid := BitVec.ofNat 13 asid, migStat := 4 })) ∧
  (∀ (s : State) (pn asid : Nat) (va dst : Dword), (s.part pn).migRun = some (va, dst, asid) →
    pushLeaf s pn va dst asid = none →
    ∃ t, exec (.migrationMoveComplete pn) s = .next t ∧ t = { s with parts := t.parts, irqs := s.irqs ++ [1 + pn] } ∧
      (∀ n, n ≠ pn → t.part n = s.part n) ∧ t.part pn = { s.part pn with migStat := 4, migRun := none }) ∧
  (∀ (s s1 : State) (pn asid : Nat) (va dst : Dword) (lf : Leaf), (s.part pn).migRun = some (va, dst, asid) →
    pushLeaf s pn va dst asid = some lf → moveSettles s (pn * 8192 + asid) (va.toNat / 65536) = false →
    movePage s pn lf va dst asid = some s1 →
    ∃ t, exec (.migrationMoveComplete pn) s = .next t ∧ t = { s1 with parts := t.parts, irqs := s1.irqs ++ [1 + pn] } ∧
      (t.part pn).migStat = 2 ∧ (t.part pn).migRun = none ∧ ∀ n, n ≠ pn → t.part n = s1.part n) ∧
  (∀ (s : State) (k : Nat) (r : MoveRec), s.moves[k]? = some r → r.t0 + 10500000 ≤ s.clock → r.n < 3 →
    ∃ t, exec (.moveRecordExpiry k) s = .next t ∧ t = { s with moves := t.moves } ∧
      ∀ q, q ∈ t.moves ↔ q ∈ s.moves ∧ q ≠ r)

/-- A partition whose cellar holds no team of partition pn any more, as a fill of an image that pn drained may have left there. -/
def Sys2Proof.Machine.cellarWithout (pn : Nat) (p : Part) : Part :=
  { p with cellar := p.cellar.map fun c => c.withoutGrids fun g => g / 65536 == pn }

/-- Enabling an entry of the partition map whose block is as R318 asks starts its supervisor on core 0 of its lowest cluster,
with every register at its reset value, as stated here while no wait-on-address entry is registered and, in early service,
for a block in the flat memory; a reset ends what runs and starts it again; disabling ends every team, cohort and
grid of the partition, wherever their contexts stand, with no completion and no error record (15 R317, R318). -/
def Obligations.PartitionsStartAndEnd : Prop :=
  (∀ (i : Instr) (s : State) (pn : Nat), pn < 8 → s.host.stage ≠ 15 →
    (i = .partitionEnable pn ∧ (s.part pn).enable = false ∧ enableRefused s pn = false ∧
      (∀ e ∈ s.teams, e.1 / 65536 ≠ pn)) ∨ (i = .partitionReset pn ∧ (s.part pn).enable = true) → s.waits = [] →
    let p := s.part pn
    let l := lpbOf (physRead s 0 p.svlpb.toNat 256)
    let half := ((List.range 8).find? fun h => p.halves.getLsbD h).getD 0
    l.supervisorOk = true → (s.host.stage = 2 → ∀ k, k < 256 → Sys2Proof.Machine.flatByte (p.svlpb.toNat + k)) →
    ∃ t u, exec i s = .next t ∧ t.team (pn * 65536) = some u ∧ u.sup = true ∧ u.live = true ∧
      u.core = 512 * (half / 2) + 256 * (half % 2) ∧ u.paths = (launchTeam l).paths ∧ u.v = [] ∧ u.s = (launchTeam l).s ∧
      (∀ e ∈ t.teams, e.1 / 65536 = pn → e.1 = pn * 65536) ∧ (t.part pn).enable = true ∧ (t.part pn).svReason = 0 ∧
      (∀ n, (t.part pn).reg n = dget 0 privReset n) ∧ (t.part pn).cellar = none ∧
      (i = .partitionEnable pn → ∀ n, n ≠ pn → t.part n = s.part n) ∧
      (i = .partitionReset pn → ∀ n, n ≠ pn → t.part n = Sys2Proof.Machine.cellarWithout pn (s.part n)) ∧
      (∀ k, k / 65536 ≠ pn → t.team k = s.team k)) ∧
  (∀ (s : State) (pn : Nat), pn < 8 → s.host.stage ≠ 15 → (s.part pn).enable = true →
    ∃ t, exec (.partitionDisable pn) s = .next t ∧ (t.part pn).enable = false ∧ (∀ e ∈ t.teams, e.1 / 65536 ≠ pn) ∧
      (∀ e ∈ t.cohorts, e.2.gid / 65536 ≠ pn) ∧ (∀ e ∈ t.grids, e.1 / 65536 ≠ pn) ∧
      (∀ n, n ≠ pn → t.part n = Sys2Proof.Machine.cellarWithout pn (s.part n)) ∧
      t.hbm = s.hbm ∧ t.lines = s.lines)

/-- MODULE_RESET leaves no team, grid, cached line or enabled partition, every privileged register and module register at its
reset value, device memory reading zero (log 1), and what lies outside the module as it was; STAGE is 2 when the flash image
passes the boot ROM's check and 15 otherwise (00 R4, 20 R403, R416). -/
def Obligations.ModuleResetLeavesResetValues : Prop :=
  ∀ s : State, ∃ t, exec .moduleReset s = .next t ∧ (∀ k, t.team k = none) ∧ (∀ k, t.grid k = none) ∧
    (∀ g va, t.cachedByte g va = none) ∧ (∀ pa, t.physByte 0 pa = [0]) ∧
    (∀ loc pa, loc ≠ 0 → t.physByte loc pa = s.physByte loc pa) ∧
    (∀ pn, (t.part pn).enable = false ∧ ∀ n, (t.part pn).reg n =
      if n = 0x0B then 0x04000000 else if n = 0x29 then 0x01000834 else if n = 0x40 then 512
      else if n = 0x43 then 0x40404040 else if n = 0x44 then 64 else if n = 0x76 then 0xFFFF0800 else 0) ∧
    readBar t 0x004 = (if verifyImage s.flash = 1 then 2 else 15) ∧ readBar t 0x00C = 0 ∧ readBar t 0x010 = 0xFF ∧
    readBar t 0x014 = 0 ∧ readBar t 0x018 = 0 ∧ readBar t 0x01C = 4096 ∧ readBar t 0x028 = 0 ∧
    t.host.pwrcap = 2900 ∧ t.host.fbCap = 1200 ∧ t.host.fbPoint = 5 ∧ t.host.fallback = false

namespace Sys2Proof.Machine

/-! ### The whole machine -/

/-- The byte at a canonical address in a core's instruction cache (16 R350). -/
def icacheByte (s : State) (core gasid va : Nat) : Option Byte :=
  if canonicalVa (dword va) then
    (klook s.icache (core * 2 ^ 61 + lineKey gasid va)).map fun (d : BitVec 1024) => ((d >>> (8 * (va % 128))).setWidth 8 : Byte)
  else none

/-- Words of several families, as the spec's own examples and encoding tables write them, with the instructions they encode. -/
noncomputable def writtenWords : List (Nat × Instr) :=
  let h : Hdr := { s := false, p := 7, n := false }
  [(0x618487D9, .ldUB32 { h := h, i := 3, b := 1, d := 8 }),
   (0x231057DD, .waitc { h := h, cmp := 1, za := 3, se := 4, sm := 5 }),
   (0x404057FD, .rdpr { h := h, i := 0x10, a := 5 }),
   (0x444067FD, .wrpr { h := h, i := 0x10, a := 6 }),
   (0x480007FD, .tret h),
   (0x4C0077FD, .tqpop { h := h, a := 7 }),
   (0x500087FD, .halt { h := h, a := 8 }),
   (0x540087FD, .resume { h := h, a := 8 }),
   (0x580097FD, .cswap { h := h, a := 9 }),
   (0x5C0047FD, .tlbinv { h := h, a := 4 }),
   (0x6000A7FD, .dbgh { h := h, a := 10 }),
   (0x6400A7FD, .dbgr { h := h, a := 10 }),
   (0x680007FD, .wdog h),
   (0x6C00B7FD, .hint { h := h, a := 11 }),
   (0x7000C7FD, .catw { h := h, a := 12 })]

end Sys2Proof.Machine

/-- When the bytes at the PC of the path of the team whose turn it is among a core's ready teams decode to a well-formed
instruction that the team may issue, the step is the meaning of that instruction, performed by that path after time has passed
and the line that fetching it asks for ahead has been asked for; an instruction that did not stall arms its path's breakpoints
again and is counted by a causal trial (02 R46, 03 R61, 16 R349, R350, 18 R388, R392). -/
def Obligations.StepRunsTheDecodedInstruction : Prop :=
  ∀ (s s1 : State) (core tk : Nat) (rest : List Move) (x : Issuer) (i : Instr) (bs : List Byte),
    s.agenda = .issue core :: rest →
    let s0 := { s.tick with agenda := rest }
    coreChoice s0 (readyTeams s0) core = some tk → chooseIssuer s0 tk = (s1, some x) → bpHit s1 x = none →
    decode bs = .ok (i, []) → WellFormed i = true →
    (∀ k, k < bs.length → icacheByte s1 x.t.core (x.agent s1).gasid (x.path.pc + BitVec.ofNat 64 k).toNat = bs[k]?) →
    x.path.pc.toNat % 2 = 0 → (i.privileged = true → x.t.sup = true) → regsFit x.t i = true →
    earlyUnassigned s1 (leNat bs) = false → lacksToken x i = false →
    let s2 := attempted (fetchAhead s1 x (leNat bs)) x
    let s3 := { s2 with cur := some (x.tk, x.pi), lastSlot := dput 15 s2.lastSlot x.t.core x.t.slot }
    step s = match exec i s3 with
      | .next u => .next (countIssued s3 u)
      | o => o

/-- The words of writtenWords, laid out in memory, decode to their instructions and no bytes are left over (03 R61-R85). -/
def Obligations.WordsDecodeAsWritten : Prop :=
  ∀ e ∈ writtenWords, decode ((List.range 4).map fun k => BitVec.ofNat 8 (e.1 / 256 ^ k)) = .ok (e.2, [])

/-- Decoding the bytes of any well-formed instruction gives it back with every operand, and leaves what follows (03 R61-R85). -/
def Obligations.DecodeInvertsEncode : Prop :=
  ∀ (i : Instr) (rest : List Byte), WellFormed i = true → decode (encode i ++ rest) = .ok (i, rest)

/-- Bytes that decode are the encoding of what they decode to, so that no two encodings mean one instruction and no bit is
dropped (03 R61-R85). -/
def Obligations.EncodeInvertsDecode : Prop :=
  ∀ (bs rest : List Byte) (i : Instr), decode bs = .ok (i, rest) → encode i ++ rest = bs ∧ i.encoded = true

/-- Every step keeps device, host and peer memory in canonical form (00 R1, 17 R359). -/
def Obligations.EveryStepKeepsMemoryCanonical : Prop :=
  ∀ s t : State, s.memWf = true → step s = .next t → t.memWf = true

/-- The state after reset: canonical memories that read zero (log 1), no team, grid, cohort or command, every partition
disabled, and the module's registers at the values that the register table gives (20 R403, R404, R407). -/
def Obligations.ResetIsAsTheTablesSay : Prop :=
  State.reset.memWf = true ∧ (∀ loc pa, State.reset.physByte loc pa = [0]) ∧ (∀ k, State.reset.team k = none) ∧
    (∀ k, State.reset.grid k = none) ∧ State.reset.cmds = [] ∧ (∀ pn, (State.reset.part pn).enable = false) ∧
    (∀ e ∈ [(0x000, 0x4A4B4000), (0x004, 0), (0x00C, 0), (0x010, 0xFF), (0x014, 0), (0x018, 0), (0x01C, 4096), (0x020, 0),
        (0x024, 0), (0x028, 0), (0x2000, 2900), (0x2004, 0), (0x2008, 1200 * 65536 + 5)],
      readBar State.reset e.1 = word e.2) ∧
    ∀ pn k off, pn < 8 → k < 4 → off < 6 → readBar State.reset (0x10000 + 0x10000 * pn + 32 * k + 4 * off) = 0

/-- s0, z0, p7 and q3 are fixed: s0 and z0 read zero, p7 and q3 true, and a write to one is discarded, while s1 alone is an
ordinary register; instructions that write them complete like any other (03 R68). -/
def Obligations.FixedRegistersHold : Prop :=
  (∀ t : Team, t.sr 0 = 0 ∧ t.zr 0 = 0 ∧ (∀ l, t.pr 7 l = true) ∧ t.qr 3 = true) ∧
  (∀ (t : Team) (x : Word) (b : Bool) (l : Nat), t.write (.s 0 x) = t ∧ t.write (.p 7 l b) = t ∧ t.write (.q 3 b) = t ∧
    (t.write (.s 1 x)).sr 1 = x) ∧
  (∀ (t : Team) (x : Dword), t.writes (zWrites 0 x) = t) ∧
  (∀ (f : LI) (g : CL) (s : State) (x : Issuer), s.issuer = some x → f.d = 0 → g.w = 0 →
    (∃ t t', exec (.moviUniform f) s = .next t ∧ OnlyTeam s x.tk t t' ∧ t' = { x.t with paths := t'.paths } ∧ Moved x 4 f.h.s t') ∧
    ∃ t t', exec (.adr g) s = .next t ∧ OnlyTeam s x.tk t t' ∧ t' = { x.t with paths := t'.paths } ∧ Moved x 4 g.h.s t') ∧
  ∀ (f : PC) (s : State) (x : Issuer), s.issuer = some x → f.pd = 7 → f.cc.toNat < 6 →
    ∃ t t', exec (.setp f) s = .next t ∧ OnlyTeam s x.tk t t' ∧ t' = { x.t with paths := t'.paths } ∧ Moved x 4 f.h.s t'

/-- SVLIM guards the supervisor: after SVLIM x 1,024 clocks without wdog the host is alerted and the supervisor continues
unchanged; SVLIM 0 disables the check (15 R334). -/
def Obligations.SvlimGuardsTheSupervisor : Prop :=
  ∀ (s : State) (pn : Nat), hasSupervisor s pn = true →
    let lim := ((s.part pn).reg 0x12).toNat
    (lim ≠ 0 → (s.part pn).wdogAt + lim * 1024 ≤ s.clock →
      ∃ t, exec (.supervisorWatchdogExpiry pn) s = .next t ∧ t.host.alert.getLsbD 5 = true ∧
        (s.host.alerten.getLsbD 5 = true → t.irqs = s.irqs ++ [0]) ∧ ∀ k, t.team k = s.team k) ∧
    (lim = 0 ∨ s.clock < (s.part pn).wdogAt + lim * 1024 → exec (.supervisorWatchdogExpiry pn) s = .next s)

/-- In the fallback state writes of PSCMD, LINKCMD and PWRCAP are accepted but not applied: the register takes the value, and
no operating point, width, pending command or power limit changes. FBCTL.EXIT leaves the state, the last value of every
command register is then the one pending with the sequencer, which applies it as R408 says (O47), and the power limit is the
last value of PWRCAP (20 R410). With STAGE 15 these registers answer no write (20 R416; O47). That a write of PSCMD breaks the
clock locks of its die in that state too is the model's reading of R411 (log 28); its clause is stated while the catalogue takes
no record. -/
def Obligations.FallbackHoldsBackTheCommands : Prop :=
  ∀ s : State, s.host.fallback = true → s.host.stage ≠ 15 →
    (∀ die val, die < 4 → val.toNat % 16 ≤ 6 → (∀ pn, (s.part pn).catOff = true) →
      ∃ t, exec (.pscmdWrite die val) s = .next t ∧ t.host.lastPoint die = val.toNat % 16 ∧
        t = { s with host := { s.host with pscmd := t.host.pscmd }, parts := t.parts } ∧
        ∀ pn, t.part pn = lockAfter s (.pscmdWrite die val) pn (s.part pn)) ∧
    (∀ link val, link < 15 → ∃ t, exec (.linkcmdWrite link val) s = .next t ∧
      t.host.lastWidth link = val.toNat % 4 ∧ t = { s with host := { s.host with linkcmd := t.host.linkcmd } }) ∧
    (∀ val, ∃ t, exec (.pwrcapWrite val) s = .next t ∧ t.host.pwrcap.toNat = val.toNat % 4096 ∧ poolSize t = poolSize s ∧
      t = { s with host := { s.host with pwrcap := t.host.pwrcap } }) ∧
    ∀ val, val.getLsbD 4 = true → ∃ t, exec (.fallbackExit val) s = .next t ∧ t.host.fallback = false ∧
      (∀ d v, d < 4 → ((false, d, v) ∈ t.host.pending ↔ v = s.host.lastPoint d)) ∧
      (∀ l v, l < 15 → ((true, l, v) ∈ t.host.pending ↔ v = s.host.lastWidth l)) ∧ t.host.points = s.host.points ∧
      t.host.widths = s.host.widths ∧ poolSize t = 512 * min s.host.pwrcap.toNat 2900 / 2900
end

