-- ==== Sys2Proof/Laws/Sparse.lean ====
section
/-!
SUPPORT. What the operations on keyed collections do, read through klook and dget, and that they keep the canonical form.
-/
namespace Sys2Proof.Machine

variable {α : Type}

/-! ### Reading after an update -/

theorem klook_kput (m : List (Nat × α)) (k j : Nat) (x : α) :
    klook (kput m k x) j = if j = k then some x else klook m j := by
  induction m with
  | nil => simp only [kput, klook]
  | cons e t ih =>
    obtain ⟨a, y⟩ := e
    by_cases h1 : k < a
    · simp only [kput, if_pos h1, klook]
    · by_cases h2 : k = a
      · subst h2
        by_cases hj : j = k <;> simp [kput, klook, hj]
      · simp only [kput, if_neg h1, if_neg h2, klook, ih]
        by_cases hj : j = a
        · subst hj; simp [Ne.symm h2]
        · simp [hj]

theorem klook_kdel (m : List (Nat × α)) (k j : Nat) :
    klook (kdel m k) j = if j = k then none else klook m j := by
  induction m with
  | nil => simp [kdel, klook]
  | cons e t ih =>
    obtain ⟨a, y⟩ := e
    by_cases h : k = a
    · subst h
      by_cases hj : j = k
      · subst hj; simp [kdel, ih]
      · simp [kdel, klook, ih, hj]
    · by_cases hj : j = a
      · subst hj; simp [kdel, klook, h, Ne.symm h]
      · simp [kdel, klook, h, hj, ih]

theorem klook_kmod (m : List (Nat × α)) (k j : Nat) (f : α → α) :
    klook (kmod m k f) j = if j = k then (klook m k).map f else klook m j := by
  induction m with
  | nil => simp [kmod, klook]
  | cons e t ih =>
    obtain ⟨a, y⟩ := e
    by_cases h : k = a
    · subst h
      by_cases hj : j = k <;> simp [kmod, klook, hj]
    · by_cases hj : j = a
      · subst hj; simp [kmod, klook, h, Ne.symm h]
      · simp [kmod, klook, h, hj, ih]

theorem dget_dput [DecidableEq α] (d : α) (m : List (Nat × α)) (k j : Nat) (x : α) :
    dget d (dput d m k x) j = if j = k then x else dget d m j := by
  by_cases hx : x = d
  · by_cases hj : j = k <;> simp [dget, dput, hx, klook_kdel, hj]
  · by_cases hj : j = k <;> simp [dget, dput, hx, klook_kput, hj]

@[simp] theorem dget_dput_self [DecidableEq α] (d : α) (m : List (Nat × α)) (k : Nat) (x : α) :
    dget d (dput d m k x) k = x := by rw [dget_dput, if_pos rfl]

theorem dget_dput_ne [DecidableEq α] (d : α) (m : List (Nat × α)) {k j : Nat} (x : α) (h : j ≠ k) :
    dget d (dput d m k x) j = dget d m j := by rw [dget_dput, if_neg h]

/-! ### The canonical form -/

/-- Keys above a bound strictly rise above a lower one too. -/
theorem risingFrom_mono {b c : Nat} (hbc : b ≤ c) (m : List (Nat × α)) (h : risingFrom (some c) m = true) :
    risingFrom (some b) m = true := by
  cases m with
  | nil => rfl
  | cons e t =>
    obtain ⟨a, y⟩ := e
    simp only [risingFrom, Bool.and_eq_true, decide_eq_true_eq] at h ⊢
    exact ⟨by omega, h.2⟩

theorem risingFrom_none_of_some {b : Nat} (m : List (Nat × α)) (h : risingFrom (some b) m = true) :
    risingFrom none m = true := by
  cases m with
  | nil => rfl
  | cons e t =>
    obtain ⟨a, y⟩ := e
    simp only [risingFrom, Bool.and_eq_true] at h ⊢
    exact h.2

theorem risingFrom_kput {b : Nat} (m : List (Nat × α)) (k : Nat) (x : α) (hb : b < k)
    (h : risingFrom (some b) m = true) : risingFrom (some b) (kput m k x) = true := by
  induction m generalizing b with
  | nil => simp [kput, risingFrom, hb]
  | cons e t ih =>
    obtain ⟨a, y⟩ := e
    simp only [risingFrom, Bool.and_eq_true, decide_eq_true_eq] at h
    by_cases h1 : k < a
    · simp [kput, h1, risingFrom, hb, h.2]
    · by_cases h2 : k = a
      · subst h2; simp [kput, risingFrom, hb, h.2]
      · have : a < k := by omega
        simp [kput, h1, h2, risingFrom, h.1, ih this h.2]

theorem risingFrom_none_kput (m : List (Nat × α)) (k : Nat) (x : α) (h : risingFrom none m = true) :
    risingFrom none (kput m k x) = true := by
  cases m with
  | nil => rfl
  | cons e t =>
    obtain ⟨a, y⟩ := e
    simp only [risingFrom] at h
    by_cases h1 : k < a
    · simp [kput, h1, risingFrom, h]
    · by_cases h2 : k = a
      · subst h2; simp [kput, risingFrom, h]
      · simp [kput, h1, h2, risingFrom, risingFrom_kput t k x (by omega) h]

theorem risingFrom_kdel {b : Nat} (m : List (Nat × α)) (k : Nat) (h : risingFrom (some b) m = true) :
    risingFrom (some b) (kdel m k) = true := by
  induction m generalizing b with
  | nil => rfl
  | cons e t ih =>
    obtain ⟨a, y⟩ := e
    simp only [risingFrom, Bool.and_eq_true, decide_eq_true_eq] at h
    by_cases hk : k = a
    · simp only [kdel, hk, if_true]
      rw [← hk]
      exact ih (risingFrom_mono (by omega) t h.2)
    · simp [kdel, hk, risingFrom, h.1, ih h.2]

theorem risingFrom_none_kdel (m : List (Nat × α)) (k : Nat) (h : risingFrom none m = true) :
    risingFrom none (kdel m k) = true := by
  cases m with
  | nil => rfl
  | cons e t =>
    obtain ⟨a, y⟩ := e
    simp only [risingFrom] at h
    by_cases hk : k = a
    · simp only [kdel, hk, if_true]
      rw [← hk]
      exact risingFrom_none_of_some _ (risingFrom_kdel t k h)
    · simp [kdel, hk, risingFrom, risingFrom_kdel t k h]

theorem mem_kput {m : List (Nat × α)} {k : Nat} {x : α} {c : Nat × α} (h : c ∈ kput m k x) : c = (k, x) ∨ c ∈ m := by
  induction m with
  | nil => simp [kput] at h; exact .inl h
  | cons e t ih =>
    obtain ⟨a, y⟩ := e
    by_cases h1 : k < a
    · simp [kput, h1] at h
      simpa using h
    · by_cases h2 : k = a
      · simp [kput, h2] at h
        rcases h with h | h
        · exact .inl (by rw [h, h2])
        · exact .inr (by simp [h])
      · simp [kput, h1, h2] at h
        rcases h with h | h
        · exact .inr (by simp [h])
        · rcases ih h with h | h
          · exact .inl h
          · exact .inr (by simp [h])

theorem mem_kdel {m : List (Nat × α)} {k : Nat} {c : Nat × α} (h : c ∈ kdel m k) : c ∈ m := by
  induction m with
  | nil => simp [kdel] at h
  | cons e t ih =>
    obtain ⟨a, y⟩ := e
    by_cases hk : k = a
    · simp [kdel, hk] at h
      rw [← hk] at h
      exact List.mem_cons_of_mem _ (ih h)
    · simp [kdel, hk] at h
      rcases h with h | h
      · simp [h]
      · exact List.mem_cons_of_mem _ (ih h)

/-- Writing one value keeps the canonical form. -/
theorem canonical_dput [DecidableEq α] (d : α) (m : List (Nat × α)) (k : Nat) (x : α) (h : canonical d m = true) :
    canonical d (dput d m k x) = true := by
  simp only [canonical, Bool.and_eq_true, List.all_eq_true, decide_eq_true_eq] at h ⊢
  by_cases hx : x = d
  · simp only [dput, hx, if_true]
    exact ⟨risingFrom_none_kdel m k h.1, fun c hc => h.2 c (mem_kdel hc)⟩
  · simp only [dput, hx, if_false]
    refine ⟨risingFrom_none_kput m k x h.1, fun c hc => ?_⟩
    rcases mem_kput hc with rfl | hc
    · exact hx
    · exact h.2 c hc

end Sys2Proof.Machine
end

