-- ==== Sys2Proof/Laws/State.lean ====
section
/-!
SUPPORT. One lemma for each field of State and each of its named updates, and what the lookups by key read after them.
-/
namespace Sys2Proof.Machine

/-! ### State.setTeam -/

@[simp] theorem State.setTeam_agenda (s : State) (tk : Nat) (t : Team) : (s.setTeam tk t).agenda = s.agenda := rfl
@[simp] theorem State.setTeam_turn (s : State) (tk : Nat) (t : Team) : (s.setTeam tk t).turn = s.turn := rfl
@[simp] theorem State.setTeam_cur (s : State) (tk : Nat) (t : Team) : (s.setTeam tk t).cur = s.cur := rfl
@[simp] theorem State.setTeam_fresh (s : State) (tk : Nat) (t : Team) : (s.setTeam tk t).fresh = s.fresh := rfl
@[simp] theorem State.setTeam_steps (s : State) (tk : Nat) (t : Team) : (s.setTeam tk t).steps = s.steps := rfl
@[simp] theorem State.setTeam_nextSeq (s : State) (tk : Nat) (t : Team) : (s.setTeam tk t).nextSeq = s.nextSeq := rfl
@[simp] theorem State.setTeam_nextTrap (s : State) (tk : Nat) (t : Team) : (s.setTeam tk t).nextTrap = s.nextTrap := rfl
@[simp] theorem State.setTeam_nextCid (s : State) (tk : Nat) (t : Team) : (s.setTeam tk t).nextCid = s.nextCid := rfl
@[simp] theorem State.setTeam_nextCmd (s : State) (tk : Nat) (t : Team) : (s.setTeam tk t).nextCmd = s.nextCmd := rfl
@[simp] theorem State.setTeam_clock (s : State) (tk : Nat) (t : Team) : (s.setTeam tk t).clock = s.clock := rfl
@[simp] theorem State.setTeam_phase (s : State) (tk : Nat) (t : Team) : (s.setTeam tk t).phase = s.phase := rfl
@[simp] theorem State.setTeam_ticket (s : State) (tk : Nat) (t : Team) : (s.setTeam tk t).ticket = s.ticket := rfl
@[simp] theorem State.setTeam_teams (s : State) (tk : Nat) (t : Team) : (s.setTeam tk t).teams = kput s.teams tk t := rfl
@[simp] theorem State.setTeam_cohorts (s : State) (tk : Nat) (t : Team) : (s.setTeam tk t).cohorts = s.cohorts := rfl
@[simp] theorem State.setTeam_grids (s : State) (tk : Nat) (t : Team) : (s.setTeam tk t).grids = s.grids := rfl
@[simp] theorem State.setTeam_cmds (s : State) (tk : Nat) (t : Team) : (s.setTeam tk t).cmds = s.cmds := rfl
@[simp] theorem State.setTeam_waits (s : State) (tk : Nat) (t : Team) : (s.setTeam tk t).waits = s.waits := rfl
@[simp] theorem State.setTeam_fills (s : State) (tk : Nat) (t : Team) : (s.setTeam tk t).fills = s.fills := rfl
@[simp] theorem State.setTeam_replies (s : State) (tk : Nat) (t : Team) : (s.setTeam tk t).replies = s.replies := rfl
@[simp] theorem State.setTeam_mails (s : State) (tk : Nat) (t : Team) : (s.setTeam tk t).mails = s.mails := rfl
@[simp] theorem State.setTeam_parts (s : State) (tk : Nat) (t : Team) : (s.setTeam tk t).parts = s.parts := rfl
@[simp] theorem State.setTeam_rings (s : State) (tk : Nat) (t : Team) : (s.setTeam tk t).rings = s.rings := rfl
@[simp] theorem State.setTeam_hbm (s : State) (tk : Nat) (t : Team) : (s.setTeam tk t).hbm = s.hbm := rfl
@[simp] theorem State.setTeam_hostMem (s : State) (tk : Nat) (t : Team) : (s.setTeam tk t).hostMem = s.hostMem := rfl
@[simp] theorem State.setTeam_peerMem (s : State) (tk : Nat) (t : Team) : (s.setTeam tk t).peerMem = s.peerMem := rfl
@[simp] theorem State.setTeam_lines (s : State) (tk : Nat) (t : Team) : (s.setTeam tk t).lines = s.lines := rfl
@[simp] theorem State.setTeam_copies (s : State) (tk : Nat) (t : Team) : (s.setTeam tk t).copies = s.copies := rfl
@[simp] theorem State.setTeam_dieCaches (s : State) (tk : Nat) (t : Team) : (s.setTeam tk t).dieCaches = s.dieCaches := rfl
@[simp] theorem State.setTeam_badReads (s : State) (tk : Nat) (t : Team) : (s.setTeam tk t).badReads = s.badReads := rfl
@[simp] theorem State.setTeam_away (s : State) (tk : Nat) (t : Team) : (s.setTeam tk t).away = s.away := rfl
@[simp] theorem State.setTeam_icache (s : State) (tk : Nat) (t : Team) : (s.setTeam tk t).icache = s.icache := rfl
@[simp] theorem State.setTeam_pods (s : State) (tk : Nat) (t : Team) : (s.setTeam tk t).pods = s.pods := rfl
@[simp] theorem State.setTeam_ghosts (s : State) (tk : Nat) (t : Team) : (s.setTeam tk t).ghosts = s.ghosts := rfl
@[simp] theorem State.setTeam_tlb (s : State) (tk : Nat) (t : Team) : (s.setTeam tk t).tlb = s.tlb := rfl
@[simp] theorem State.setTeam_region (s : State) (tk : Nat) (t : Team) : (s.setTeam tk t).region = s.region := rfl
@[simp] theorem State.setTeam_moves (s : State) (tk : Nat) (t : Team) : (s.setTeam tk t).moves = s.moves := rfl
@[simp] theorem State.setTeam_images (s : State) (tk : Nat) (t : Team) : (s.setTeam tk t).images = s.images := rfl
@[simp] theorem State.setTeam_poison (s : State) (tk : Nat) (t : Team) : (s.setTeam tk t).poison = s.poison := rfl
@[simp] theorem State.setTeam_host (s : State) (tk : Nat) (t : Team) : (s.setTeam tk t).host = s.host := rfl
@[simp] theorem State.setTeam_ports (s : State) (tk : Nat) (t : Team) : (s.setTeam tk t).ports = s.ports := rfl
@[simp] theorem State.setTeam_msix (s : State) (tk : Nat) (t : Team) : (s.setTeam tk t).msix = s.msix := rfl
@[simp] theorem State.setTeam_irqs (s : State) (tk : Nat) (t : Team) : (s.setTeam tk t).irqs = s.irqs := rfl
@[simp] theorem State.setTeam_staging (s : State) (tk : Nat) (t : Team) : (s.setTeam tk t).staging = s.staging := rfl
@[simp] theorem State.setTeam_flash (s : State) (tk : Nat) (t : Team) : (s.setTeam tk t).flash = s.flash := rfl
@[simp] theorem State.setTeam_sends (s : State) (tk : Nat) (t : Team) : (s.setTeam tk t).sends = s.sends := rfl
@[simp] theorem State.setTeam_wire (s : State) (tk : Nat) (t : Team) : (s.setTeam tk t).wire = s.wire := rfl
@[simp] theorem State.setTeam_answers (s : State) (tk : Nat) (t : Team) : (s.setTeam tk t).answers = s.answers := rfl
@[simp] theorem State.setTeam_spdm (s : State) (tk : Nat) (t : Team) : (s.setTeam tk t).spdm = s.spdm := rfl
@[simp] theorem State.setTeam_lastSlot (s : State) (tk : Nat) (t : Team) : (s.setTeam tk t).lastSlot = s.lastSlot := rfl

/-! ### State.modTeam -/

@[simp] theorem State.modTeam_agenda (s : State) (tk : Nat) (f : Team → Team) : (s.modTeam tk f).agenda = s.agenda := rfl
@[simp] theorem State.modTeam_turn (s : State) (tk : Nat) (f : Team → Team) : (s.modTeam tk f).turn = s.turn := rfl
@[simp] theorem State.modTeam_cur (s : State) (tk : Nat) (f : Team → Team) : (s.modTeam tk f).cur = s.cur := rfl
@[simp] theorem State.modTeam_fresh (s : State) (tk : Nat) (f : Team → Team) : (s.modTeam tk f).fresh = s.fresh := rfl
@[simp] theorem State.modTeam_steps (s : State) (tk : Nat) (f : Team → Team) : (s.modTeam tk f).steps = s.steps := rfl
@[simp] theorem State.modTeam_nextSeq (s : State) (tk : Nat) (f : Team → Team) : (s.modTeam tk f).nextSeq = s.nextSeq := rfl
@[simp] theorem State.modTeam_nextTrap (s : State) (tk : Nat) (f : Team → Team) : (s.modTeam tk f).nextTrap = s.nextTrap := rfl
@[simp] theorem State.modTeam_nextCid (s : State) (tk : Nat) (f : Team → Team) : (s.modTeam tk f).nextCid = s.nextCid := rfl
@[simp] theorem State.modTeam_nextCmd (s : State) (tk : Nat) (f : Team → Team) : (s.modTeam tk f).nextCmd = s.nextCmd := rfl
@[simp] theorem State.modTeam_clock (s : State) (tk : Nat) (f : Team → Team) : (s.modTeam tk f).clock = s.clock := rfl
@[simp] theorem State.modTeam_phase (s : State) (tk : Nat) (f : Team → Team) : (s.modTeam tk f).phase = s.phase := rfl
@[simp] theorem State.modTeam_ticket (s : State) (tk : Nat) (f : Team → Team) : (s.modTeam tk f).ticket = s.ticket := rfl
@[simp] theorem State.modTeam_teams (s : State) (tk : Nat) (f : Team → Team) : (s.modTeam tk f).teams = kmod s.teams tk f := rfl
@[simp] theorem State.modTeam_cohorts (s : State) (tk : Nat) (f : Team → Team) : (s.modTeam tk f).cohorts = s.cohorts := rfl
@[simp] theorem State.modTeam_grids (s : State) (tk : Nat) (f : Team → Team) : (s.modTeam tk f).grids = s.grids := rfl
@[simp] theorem State.modTeam_cmds (s : State) (tk : Nat) (f : Team → Team) : (s.modTeam tk f).cmds = s.cmds := rfl
@[simp] theorem State.modTeam_waits (s : State) (tk : Nat) (f : Team → Team) : (s.modTeam tk f).waits = s.waits := rfl
@[simp] theorem State.modTeam_fills (s : State) (tk : Nat) (f : Team → Team) : (s.modTeam tk f).fills = s.fills := rfl
@[simp] theorem State.modTeam_replies (s : State) (tk : Nat) (f : Team → Team) : (s.modTeam tk f).replies = s.replies := rfl
@[simp] theorem State.modTeam_mails (s : State) (tk : Nat) (f : Team → Team) : (s.modTeam tk f).mails = s.mails := rfl
@[simp] theorem State.modTeam_parts (s : State) (tk : Nat) (f : Team → Team) : (s.modTeam tk f).parts = s.parts := rfl
@[simp] theorem State.modTeam_rings (s : State) (tk : Nat) (f : Team → Team) : (s.modTeam tk f).rings = s.rings := rfl
@[simp] theorem State.modTeam_hbm (s : State) (tk : Nat) (f : Team → Team) : (s.modTeam tk f).hbm = s.hbm := rfl
@[simp] theorem State.modTeam_hostMem (s : State) (tk : Nat) (f : Team → Team) : (s.modTeam tk f).hostMem = s.hostMem := rfl
@[simp] theorem State.modTeam_peerMem (s : State) (tk : Nat) (f : Team → Team) : (s.modTeam tk f).peerMem = s.peerMem := rfl
@[simp] theorem State.modTeam_lines (s : State) (tk : Nat) (f : Team → Team) : (s.modTeam tk f).lines = s.lines := rfl
@[simp] theorem State.modTeam_copies (s : State) (tk : Nat) (f : Team → Team) : (s.modTeam tk f).copies = s.copies := rfl
@[simp] theorem State.modTeam_dieCaches (s : State) (tk : Nat) (f : Team → Team) : (s.modTeam tk f).dieCaches = s.dieCaches := rfl
@[simp] theorem State.modTeam_badReads (s : State) (tk : Nat) (f : Team → Team) : (s.modTeam tk f).badReads = s.badReads := rfl
@[simp] theorem State.modTeam_away (s : State) (tk : Nat) (f : Team → Team) : (s.modTeam tk f).away = s.away := rfl
@[simp] theorem State.modTeam_icache (s : State) (tk : Nat) (f : Team → Team) : (s.modTeam tk f).icache = s.icache := rfl
@[simp] theorem State.modTeam_pods (s : State) (tk : Nat) (f : Team → Team) : (s.modTeam tk f).pods = s.pods := rfl
@[simp] theorem State.modTeam_ghosts (s : State) (tk : Nat) (f : Team → Team) : (s.modTeam tk f).ghosts = s.ghosts := rfl
@[simp] theorem State.modTeam_tlb (s : State) (tk : Nat) (f : Team → Team) : (s.modTeam tk f).tlb = s.tlb := rfl
@[simp] theorem State.modTeam_region (s : State) (tk : Nat) (f : Team → Team) : (s.modTeam tk f).region = s.region := rfl
@[simp] theorem State.modTeam_moves (s : State) (tk : Nat) (f : Team → Team) : (s.modTeam tk f).moves = s.moves := rfl
@[simp] theorem State.modTeam_images (s : State) (tk : Nat) (f : Team → Team) : (s.modTeam tk f).images = s.images := rfl
@[simp] theorem State.modTeam_poison (s : State) (tk : Nat) (f : Team → Team) : (s.modTeam tk f).poison = s.poison := rfl
@[simp] theorem State.modTeam_host (s : State) (tk : Nat) (f : Team → Team) : (s.modTeam tk f).host = s.host := rfl
@[simp] theorem State.modTeam_ports (s : State) (tk : Nat) (f : Team → Team) : (s.modTeam tk f).ports = s.ports := rfl
@[simp] theorem State.modTeam_msix (s : State) (tk : Nat) (f : Team → Team) : (s.modTeam tk f).msix = s.msix := rfl
@[simp] theorem State.modTeam_irqs (s : State) (tk : Nat) (f : Team → Team) : (s.modTeam tk f).irqs = s.irqs := rfl
@[simp] theorem State.modTeam_staging (s : State) (tk : Nat) (f : Team → Team) : (s.modTeam tk f).staging = s.staging := rfl
@[simp] theorem State.modTeam_flash (s : State) (tk : Nat) (f : Team → Team) : (s.modTeam tk f).flash = s.flash := rfl
@[simp] theorem State.modTeam_sends (s : State) (tk : Nat) (f : Team → Team) : (s.modTeam tk f).sends = s.sends := rfl
@[simp] theorem State.modTeam_wire (s : State) (tk : Nat) (f : Team → Team) : (s.modTeam tk f).wire = s.wire := rfl
@[simp] theorem State.modTeam_answers (s : State) (tk : Nat) (f : Team → Team) : (s.modTeam tk f).answers = s.answers := rfl
@[simp] theorem State.modTeam_spdm (s : State) (tk : Nat) (f : Team → Team) : (s.modTeam tk f).spdm = s.spdm := rfl
@[simp] theorem State.modTeam_lastSlot (s : State) (tk : Nat) (f : Team → Team) : (s.modTeam tk f).lastSlot = s.lastSlot := rfl

/-! ### State.setPart -/

@[simp] theorem State.setPart_agenda (s : State) (p : Nat) (x : Part) : (s.setPart p x).agenda = s.agenda := rfl
@[simp] theorem State.setPart_turn (s : State) (p : Nat) (x : Part) : (s.setPart p x).turn = s.turn := rfl
@[simp] theorem State.setPart_cur (s : State) (p : Nat) (x : Part) : (s.setPart p x).cur = s.cur := rfl
@[simp] theorem State.setPart_fresh (s : State) (p : Nat) (x : Part) : (s.setPart p x).fresh = s.fresh := rfl
@[simp] theorem State.setPart_steps (s : State) (p : Nat) (x : Part) : (s.setPart p x).steps = s.steps := rfl
@[simp] theorem State.setPart_nextSeq (s : State) (p : Nat) (x : Part) : (s.setPart p x).nextSeq = s.nextSeq := rfl
@[simp] theorem State.setPart_nextTrap (s : State) (p : Nat) (x : Part) : (s.setPart p x).nextTrap = s.nextTrap := rfl
@[simp] theorem State.setPart_nextCid (s : State) (p : Nat) (x : Part) : (s.setPart p x).nextCid = s.nextCid := rfl
@[simp] theorem State.setPart_nextCmd (s : State) (p : Nat) (x : Part) : (s.setPart p x).nextCmd = s.nextCmd := rfl
@[simp] theorem State.setPart_clock (s : State) (p : Nat) (x : Part) : (s.setPart p x).clock = s.clock := rfl
@[simp] theorem State.setPart_phase (s : State) (p : Nat) (x : Part) : (s.setPart p x).phase = s.phase := rfl
@[simp] theorem State.setPart_ticket (s : State) (p : Nat) (x : Part) : (s.setPart p x).ticket = s.ticket := rfl
@[simp] theorem State.setPart_teams (s : State) (p : Nat) (x : Part) : (s.setPart p x).teams = s.teams := rfl
@[simp] theorem State.setPart_cohorts (s : State) (p : Nat) (x : Part) : (s.setPart p x).cohorts = s.cohorts := rfl
@[simp] theorem State.setPart_grids (s : State) (p : Nat) (x : Part) : (s.setPart p x).grids = s.grids := rfl
@[simp] theorem State.setPart_cmds (s : State) (p : Nat) (x : Part) : (s.setPart p x).cmds = s.cmds := rfl
@[simp] theorem State.setPart_waits (s : State) (p : Nat) (x : Part) : (s.setPart p x).waits = s.waits := rfl
@[simp] theorem State.setPart_fills (s : State) (p : Nat) (x : Part) : (s.setPart p x).fills = s.fills := rfl
@[simp] theorem State.setPart_replies (s : State) (p : Nat) (x : Part) : (s.setPart p x).replies = s.replies := rfl
@[simp] theorem State.setPart_mails (s : State) (p : Nat) (x : Part) : (s.setPart p x).mails = s.mails := rfl
@[simp] theorem State.setPart_parts (s : State) (p : Nat) (x : Part) : (s.setPart p x).parts = dput Part.reset s.parts p x := rfl
@[simp] theorem State.setPart_rings (s : State) (p : Nat) (x : Part) : (s.setPart p x).rings = s.rings := rfl
@[simp] theorem State.setPart_hbm (s : State) (p : Nat) (x : Part) : (s.setPart p x).hbm = s.hbm := rfl
@[simp] theorem State.setPart_hostMem (s : State) (p : Nat) (x : Part) : (s.setPart p x).hostMem = s.hostMem := rfl
@[simp] theorem State.setPart_peerMem (s : State) (p : Nat) (x : Part) : (s.setPart p x).peerMem = s.peerMem := rfl
@[simp] theorem State.setPart_lines (s : State) (p : Nat) (x : Part) : (s.setPart p x).lines = s.lines := rfl
@[simp] theorem State.setPart_copies (s : State) (p : Nat) (x : Part) : (s.setPart p x).copies = s.copies := rfl
@[simp] theorem State.setPart_dieCaches (s : State) (p : Nat) (x : Part) : (s.setPart p x).dieCaches = s.dieCaches := rfl
@[simp] theorem State.setPart_badReads (s : State) (p : Nat) (x : Part) : (s.setPart p x).badReads = s.badReads := rfl
@[simp] theorem State.setPart_away (s : State) (p : Nat) (x : Part) : (s.setPart p x).away = s.away := rfl
@[simp] theorem State.setPart_icache (s : State) (p : Nat) (x : Part) : (s.setPart p x).icache = s.icache := rfl
@[simp] theorem State.setPart_pods (s : State) (p : Nat) (x : Part) : (s.setPart p x).pods = s.pods := rfl
@[simp] theorem State.setPart_ghosts (s : State) (p : Nat) (x : Part) : (s.setPart p x).ghosts = s.ghosts := rfl
@[simp] theorem State.setPart_tlb (s : State) (p : Nat) (x : Part) : (s.setPart p x).tlb = s.tlb := rfl
@[simp] theorem State.setPart_region (s : State) (p : Nat) (x : Part) : (s.setPart p x).region = s.region := rfl
@[simp] theorem State.setPart_moves (s : State) (p : Nat) (x : Part) : (s.setPart p x).moves = s.moves := rfl
@[simp] theorem State.setPart_images (s : State) (p : Nat) (x : Part) : (s.setPart p x).images = s.images := rfl
@[simp] theorem State.setPart_poison (s : State) (p : Nat) (x : Part) : (s.setPart p x).poison = s.poison := rfl
@[simp] theorem State.setPart_host (s : State) (p : Nat) (x : Part) : (s.setPart p x).host = s.host := rfl
@[simp] theorem State.setPart_ports (s : State) (p : Nat) (x : Part) : (s.setPart p x).ports = s.ports := rfl
@[simp] theorem State.setPart_msix (s : State) (p : Nat) (x : Part) : (s.setPart p x).msix = s.msix := rfl
@[simp] theorem State.setPart_irqs (s : State) (p : Nat) (x : Part) : (s.setPart p x).irqs = s.irqs := rfl
@[simp] theorem State.setPart_staging (s : State) (p : Nat) (x : Part) : (s.setPart p x).staging = s.staging := rfl
@[simp] theorem State.setPart_flash (s : State) (p : Nat) (x : Part) : (s.setPart p x).flash = s.flash := rfl
@[simp] theorem State.setPart_sends (s : State) (p : Nat) (x : Part) : (s.setPart p x).sends = s.sends := rfl
@[simp] theorem State.setPart_wire (s : State) (p : Nat) (x : Part) : (s.setPart p x).wire = s.wire := rfl
@[simp] theorem State.setPart_answers (s : State) (p : Nat) (x : Part) : (s.setPart p x).answers = s.answers := rfl
@[simp] theorem State.setPart_spdm (s : State) (p : Nat) (x : Part) : (s.setPart p x).spdm = s.spdm := rfl
@[simp] theorem State.setPart_lastSlot (s : State) (p : Nat) (x : Part) : (s.setPart p x).lastSlot = s.lastSlot := rfl

/-! ### State.modPart -/

@[simp] theorem State.modPart_agenda (s : State) (p : Nat) (f : Part → Part) : (s.modPart p f).agenda = s.agenda := rfl
@[simp] theorem State.modPart_turn (s : State) (p : Nat) (f : Part → Part) : (s.modPart p f).turn = s.turn := rfl
@[simp] theorem State.modPart_cur (s : State) (p : Nat) (f : Part → Part) : (s.modPart p f).cur = s.cur := rfl
@[simp] theorem State.modPart_fresh (s : State) (p : Nat) (f : Part → Part) : (s.modPart p f).fresh = s.fresh := rfl
@[simp] theorem State.modPart_steps (s : State) (p : Nat) (f : Part → Part) : (s.modPart p f).steps = s.steps := rfl
@[simp] theorem State.modPart_nextSeq (s : State) (p : Nat) (f : Part → Part) : (s.modPart p f).nextSeq = s.nextSeq := rfl
@[simp] theorem State.modPart_nextTrap (s : State) (p : Nat) (f : Part → Part) : (s.modPart p f).nextTrap = s.nextTrap := rfl
@[simp] theorem State.modPart_nextCid (s : State) (p : Nat) (f : Part → Part) : (s.modPart p f).nextCid = s.nextCid := rfl
@[simp] theorem State.modPart_nextCmd (s : State) (p : Nat) (f : Part → Part) : (s.modPart p f).nextCmd = s.nextCmd := rfl
@[simp] theorem State.modPart_clock (s : State) (p : Nat) (f : Part → Part) : (s.modPart p f).clock = s.clock := rfl
@[simp] theorem State.modPart_phase (s : State) (p : Nat) (f : Part → Part) : (s.modPart p f).phase = s.phase := rfl
@[simp] theorem State.modPart_ticket (s : State) (p : Nat) (f : Part → Part) : (s.modPart p f).ticket = s.ticket := rfl
@[simp] theorem State.modPart_teams (s : State) (p : Nat) (f : Part → Part) : (s.modPart p f).teams = s.teams := rfl
@[simp] theorem State.modPart_cohorts (s : State) (p : Nat) (f : Part → Part) : (s.modPart p f).cohorts = s.cohorts := rfl
@[simp] theorem State.modPart_grids (s : State) (p : Nat) (f : Part → Part) : (s.modPart p f).grids = s.grids := rfl
@[simp] theorem State.modPart_cmds (s : State) (p : Nat) (f : Part → Part) : (s.modPart p f).cmds = s.cmds := rfl
@[simp] theorem State.modPart_waits (s : State) (p : Nat) (f : Part → Part) : (s.modPart p f).waits = s.waits := rfl
@[simp] theorem State.modPart_fills (s : State) (p : Nat) (f : Part → Part) : (s.modPart p f).fills = s.fills := rfl
@[simp] theorem State.modPart_replies (s : State) (p : Nat) (f : Part → Part) : (s.modPart p f).replies = s.replies := rfl
@[simp] theorem State.modPart_mails (s : State) (p : Nat) (f : Part → Part) : (s.modPart p f).mails = s.mails := rfl
@[simp] theorem State.modPart_parts (s : State) (p : Nat) (f : Part → Part) : (s.modPart p f).parts = dput Part.reset s.parts p (f (s.part p)) := rfl
@[simp] theorem State.modPart_rings (s : State) (p : Nat) (f : Part → Part) : (s.modPart p f).rings = s.rings := rfl
@[simp] theorem State.modPart_hbm (s : State) (p : Nat) (f : Part → Part) : (s.modPart p f).hbm = s.hbm := rfl
@[simp] theorem State.modPart_hostMem (s : State) (p : Nat) (f : Part → Part) : (s.modPart p f).hostMem = s.hostMem := rfl
@[simp] theorem State.modPart_peerMem (s : State) (p : Nat) (f : Part → Part) : (s.modPart p f).peerMem = s.peerMem := rfl
@[simp] theorem State.modPart_lines (s : State) (p : Nat) (f : Part → Part) : (s.modPart p f).lines = s.lines := rfl
@[simp] theorem State.modPart_copies (s : State) (p : Nat) (f : Part → Part) : (s.modPart p f).copies = s.copies := rfl
@[simp] theorem State.modPart_dieCaches (s : State) (p : Nat) (f : Part → Part) : (s.modPart p f).dieCaches = s.dieCaches := rfl
@[simp] theorem State.modPart_badReads (s : State) (p : Nat) (f : Part → Part) : (s.modPart p f).badReads = s.badReads := rfl
@[simp] theorem State.modPart_away (s : State) (p : Nat) (f : Part → Part) : (s.modPart p f).away = s.away := rfl
@[simp] theorem State.modPart_icache (s : State) (p : Nat) (f : Part → Part) : (s.modPart p f).icache = s.icache := rfl
@[simp] theorem State.modPart_pods (s : State) (p : Nat) (f : Part → Part) : (s.modPart p f).pods = s.pods := rfl
@[simp] theorem State.modPart_ghosts (s : State) (p : Nat) (f : Part → Part) : (s.modPart p f).ghosts = s.ghosts := rfl
@[simp] theorem State.modPart_tlb (s : State) (p : Nat) (f : Part → Part) : (s.modPart p f).tlb = s.tlb := rfl
@[simp] theorem State.modPart_region (s : State) (p : Nat) (f : Part → Part) : (s.modPart p f).region = s.region := rfl
@[simp] theorem State.modPart_moves (s : State) (p : Nat) (f : Part → Part) : (s.modPart p f).moves = s.moves := rfl
@[simp] theorem State.modPart_images (s : State) (p : Nat) (f : Part → Part) : (s.modPart p f).images = s.images := rfl
@[simp] theorem State.modPart_poison (s : State) (p : Nat) (f : Part → Part) : (s.modPart p f).poison = s.poison := rfl
@[simp] theorem State.modPart_host (s : State) (p : Nat) (f : Part → Part) : (s.modPart p f).host = s.host := rfl
@[simp] theorem State.modPart_ports (s : State) (p : Nat) (f : Part → Part) : (s.modPart p f).ports = s.ports := rfl
@[simp] theorem State.modPart_msix (s : State) (p : Nat) (f : Part → Part) : (s.modPart p f).msix = s.msix := rfl
@[simp] theorem State.modPart_irqs (s : State) (p : Nat) (f : Part → Part) : (s.modPart p f).irqs = s.irqs := rfl
@[simp] theorem State.modPart_staging (s : State) (p : Nat) (f : Part → Part) : (s.modPart p f).staging = s.staging := rfl
@[simp] theorem State.modPart_flash (s : State) (p : Nat) (f : Part → Part) : (s.modPart p f).flash = s.flash := rfl
@[simp] theorem State.modPart_sends (s : State) (p : Nat) (f : Part → Part) : (s.modPart p f).sends = s.sends := rfl
@[simp] theorem State.modPart_wire (s : State) (p : Nat) (f : Part → Part) : (s.modPart p f).wire = s.wire := rfl
@[simp] theorem State.modPart_answers (s : State) (p : Nat) (f : Part → Part) : (s.modPart p f).answers = s.answers := rfl
@[simp] theorem State.modPart_spdm (s : State) (p : Nat) (f : Part → Part) : (s.modPart p f).spdm = s.spdm := rfl
@[simp] theorem State.modPart_lastSlot (s : State) (p : Nat) (f : Part → Part) : (s.modPart p f).lastSlot = s.lastSlot := rfl

/-! ### State.modGrid -/

@[simp] theorem State.modGrid_agenda (s : State) (g : Nat) (f : Grid → Grid) : (s.modGrid g f).agenda = s.agenda := rfl
@[simp] theorem State.modGrid_turn (s : State) (g : Nat) (f : Grid → Grid) : (s.modGrid g f).turn = s.turn := rfl
@[simp] theorem State.modGrid_cur (s : State) (g : Nat) (f : Grid → Grid) : (s.modGrid g f).cur = s.cur := rfl
@[simp] theorem State.modGrid_fresh (s : State) (g : Nat) (f : Grid → Grid) : (s.modGrid g f).fresh = s.fresh := rfl
@[simp] theorem State.modGrid_steps (s : State) (g : Nat) (f : Grid → Grid) : (s.modGrid g f).steps = s.steps := rfl
@[simp] theorem State.modGrid_nextSeq (s : State) (g : Nat) (f : Grid → Grid) : (s.modGrid g f).nextSeq = s.nextSeq := rfl
@[simp] theorem State.modGrid_nextTrap (s : State) (g : Nat) (f : Grid → Grid) : (s.modGrid g f).nextTrap = s.nextTrap := rfl
@[simp] theorem State.modGrid_nextCid (s : State) (g : Nat) (f : Grid → Grid) : (s.modGrid g f).nextCid = s.nextCid := rfl
@[simp] theorem State.modGrid_nextCmd (s : State) (g : Nat) (f : Grid → Grid) : (s.modGrid g f).nextCmd = s.nextCmd := rfl
@[simp] theorem State.modGrid_clock (s : State) (g : Nat) (f : Grid → Grid) : (s.modGrid g f).clock = s.clock := rfl
@[simp] theorem State.modGrid_phase (s : State) (g : Nat) (f : Grid → Grid) : (s.modGrid g f).phase = s.phase := rfl
@[simp] theorem State.modGrid_ticket (s : State) (g : Nat) (f : Grid → Grid) : (s.modGrid g f).ticket = s.ticket := rfl
@[simp] theorem State.modGrid_teams (s : State) (g : Nat) (f : Grid → Grid) : (s.modGrid g f).teams = s.teams := rfl
@[simp] theorem State.modGrid_cohorts (s : State) (g : Nat) (f : Grid → Grid) : (s.modGrid g f).cohorts = s.cohorts := rfl
@[simp] theorem State.modGrid_grids (s : State) (g : Nat) (f : Grid → Grid) : (s.modGrid g f).grids = kmod s.grids g f := rfl
@[simp] theorem State.modGrid_cmds (s : State) (g : Nat) (f : Grid → Grid) : (s.modGrid g f).cmds = s.cmds := rfl
@[simp] theorem State.modGrid_waits (s : State) (g : Nat) (f : Grid → Grid) : (s.modGrid g f).waits = s.waits := rfl
@[simp] theorem State.modGrid_fills (s : State) (g : Nat) (f : Grid → Grid) : (s.modGrid g f).fills = s.fills := rfl
@[simp] theorem State.modGrid_replies (s : State) (g : Nat) (f : Grid → Grid) : (s.modGrid g f).replies = s.replies := rfl
@[simp] theorem State.modGrid_mails (s : State) (g : Nat) (f : Grid → Grid) : (s.modGrid g f).mails = s.mails := rfl
@[simp] theorem State.modGrid_parts (s : State) (g : Nat) (f : Grid → Grid) : (s.modGrid g f).parts = s.parts := rfl
@[simp] theorem State.modGrid_rings (s : State) (g : Nat) (f : Grid → Grid) : (s.modGrid g f).rings = s.rings := rfl
@[simp] theorem State.modGrid_hbm (s : State) (g : Nat) (f : Grid → Grid) : (s.modGrid g f).hbm = s.hbm := rfl
@[simp] theorem State.modGrid_hostMem (s : State) (g : Nat) (f : Grid → Grid) : (s.modGrid g f).hostMem = s.hostMem := rfl
@[simp] theorem State.modGrid_peerMem (s : State) (g : Nat) (f : Grid → Grid) : (s.modGrid g f).peerMem = s.peerMem := rfl
@[simp] theorem State.modGrid_lines (s : State) (g : Nat) (f : Grid → Grid) : (s.modGrid g f).lines = s.lines := rfl
@[simp] theorem State.modGrid_copies (s : State) (g : Nat) (f : Grid → Grid) : (s.modGrid g f).copies = s.copies := rfl
@[simp] theorem State.modGrid_dieCaches (s : State) (g : Nat) (f : Grid → Grid) : (s.modGrid g f).dieCaches = s.dieCaches := rfl
@[simp] theorem State.modGrid_badReads (s : State) (g : Nat) (f : Grid → Grid) : (s.modGrid g f).badReads = s.badReads := rfl
@[simp] theorem State.modGrid_away (s : State) (g : Nat) (f : Grid → Grid) : (s.modGrid g f).away = s.away := rfl
@[simp] theorem State.modGrid_icache (s : State) (g : Nat) (f : Grid → Grid) : (s.modGrid g f).icache = s.icache := rfl
@[simp] theorem State.modGrid_pods (s : State) (g : Nat) (f : Grid → Grid) : (s.modGrid g f).pods = s.pods := rfl
@[simp] theorem State.modGrid_ghosts (s : State) (g : Nat) (f : Grid → Grid) : (s.modGrid g f).ghosts = s.ghosts := rfl
@[simp] theorem State.modGrid_tlb (s : State) (g : Nat) (f : Grid → Grid) : (s.modGrid g f).tlb = s.tlb := rfl
@[simp] theorem State.modGrid_region (s : State) (g : Nat) (f : Grid → Grid) : (s.modGrid g f).region = s.region := rfl
@[simp] theorem State.modGrid_moves (s : State) (g : Nat) (f : Grid → Grid) : (s.modGrid g f).moves = s.moves := rfl
@[simp] theorem State.modGrid_images (s : State) (g : Nat) (f : Grid → Grid) : (s.modGrid g f).images = s.images := rfl
@[simp] theorem State.modGrid_poison (s : State) (g : Nat) (f : Grid → Grid) : (s.modGrid g f).poison = s.poison := rfl
@[simp] theorem State.modGrid_host (s : State) (g : Nat) (f : Grid → Grid) : (s.modGrid g f).host = s.host := rfl
@[simp] theorem State.modGrid_ports (s : State) (g : Nat) (f : Grid → Grid) : (s.modGrid g f).ports = s.ports := rfl
@[simp] theorem State.modGrid_msix (s : State) (g : Nat) (f : Grid → Grid) : (s.modGrid g f).msix = s.msix := rfl
@[simp] theorem State.modGrid_irqs (s : State) (g : Nat) (f : Grid → Grid) : (s.modGrid g f).irqs = s.irqs := rfl
@[simp] theorem State.modGrid_staging (s : State) (g : Nat) (f : Grid → Grid) : (s.modGrid g f).staging = s.staging := rfl
@[simp] theorem State.modGrid_flash (s : State) (g : Nat) (f : Grid → Grid) : (s.modGrid g f).flash = s.flash := rfl
@[simp] theorem State.modGrid_sends (s : State) (g : Nat) (f : Grid → Grid) : (s.modGrid g f).sends = s.sends := rfl
@[simp] theorem State.modGrid_wire (s : State) (g : Nat) (f : Grid → Grid) : (s.modGrid g f).wire = s.wire := rfl
@[simp] theorem State.modGrid_answers (s : State) (g : Nat) (f : Grid → Grid) : (s.modGrid g f).answers = s.answers := rfl
@[simp] theorem State.modGrid_spdm (s : State) (g : Nat) (f : Grid → Grid) : (s.modGrid g f).spdm = s.spdm := rfl
@[simp] theorem State.modGrid_lastSlot (s : State) (g : Nat) (f : Grid → Grid) : (s.modGrid g f).lastSlot = s.lastSlot := rfl

/-! ### State.modCmd -/

@[simp] theorem State.modCmd_agenda (s : State) (id : Nat) (f : Cmd → Cmd) : (s.modCmd id f).agenda = s.agenda := rfl
@[simp] theorem State.modCmd_turn (s : State) (id : Nat) (f : Cmd → Cmd) : (s.modCmd id f).turn = s.turn := rfl
@[simp] theorem State.modCmd_cur (s : State) (id : Nat) (f : Cmd → Cmd) : (s.modCmd id f).cur = s.cur := rfl
@[simp] theorem State.modCmd_fresh (s : State) (id : Nat) (f : Cmd → Cmd) : (s.modCmd id f).fresh = s.fresh := rfl
@[simp] theorem State.modCmd_steps (s : State) (id : Nat) (f : Cmd → Cmd) : (s.modCmd id f).steps = s.steps := rfl
@[simp] theorem State.modCmd_nextSeq (s : State) (id : Nat) (f : Cmd → Cmd) : (s.modCmd id f).nextSeq = s.nextSeq := rfl
@[simp] theorem State.modCmd_nextTrap (s : State) (id : Nat) (f : Cmd → Cmd) : (s.modCmd id f).nextTrap = s.nextTrap := rfl
@[simp] theorem State.modCmd_nextCid (s : State) (id : Nat) (f : Cmd → Cmd) : (s.modCmd id f).nextCid = s.nextCid := rfl
@[simp] theorem State.modCmd_nextCmd (s : State) (id : Nat) (f : Cmd → Cmd) : (s.modCmd id f).nextCmd = s.nextCmd := rfl
@[simp] theorem State.modCmd_clock (s : State) (id : Nat) (f : Cmd → Cmd) : (s.modCmd id f).clock = s.clock := rfl
@[simp] theorem State.modCmd_phase (s : State) (id : Nat) (f : Cmd → Cmd) : (s.modCmd id f).phase = s.phase := rfl
@[simp] theorem State.modCmd_ticket (s : State) (id : Nat) (f : Cmd → Cmd) : (s.modCmd id f).ticket = s.ticket := rfl
@[simp] theorem State.modCmd_teams (s : State) (id : Nat) (f : Cmd → Cmd) : (s.modCmd id f).teams = s.teams := rfl
@[simp] theorem State.modCmd_cohorts (s : State) (id : Nat) (f : Cmd → Cmd) : (s.modCmd id f).cohorts = s.cohorts := rfl
@[simp] theorem State.modCmd_grids (s : State) (id : Nat) (f : Cmd → Cmd) : (s.modCmd id f).grids = s.grids := rfl
@[simp] theorem State.modCmd_cmds (s : State) (id : Nat) (f : Cmd → Cmd) : (s.modCmd id f).cmds = s.cmds.map fun c => if c.id = id then f c else c := rfl
@[simp] theorem State.modCmd_waits (s : State) (id : Nat) (f : Cmd → Cmd) : (s.modCmd id f).waits = s.waits := rfl
@[simp] theorem State.modCmd_fills (s : State) (id : Nat) (f : Cmd → Cmd) : (s.modCmd id f).fills = s.fills := rfl
@[simp] theorem State.modCmd_replies (s : State) (id : Nat) (f : Cmd → Cmd) : (s.modCmd id f).replies = s.replies := rfl
@[simp] theorem State.modCmd_mails (s : State) (id : Nat) (f : Cmd → Cmd) : (s.modCmd id f).mails = s.mails := rfl
@[simp] theorem State.modCmd_parts (s : State) (id : Nat) (f : Cmd → Cmd) : (s.modCmd id f).parts = s.parts := rfl
@[simp] theorem State.modCmd_rings (s : State) (id : Nat) (f : Cmd → Cmd) : (s.modCmd id f).rings = s.rings := rfl
@[simp] theorem State.modCmd_hbm (s : State) (id : Nat) (f : Cmd → Cmd) : (s.modCmd id f).hbm = s.hbm := rfl
@[simp] theorem State.modCmd_hostMem (s : State) (id : Nat) (f : Cmd → Cmd) : (s.modCmd id f).hostMem = s.hostMem := rfl
@[simp] theorem State.modCmd_peerMem (s : State) (id : Nat) (f : Cmd → Cmd) : (s.modCmd id f).peerMem = s.peerMem := rfl
@[simp] theorem State.modCmd_lines (s : State) (id : Nat) (f : Cmd → Cmd) : (s.modCmd id f).lines = s.lines := rfl
@[simp] theorem State.modCmd_copies (s : State) (id : Nat) (f : Cmd → Cmd) : (s.modCmd id f).copies = s.copies := rfl
@[simp] theorem State.modCmd_dieCaches (s : State) (id : Nat) (f : Cmd → Cmd) : (s.modCmd id f).dieCaches = s.dieCaches := rfl
@[simp] theorem State.modCmd_badReads (s : State) (id : Nat) (f : Cmd → Cmd) : (s.modCmd id f).badReads = s.badReads := rfl
@[simp] theorem State.modCmd_away (s : State) (id : Nat) (f : Cmd → Cmd) : (s.modCmd id f).away = s.away := rfl
@[simp] theorem State.modCmd_icache (s : State) (id : Nat) (f : Cmd → Cmd) : (s.modCmd id f).icache = s.icache := rfl
@[simp] theorem State.modCmd_pods (s : State) (id : Nat) (f : Cmd → Cmd) : (s.modCmd id f).pods = s.pods := rfl
@[simp] theorem State.modCmd_ghosts (s : State) (id : Nat) (f : Cmd → Cmd) : (s.modCmd id f).ghosts = s.ghosts := rfl
@[simp] theorem State.modCmd_tlb (s : State) (id : Nat) (f : Cmd → Cmd) : (s.modCmd id f).tlb = s.tlb := rfl
@[simp] theorem State.modCmd_region (s : State) (id : Nat) (f : Cmd → Cmd) : (s.modCmd id f).region = s.region := rfl
@[simp] theorem State.modCmd_moves (s : State) (id : Nat) (f : Cmd → Cmd) : (s.modCmd id f).moves = s.moves := rfl
@[simp] theorem State.modCmd_images (s : State) (id : Nat) (f : Cmd → Cmd) : (s.modCmd id f).images = s.images := rfl
@[simp] theorem State.modCmd_poison (s : State) (id : Nat) (f : Cmd → Cmd) : (s.modCmd id f).poison = s.poison := rfl
@[simp] theorem State.modCmd_host (s : State) (id : Nat) (f : Cmd → Cmd) : (s.modCmd id f).host = s.host := rfl
@[simp] theorem State.modCmd_ports (s : State) (id : Nat) (f : Cmd → Cmd) : (s.modCmd id f).ports = s.ports := rfl
@[simp] theorem State.modCmd_msix (s : State) (id : Nat) (f : Cmd → Cmd) : (s.modCmd id f).msix = s.msix := rfl
@[simp] theorem State.modCmd_irqs (s : State) (id : Nat) (f : Cmd → Cmd) : (s.modCmd id f).irqs = s.irqs := rfl
@[simp] theorem State.modCmd_staging (s : State) (id : Nat) (f : Cmd → Cmd) : (s.modCmd id f).staging = s.staging := rfl
@[simp] theorem State.modCmd_flash (s : State) (id : Nat) (f : Cmd → Cmd) : (s.modCmd id f).flash = s.flash := rfl
@[simp] theorem State.modCmd_sends (s : State) (id : Nat) (f : Cmd → Cmd) : (s.modCmd id f).sends = s.sends := rfl
@[simp] theorem State.modCmd_wire (s : State) (id : Nat) (f : Cmd → Cmd) : (s.modCmd id f).wire = s.wire := rfl
@[simp] theorem State.modCmd_answers (s : State) (id : Nat) (f : Cmd → Cmd) : (s.modCmd id f).answers = s.answers := rfl
@[simp] theorem State.modCmd_spdm (s : State) (id : Nat) (f : Cmd → Cmd) : (s.modCmd id f).spdm = s.spdm := rfl
@[simp] theorem State.modCmd_lastSlot (s : State) (id : Nat) (f : Cmd → Cmd) : (s.modCmd id f).lastSlot = s.lastSlot := rfl

/-! ### Lookups by key -/

@[simp] theorem State.team_setTeam (s : State) (tk k : Nat) (t : Team) :
    (s.setTeam tk t).team k = if k = tk then some t else s.team k := klook_kput _ _ _ _

@[simp] theorem State.team_modTeam (s : State) (tk k : Nat) (f : Team → Team) :
    (s.modTeam tk f).team k = if k = tk then (s.team tk).map f else s.team k := klook_kmod _ _ _ _

@[simp] theorem State.team_modPart (s : State) (p k : Nat) (f : Part → Part) : (s.modPart p f).team k = s.team k := rfl

@[simp] theorem State.part_setPart (s : State) (p k : Nat) (x : Part) :
    (s.setPart p x).part k = if k = p then x else s.part k := dget_dput _ _ _ _ _

@[simp] theorem State.part_modPart (s : State) (p k : Nat) (f : Part → Part) :
    (s.modPart p f).part k = if k = p then f (s.part p) else s.part k := dget_dput _ _ _ _ _

@[simp] theorem State.part_modTeam (s : State) (tk k : Nat) (f : Team → Team) : (s.modTeam tk f).part k = s.part k := rfl

@[simp] theorem State.grid_modGrid (s : State) (g k : Nat) (f : Grid → Grid) :
    (s.modGrid g f).grid k = if k = g then (s.grid g).map f else s.grid k := klook_kmod _ _ _ _

@[simp] theorem State.grid_modTeam (s : State) (tk k : Nat) (f : Team → Team) : (s.modTeam tk f).grid k = s.grid k := rfl

@[simp] theorem Team.path_modPath (t : Team) (pi j : Nat) (f : Path → Path) :
    (t.modPath pi f).path j = if j = pi then (t.path pi).map f else t.path j := klook_kmod _ _ _ _

@[simp] theorem Part.reg_setReg (p : Part) (n k : Nat) (x : Word) :
    (p.setReg n x).reg k = if k = n then x else p.reg k := dget_dput _ _ _ _ _

@[simp] theorem physRead_modTeam (s : State) (tk : Nat) (f : Team → Team) (loc pa n : Nat) :
    physRead (s.modTeam tk f) loc pa n = physRead s loc pa n := rfl

@[simp] theorem physRead_modPart (s : State) (p : Nat) (f : Part → Part) (loc pa n : Nat) :
    physRead (s.modPart p f) loc pa n = physRead s loc pa n := rfl

end Sys2Proof.Machine
end

