-- ==== Sys2Proof/Laws/Memory.lean ====
section
/-!
SUPPORT. What the operations on memory do: bytes read back after a write, other bytes as before, and that every
operation keeps the memories canonical (00 R1, 17 R359).
-/
namespace Sys2Proof.Machine

/-! ### Byte lists and sparse memories -/

/-- Bytes stored one after another: the first, then the rest one further on. -/
theorem cellsWrite_cons (m : List Host.Cell) (off : Nat) (b : Byte) (bs : List Byte) :
    cellsWrite m off (b :: bs) = cellsWrite (dput 0 m off b) (off + 1) bs := rfl

@[simp] theorem cellsWrite_nil (m : List Host.Cell) (off : Nat) : cellsWrite m off [] = m := rfl

/-- One byte after a write: the byte stored there, else as before. -/
theorem dget_cellsWrite (m : List Host.Cell) (off : Nat) (bs : List Byte) (a : Nat) :
    dget 0 (cellsWrite m off bs) a = if off ≤ a ∧ a < off + bs.length then bs.getD (a - off) 0 else dget 0 m a := by
  induction bs generalizing m off with
  | nil =>
    have : ¬(off ≤ a ∧ a < off) := by omega
    simp [this]
  | cons b t ih =>
    rw [cellsWrite_cons, ih, dget_dput, List.length_cons]
    by_cases h1 : a = off
    · subst h1
      rw [if_neg (by omega), if_pos rfl, if_pos ⟨Nat.le_refl _, by omega⟩, Nat.sub_self, List.getD_cons_zero]
    · by_cases h2 : off + 1 ≤ a ∧ a < off + 1 + t.length
      · have h3 : off ≤ a ∧ a < off + (t.length + 1) := by omega
        have h4 : a - off = (a - (off + 1)) + 1 := by omega
        rw [if_pos h2, if_pos h3, h4, List.getD_cons_succ]
      · have h3 : ¬(off ≤ a ∧ a < off + (t.length + 1)) := by omega
        rw [if_neg h2, if_neg h3, if_neg h1]

/-- What was stored reads back. -/
theorem cellsRead_cellsWrite_self (m : List Host.Cell) (off : Nat) (bs : List Byte) :
    cellsRead (cellsWrite m off bs) off bs.length = bs := by
  apply List.ext_getElem
  · simp [cellsRead]
  · intro n h1 h2
    have h3 : off ≤ off + n ∧ off + n < off + bs.length := by omega
    simp only [cellsRead, List.getElem_map, List.getElem_range]
    rw [dget_cellsWrite, if_pos h3, Nat.add_sub_cancel_left, List.getD, List.getElem?_eq_getElem h2, Option.getD_some]

/-- Bytes apart from the stored ones read as before. -/
theorem cellsRead_cellsWrite_apart (m : List Host.Cell) (off a n : Nat) (bs : List Byte)
    (h : a + n ≤ off ∨ off + bs.length ≤ a) : cellsRead (cellsWrite m off bs) a n = cellsRead m a n := by
  apply List.map_congr_left
  intro k hk
  have hk : k < n := List.mem_range.mp hk
  rw [dget_cellsWrite, if_neg (by omega)]

/-- Storing bytes keeps a memory canonical. -/
theorem wf_cellsWrite (m : List Host.Cell) (off : Nat) (bs : List Byte) (h : Memory.wf m = true) :
    Memory.wf (cellsWrite m off bs) = true := by
  induction bs generalizing m off with
  | nil => exact h
  | cons b t ih => rw [cellsWrite_cons]; exact ih _ _ (canonical_dput 0 m off b h)

/-! ### Physical memory -/

/-- One byte of physical memory after a write to one of the three memories. -/
theorem physByte_physWrite (s : State) (loc pa loc' pa' : Nat) (bs : List Byte) :
    (physWrite s loc pa bs).physByte loc' pa' =
      if min loc 2 = min loc' 2 ∧ pa ≤ pa' ∧ pa' < pa + bs.length then [bs.getD (pa' - pa) 0] else s.physByte loc' pa' := by
  have key : ∀ m : List Host.Cell, cellsRead (cellsWrite m pa bs) pa' 1 =
      if pa ≤ pa' ∧ pa' < pa + bs.length then [bs.getD (pa' - pa) 0] else cellsRead m pa' 1 := by
    intro m
    show [dget 0 (cellsWrite m pa bs) (pa' + 0)] = _
    rw [Nat.add_zero, dget_cellsWrite]
    split <;> rfl
  unfold State.physByte physRead physWrite
  by_cases h0 : loc = 0
  · by_cases g0 : loc' = 0
    · simp only [h0, g0, if_true, key, true_and]
    · have hn : ¬(min loc 2 = min loc' 2 ∧ pa ≤ pa' ∧ pa' < pa + bs.length) := by omega
      rw [if_neg hn]
      simp only [if_pos h0, if_neg g0]
  · by_cases h1 : loc = 1
    · by_cases g1 : loc' = 1
      · subst h1 g1
        simp only [if_neg h0, if_true, key, true_and]
      · have hn : ¬(min loc 2 = min loc' 2 ∧ pa ≤ pa' ∧ pa' < pa + bs.length) := by omega
        rw [if_neg hn]
        simp only [if_neg h0, if_pos h1, if_neg g1]
    · by_cases g2 : 2 ≤ loc'
      · have e : min loc 2 = min loc' 2 := by omega
        have g0 : loc' ≠ 0 := by omega
        have g1 : loc' ≠ 1 := by omega
        simp only [e, if_neg h0, if_neg h1, if_neg g0, if_neg g1, key, true_and]
      · have hn : ¬(min loc 2 = min loc' 2 ∧ pa ≤ pa' ∧ pa' < pa + bs.length) := by omega
        rw [if_neg hn]
        simp only [if_neg h0, if_neg h1]
        by_cases g0 : loc' = 0
        · simp only [if_pos g0]
        · have g1 : loc' = 1 := by omega
          simp only [if_neg g0, if_pos g1]

/-- States with the same three memories are canonical together. -/
theorem State.memWf_congr {s t : State} (h1 : t.hbm = s.hbm) (h2 : t.hostMem = s.hostMem) (h3 : t.peerMem = s.peerMem) :
    t.memWf = s.memWf := by simp only [State.memWf, h1, h2, h3]

theorem reset_memWf : State.reset.memWf = true := rfl

theorem physWrite_memWf (s : State) (loc pa : Nat) (bs : List Byte) (h : s.memWf = true) :
    (physWrite s loc pa bs).memWf = true := by
  simp only [State.memWf, Bool.and_eq_true] at h ⊢
  unfold physWrite
  split
  · exact ⟨⟨wf_cellsWrite _ _ _ h.1.1, h.1.2⟩, h.2⟩
  · split
    · exact ⟨⟨h.1.1, wf_cellsWrite _ _ _ h.1.2⟩, h.2⟩
    · exact ⟨h.1, wf_cellsWrite _ _ _ h.2⟩

/-- A fold of operations that each keep the memories canonical keeps them so. -/
theorem foldl_memWf {β : Type} (f : State → β → State) (hf : ∀ s x, s.memWf = true → (f s x).memWf = true) (l : List β)
    (s : State) (h : s.memWf = true) : (l.foldl f s).memWf = true := by
  induction l generalizing s with
  | nil => exact h
  | cons x t ih => exact ih _ (hf s x h)

/-! ### Translation and cached lines -/

theorem regionLookup_memWf (s : State) (a : Agent) (va : Nat) (h : s.memWf = true) :
    (regionLookup s a va).1.memWf = true := by
  unfold regionLookup
  split
  · exact h
  · split
    · exact h
    · exact h

theorem translate_memWf {s t : State} {a : Agent} {pl : Option Nat} {va : Nat} {lf : Leaf} (h : s.memWf = true)
    (ht : translate s a pl va = .ok (t, lf)) : t.memWf = true := by
  unfold translate at ht
  split at ht
  · dsimp only at ht
    split at ht
    · cases ht
    · cases ht; exact h
  · split at ht
    · cases ht
    · cases ht; exact h

/-- A fold of operations that each keep a component of the state keeps it. -/
theorem foldl_same {β γ : Type} (g : State → γ) (f : State → β → State) (hf : ∀ s x, g (f s x) = g s) (l : List β) (s : State) :
    g (l.foldl f s) = g s := by
  induction l generalizing s with
  | nil => rfl
  | cons x t ih => rw [List.foldl_cons, ih, hf]

/-! ### The caches that hold a line (01 R12, R15) -/

/-- What a copy's entry into a nearer cache can do: it changes which caches hold copies, and draws at most one free choice. -/
theorem keepCopy_cases (s : State) (c : Cache) (key : Nat) :
    keepCopy s c key = s ∨ ∃ n k, keepCopy s c key = { s with fresh := n, copies := k ++ [(c, key)] } := by
  unfold keepCopy
  split
  · exact .inl rfl
  · dsimp only
    split
    · exact .inl rfl
    · split
      · exact .inr ⟨s.fresh, s.copies, rfl⟩
      · exact .inr ⟨_, _, rfl⟩

@[simp] theorem keepCopy_lines (s : State) (c : Cache) (key : Nat) : (keepCopy s c key).lines = s.lines := by
  rcases keepCopy_cases s c key with h | ⟨n, k, h⟩ <;> rw [h]

@[simp] theorem keepCopy_teams (s : State) (c : Cache) (key : Nat) : (keepCopy s c key).teams = s.teams := by
  rcases keepCopy_cases s c key with h | ⟨n, k, h⟩ <;> rw [h]

@[simp] theorem keepCopy_memWf (s : State) (c : Cache) (key : Nat) : (keepCopy s c key).memWf = s.memWf := by
  rcases keepCopy_cases s c key with h | ⟨n, k, h⟩ <;> rw [h] <;> rfl

theorem Cache.lines_pos (c : Cache) : 0 < c.lines := by cases c <;> exact Nat.succ_pos _

/-- A cache that holds no more lines than its size holds no more after one enters it. -/
theorem keepCopy_size (s : State) (c : Cache) (key : Nat) (h : (s.copiesIn c).length ≤ c.lines) :
    ((keepCopy s c key).copiesIn c).length ≤ c.lines := by
  unfold keepCopy
  split
  · exact h
  · dsimp only
    split
    · exact h
    · split
      · rename_i hlt
        simp [State.copiesIn] at hlt ⊢
        omega
      · rename_i hge
        have hpos := c.lines_pos
        have hn : (s.copiesIn c) ≠ [] := by intro e; rw [e] at hge; exact hge hpos
        rw [pick]
        dsimp only
        generalize hk : (if (s.copiesIn c).length ≤ 1 then 0 else Config.choice s.fresh % (s.copiesIn c).length) = k
        have hk : k < (s.copiesIn c).length := by
          have := List.length_pos_iff.mpr hn
          subst hk
          split
          · exact this
          · exact Nat.mod_lt _ this
        have hm : (c, (s.copiesIn c).getD k 0) ∈ s.copies.filter fun e => e.1 == c := by
          rw [List.getD, List.getElem?_eq_getElem hk, Option.getD_some]
          have := List.getElem_mem hk
          generalize (s.copiesIn c)[k] = x at this ⊢
          simp only [State.copiesIn, List.mem_map, List.mem_filter] at this
          obtain ⟨⟨c', x'⟩, ⟨hx, hc⟩, rfl⟩ := this
          simp only [beq_iff_eq] at hc
          subst hc
          simp [hx]
        generalize (s.copiesIn c).getD k 0 = x at hm
        have h2 : (s.copies.filter fun e => e.1 == c).length ≤ c.lines := by simpa [State.copiesIn] using h
        have := List.length_pos_of_mem hm
        simp only [State.copiesIn, List.filter_append, List.map_append, List.length_append, List.length_map]
        have h3 : ((s.copies.erase (c, x)).filter fun e => e.1 == c).length + 1 = (s.copies.filter fun e => e.1 == c).length := by
          rw [← List.erase_filter, List.length_erase_of_mem hm]; omega
        simp
        omega

/-! ### The die caches (16 R351-R355) -/

@[simp] theorem passDie_lines (s : State) (a : Agent) (key home : Nat) : (passDie s a key home).lines = s.lines := rfl
@[simp] theorem passDie_memWf (s : State) (a : Agent) (key home : Nat) : (passDie s a key home).memWf = s.memWf := rfl
@[simp] theorem passCaches_memWf (s : State) (a : Agent) (k : AccKind) (key : Nat) : (passCaches s a k key).memWf = s.memWf := rfl

/-- What a request for a line can do to the caches: it changes the die caches alone. -/
theorem passCaches_eq (s : State) (a : Agent) (k : AccKind) (key : Nat) :
    ∃ d, passCaches s a k key = { s with dieCaches := d } := ⟨_, rfl⟩

/-- A request notes its class at the line's slice. -/
theorem dieReached_seen (s : State) (die c key : Nat) :
    (dieReached s die c key).seen
      = kput s.dieCaches.seen (seenKey die (sliceOf key) (key / 2 ^ 58) c) (s.now die).toNat := by
  unfold dieReached
  dsimp only
  split
  · rfl
  · split <;> rfl

/-- A line that a request reaches is the most recently used one of its die, wherever it was found or filled. -/
theorem dieReached_newest (s : State) (die c key : Nat) :
    (dieReached s die c key).lines = s.dieCaches.lines ∨
      ∃ l, (dieReached s die c key).lines.getLast? = some l ∧ l.die = die ∧ l.key = key := by
  unfold dieReached
  dsimp only
  split
  · rename_i l h
    have h := List.find?_some h
    simp only [Bool.and_eq_true, beq_iff_eq] at h
    exact .inr ⟨l, by simp, h.1, h.2⟩
  · split
    · exact .inl rfl
    · rename_i w _
      exact .inr ⟨{ die := die, key := key, way := w, cls := c }, by simp, rfl, rfl⟩

@[simp] theorem seeScale_memWf (s : State) (a : Agent) (va : Nat) (bs : List Byte) : (seeScale s a va bs).memWf = s.memWf := by
  unfold seeScale
  split <;> rfl

@[simp] theorem noteRead_memWf (s : State) (a : Agent) (p : Place) (va n : Nat) : (noteRead s a p va n).memWf = s.memWf := by
  unfold noteRead
  dsimp only
  split
  · split
    · exact seeScale_memWf s a va _
    · exact seeScale_memWf s a va _
  · exact seeScale_memWf s a va _

theorem placeWrite_memWf (s : State) (p : Place) (va : Nat) (bs : List Byte) (h : s.memWf = true) :
    (placeWrite s p va bs).memWf = true := by
  cases p with
  | line key => exact h
  | phys loc pa => exact physWrite_memWf s loc pa bs h
  | flat pa => exact physWrite_memWf s 0 pa bs h

theorem writeDirty_memWf (s : State) (loc pa : Nat) (l : Line) (h : s.memWf = true) : (writeDirty s loc pa l).memWf = true := by
  unfold writeDirty
  refine foldl_memWf _ (fun s k h => ?_) _ s h
  split
  · exact physWrite_memWf _ _ _ _ h
  · exact h

theorem writeBack_memWf (s : State) (key : Nat) (h : s.memWf = true) : (writeBack s key).memWf = true := by
  unfold writeBack
  split
  · exact h
  · split
    · exact h
    · have hr := regionLookup_memWf s (lineAgent s key) (lineVa key) h
      dsimp only
      split
      · exact hr
      · rename_i ht
        have h2 := translate_memWf hr ht
        exact writeDirty_memWf _ _ _ _ (by exact h2)

theorem flushLine_memWf (s : State) (key : Nat) (h : s.memWf = true) : (flushLine s key).memWf = true :=
  writeBack_memWf s key h

theorem makeRoom_memWf (s : State) (home : Nat) (h : s.memWf = true) : (makeRoom s home).memWf = true := by
  unfold makeRoom
  dsimp only
  split
  · exact h
  · exact flushLine_memWf _ _ h

theorem fillLine_memWf (s : State) (a : Agent) (pl : Option Nat) (lf : Leaf) (va : Nat) (h : s.memWf = true) :
    (fillLine s a pl lf va).memWf = true := by
  unfold fillLine
  rw [passDie_memWf, foldl_same State.memWf _ (fun s c => keepCopy_memWf s c _)]
  exact makeRoom_memWf _ _ h

theorem placeLeaf_memWf {s t : State} {a : Agent} {k : AccKind} {pl : Option Nat} {lf : Leaf} {va : Nat} {p : Place}
    (h : s.memWf = true) (hp : placeLeaf s a k pl lf va = .ok (t, p)) : t.memWf = true := by
  unfold placeLeaf at hp
  split at hp
  · cases hp
  · split at hp
    · cases hp; exact h
    · split at hp
      · cases hp; exact h
      · cases hp; exact fillLine_memWf _ _ _ _ _ h

theorem placeStill_memWf {s t : State} {a : Agent} {k : AccKind} {va : Nat} {p : Place}
    (h : s.memWf = true) (hp : placeStill s a k va = .ok (t, p)) : t.memWf = true := by
  unfold placeStill at hp
  split at hp
  · cases hp; exact h
  · have hr := regionLookup_memWf s a va h
    split at hp
    rename_i s1 pl he
    rw [he] at hr
    split at hp
    · cases hp
    · rename_i ht
      exact placeLeaf_memWf (translate_memWf hr ht) hp

theorem flushPage_memWf (s : State) (gasid page : Nat) (h : s.memWf = true) : (flushPage s gasid page).memWf = true := by
  unfold flushPage
  generalize List.range 512 = l
  exact foldl_memWf _ (fun s _ h => flushLine_memWf s _ h) l _ h

theorem copyPage_memWf (s : State) (loc : Nat) (src : Nat → Nat) (loc' : Nat) (dst : Nat → Nat) (h : s.memWf = true) :
    (copyPage s loc src loc' dst).memWf = true := by
  unfold copyPage
  generalize List.range 65536 = l
  exact foldl_memWf _ (fun s _ h => physWrite_memWf s _ _ _ h) l s h

/-! ### Wakes and stores -/

theorem deliverWake_memWf (s : State) (w : WaitWho) (h : s.memWf = true) : (deliverWake s w).memWf = true := by
  cases w <;> exact h

theorem wakeWhere_memWf (s : State) (value : Waiter → Option Word) (h : s.memWf = true) : (wakeWhere s value).memWf = true :=
  foldl_memWf _ (fun s _ h => deliverWake_memWf s _ h) _ _ h

theorem wakeLine_memWf (s : State) (gasid va n : Nat) (h : s.memWf = true) : (wakeLine s gasid va n).memWf = true :=
  wakeWhere_memWf s _ h
theorem wakePhys_memWf (s : State) (loc pa n : Nat) (h : s.memWf = true) : (wakePhys s loc pa n).memWf = true :=
  wakeWhere_memWf s _ h
theorem deviceWrite_memWf (s : State) (loc pa : Nat) (bs : List Byte) (h : s.memWf = true) :
    (deviceWrite s loc pa bs).memWf = true := wakePhys_memWf _ loc pa _ (physWrite_memWf s loc pa bs h)
theorem wakeUncached_memWf (s : State) (gasid va loc pa n : Nat) (h : s.memWf = true) :
    (wakeUncached s gasid va loc pa n).memWf = true := wakeWhere_memWf _ _ (wakePhys_memWf s loc pa n h)
theorem wakeScratch_memWf (s : State) (tk off n : Nat) (h : s.memWf = true) : (wakeScratch s tk off n).memWf = true :=
  wakeWhere_memWf s _ h

theorem storeAt_memWf (s : State) (a : Agent) (p : Place) (va : Nat) (bs : List Byte) (h : s.memWf = true) :
    (storeAt s a p va bs).memWf = true := by
  have hw := (seeScale_memWf (placeWrite s p va bs) a va bs).trans (placeWrite_memWf s p va bs h)
  cases p with
  | line key => exact wakeLine_memWf _ _ _ _ hw
  | phys loc pa => exact wakeUncached_memWf _ _ _ _ _ _ hw
  | flat pa => exact wakeUncached_memWf _ _ _ _ _ _ hw

/-! ### Migration -/

theorem wordStill_memWf {s t : State} {a : Agent} {va x : Nat} (h : s.memWf = true) (hw : wordStill s a va = .ok (t, x)) :
    t.memWf = true := by
  unfold wordStill at hw
  split at hw
  · cases hw
  · rename_i hp; cases hw; exact placeStill_memWf h hp

theorem putWordStill_memWf {s t : State} {a : Agent} {va x : Nat} (h : s.memWf = true)
    (hw : putWordStill s a va x = .ok t) : t.memWf = true := by
  unfold putWordStill at hw
  split at hw
  · cases hw
  · rename_i hp; cases hw; exact storeAt_memWf _ _ _ _ _ (placeStill_memWf h hp)

theorem takeFrame_memWf {s t : State} {pnum : Nat} {f : Option Nat} (h : s.memWf = true)
    (ht : takeFrame s pnum = .ok (t, f)) : t.memWf = true := by
  unfold takeFrame at ht
  simp only [] at ht
  split at ht
  · cases ht
  · rename_i h1
    have h1 := wordStill_memWf h h1
    split at ht
    · cases ht; exact h1
    · split at ht
      · cases ht
      · rename_i h2
        have h2 := wordStill_memWf h1 h2
        split at ht
        · cases ht
        · cases ht
        · rename_i h3
          cases ht; exact putWordStill_memWf h2 h3

theorem returnFrame_memWf {s t : State} {pnum f : Nat} {b : Bool} (h : s.memWf = true)
    (ht : returnFrame s pnum f = .ok (t, b)) : t.memWf = true := by
  unfold returnFrame at ht
  simp only [] at ht
  split at ht
  · cases ht
  · rename_i h1
    have h1 := wordStill_memWf h h1
    split at ht
    · cases ht
    · rename_i h2
      have h2 := wordStill_memWf h1 h2
      split at ht
      · cases ht; exact h2
      · split at ht
        · cases ht
        · cases ht
        · rename_i h3
          have h3 := putWordStill_memWf h2 h3
          split at ht
          · cases ht
          · rename_i h4
            cases ht; exact putWordStill_memWf h3 h4

theorem noteMove_memWf (s : State) (die gasid page : Nat) (h : s.memWf = true) : (noteMove s die gasid page).memWf = true := by
  unfold noteMove
  split
  · split <;> exact h
  · exact h

theorem dropPageTlb_memWf (s : State) (gasid page : Nat) (h : s.memWf = true) : (dropPageTlb s gasid page).memWf = true := h

theorem setNc_memWf (s : State) (pnum asid page : Nat) (nc : Bool) (h : s.memWf = true) :
    (setNc s pnum asid page nc).memWf = true := by
  unfold setNc
  split
  · exact h
  · rename_i lf _
    dsimp only
    exact dropPageTlb_memWf _ _ _ (deviceWrite_memWf _ _ _ _ (flushPage_memWf _ _ _ h))

theorem relink_memWf {s t : State} {a : Agent} {va : Nat} {pte : Dword} (h : s.memWf = true)
    (hp : relink s a va pte = .ok t) : t.memWf = true := by
  unfold relink at hp
  split at hp
  · cases hp
  · cases hp
    exact noteMove_memWf _ _ _ _ (dropPageTlb_memWf _ _ _ (deviceWrite_memWf _ _ _ _ h))

theorem pullInto_memWf {s t : State} {a : Agent} {lf : Leaf} {va f : Nat} (h : s.memWf = true)
    (hp : pullInto s a lf va f = .ok t) : t.memWf = true :=
  relink_memWf (copyPage_memWf _ _ _ _ _ (flushPage_memWf _ _ _ h)) hp

theorem pull_memWf {s t : State} {a : Agent} {lf : Leaf} {va : Nat} (h : s.memWf = true) (hp : pull s a lf va = .ok t) :
    t.memWf = true := by
  unfold pull at hp
  dsimp only at hp
  split at hp
  · cases hp; exact setNc_memWf _ _ _ _ _ h
  · split at hp
    · cases hp
    · cases hp
    · rename_i ht
      exact pullInto_memWf (takeFrame_memWf h ht) hp

theorem mapError_ok {ε ε' α : Type} {f : ε → ε'} {r : Except ε α} {x : α} (h : r.mapError f = .ok x) : r = .ok x := by
  cases r with
  | error e => cases h
  | ok y => cases h; rfl

theorem mapError_error {ε ε' α : Type} {f : ε → ε'} {r : Except ε α} {e : ε'} (h : r.mapError f = .error e) : ∃ d, f d = e := by
  cases r with
  | error d => cases h; exact ⟨d, rfl⟩
  | ok y => cases h

/-- The state in which finding a place leaves the machine, the access performed or faulted. -/
def placeState (r : Except (State × Nat × Nat) (State × Place)) : State :=
  match r with
  | .ok (s, _) => s
  | .error (s, _) => s

/-- Finding where an access is performed, with the pull of a page it may need. -/
theorem place_memWf (s : State) (a : Agent) (k : AccKind) (va : Nat) (h : s.memWf = true) :
    (placeState (place s a k va)).memWf = true := by
  cases hp : place s a k va with
  | error e =>
    show e.1.memWf = true
    unfold place at hp
    split at hp
    · cases hp
    · have hr := regionLookup_memWf s a va h
      split at hp
      rename_i s1 pl he
      rw [he] at hr
      split at hp
      · cases hp; exact h
      · rename_i ht
        split at hp
        · split at hp
          · cases hp; exact h
          · rename_i hq
            obtain ⟨d, rfl⟩ := mapError_error hp
            exact pull_memWf (translate_memWf hr ht) hq
        · obtain ⟨d, rfl⟩ := mapError_error hp; exact h
  | ok r =>
    show r.1.memWf = true
    unfold place at hp
    split at hp
    · cases hp; exact h
    · have hr := regionLookup_memWf s a va h
      split at hp
      rename_i s1 pl he
      rw [he] at hr
      split at hp
      · cases hp
      · rename_i ht
        have h2 := translate_memWf hr ht
        split at hp
        · split at hp
          · cases hp
          · rename_i hq
            exact placeStill_memWf (pull_memWf h2 hq) (mapError_ok hp)
        · exact placeLeaf_memWf h2 (mapError_ok hp)

/-! ### Accesses of any extent -/

/-- The state of an access, completed or faulted. -/
def accState {β : Type} (r : Except (State × AccFault) (State × β)) : State :=
  match r with
  | .ok (s, _) => s
  | .error (s, _) => s

theorem vreadAs_memWf (s : State) (a : Agent) (k : AccKind) (va n : Nat) (h : s.memWf = true) :
    (accState (vreadAs s a k va n)).memWf = true := by
  unfold vreadAs
  generalize pieces va n = l
  have h0 : (accState (.ok (s, ([] : List Byte)))).memWf = true := h
  generalize (Except.ok (s, ([] : List Byte)) : Except (State × AccFault) (State × List Byte)) = acc at h0 ⊢
  induction l generalizing acc with
  | nil => exact h0
  | cons p t ih =>
    rw [List.foldl_cons]
    apply ih
    cases acc with
    | error e => exact h0
    | ok r =>
      have hw := place_memWf r.1 a k p.2.1 h0
      cases hp : place r.1 a k p.2.1 with
      | error e => simp only [hp]; rw [hp] at hw; exact hw
      | ok q => simp only [hp]; rw [hp] at hw; exact (noteRead_memWf ..).trans hw

theorem vread_memWf (s : State) (a : Agent) (va n : Nat) (h : s.memWf = true) : (accState (vread s a va n)).memWf = true :=
  vreadAs_memWf s a .read va n h

/-- The state of a write, completed or faulted. -/
def wrState (r : Except (State × AccFault) State) : State :=
  match r with
  | .ok s => s
  | .error (s, _) => s

theorem vwrite_memWf (s : State) (a : Agent) (va : Nat) (bs : List Byte) (h : s.memWf = true) :
    (wrState (vwrite s a va bs)).memWf = true := by
  unfold vwrite
  generalize pieces va bs.length = l
  have h0 : (wrState (.ok s)).memWf = true := h
  generalize (Except.ok s : Except (State × AccFault) State) = acc at h0 ⊢
  induction l generalizing acc with
  | nil => exact h0
  | cons p t ih =>
    rw [List.foldl_cons]
    apply ih
    cases acc with
    | error e => exact h0
    | ok s =>
      have hw := place_memWf s a .write p.2.1 h0
      cases hp : place s a .write p.2.1 with
      | error e => simp only [hp]; rw [hp] at hw; exact hw
      | ok r => simp only [hp]; rw [hp] at hw; exact storeAt_memWf _ _ _ _ _ hw

theorem vrmw_memWf (s : State) (a : Agent) (va n : Nat) (f : Nat → Nat) (h : s.memWf = true) :
    (accState (vrmw s a va n f)).memWf = true := by
  have hw := place_memWf s a .rmw va h
  unfold vrmw
  split
  · rename_i hp; rw [hp] at hw; exact hw
  · rename_i hp; rw [hp] at hw
    exact storeAt_memWf _ _ _ _ _ ((noteRead_memWf ..).trans hw)

/-! ### Scratchpads -/

/-- Bytes stored in a scratchpad leave the memories alone. -/
theorem scrWrite_memWf (s : State) (tk off : Nat) (bs : List Byte) (h : s.memWf = true) :
    (scrWrite s tk off bs).memWf = true := wakeScratch_memWf _ _ _ _ h

end Sys2Proof.Machine
end

