-- ==== Sys2Proof/Laws/Team.lean ====
section
/-!
SUPPORT. What register writes do to a team: the fields they leave alone, what each register reads afterwards, and that a
lane sees only the writes made in it.
-/
namespace Sys2Proof.Machine

/-! ### One write -/

/-- A register write changes the register files and nothing else. -/
theorem Team.write_rest (t : Team) (w : RegWrite) :
    t.write w = { t with v := (t.write w).v, p := (t.write w).p, s := (t.write w).s, q := (t.write w).q } := by
  cases w with
  | v r l x => rfl
  | p k l x => simp only [Team.write]; split <;> rfl
  | s r x => simp only [Team.write]; split <;> rfl
  | q k x => simp only [Team.write]; split <;> rfl

/-- Register writes change the register files and nothing else. -/
theorem Team.writes_rest (t : Team) (ws : List RegWrite) :
    t.writes ws
      = { t with v := (t.writes ws).v, p := (t.writes ws).p, s := (t.writes ws).s, q := (t.writes ws).q } := by
  induction ws generalizing t with
  | nil => rfl
  | cons w rest ih =>
    have h := ih (t.write w)
    have h1 := Team.write_rest t w
    simp only [Team.writes, List.foldl_cons] at h ⊢
    rw [h]
    rw [h1]

@[simp] theorem Team.writes_nil (t : Team) : t.writes [] = t := rfl
theorem Team.writes_cons (t : Team) (w : RegWrite) (ws : List RegWrite) : t.writes (w :: ws) = (t.write w).writes ws := rfl
theorem Team.writes_append (t : Team) (a b : List RegWrite) : t.writes (a ++ b) = (t.writes a).writes b :=
  List.foldl_append ..

@[simp] theorem Team.writes_paths (t : Team) (ws : List RegWrite) : (t.writes ws).paths = t.paths := by
  rw [Team.writes_rest]
@[simp] theorem Team.writes_long (t : Team) (ws : List RegWrite) : (t.writes ws).long = t.long := by rw [Team.writes_rest]
@[simp] theorem Team.writes_replay (t : Team) (ws : List RegWrite) : (t.writes ws).replay = t.replay := by
  rw [Team.writes_rest]
@[simp] theorem Team.writes_fst (t : Team) (ws : List RegWrite) : (t.writes ws).fst = t.fst := by rw [Team.writes_rest]
@[simp] theorem Team.writes_width (t : Team) (ws : List RegWrite) : (t.writes ws).width = t.width := by
  rw [Team.writes_rest]

/-- Keys of lane registers name a register and a lane. -/
theorem laneKey_inj {r r' l l' : Nat} (h : l < 1024) (h' : l' < 1024) : r * 1024 + l = r' * 1024 + l' ↔ r = r' ∧ l = l' := by
  omega

theorem Team.vr_write_v (t : Team) (r l r' l' : Nat) (x : Word) (h : l < 1024) (h' : l' < 1024) :
    (t.write (.v r l x)).vr r' l' = if r' = r ∧ l' = l then x else t.vr r' l' := by
  simp only [Team.vr, Team.write, dget_dput, laneKey_inj h' h]

theorem Team.write_p_v (t : Team) (k l : Nat) (x : Bool) : (t.write (.p k l x)).v = t.v := by
  simp only [Team.write]; split <;> rfl
theorem Team.write_p_s (t : Team) (k l : Nat) (x : Bool) : (t.write (.p k l x)).s = t.s := by
  simp only [Team.write]; split <;> rfl
theorem Team.write_p_q (t : Team) (k l : Nat) (x : Bool) : (t.write (.p k l x)).q = t.q := by
  simp only [Team.write]; split <;> rfl
theorem Team.write_s_v (t : Team) (r : Nat) (x : Word) : (t.write (.s r x)).v = t.v := by
  simp only [Team.write]; split <;> rfl
theorem Team.write_s_p (t : Team) (r : Nat) (x : Word) : (t.write (.s r x)).p = t.p := by
  simp only [Team.write]; split <;> rfl
theorem Team.write_s_q (t : Team) (r : Nat) (x : Word) : (t.write (.s r x)).q = t.q := by
  simp only [Team.write]; split <;> rfl
theorem Team.write_q_v (t : Team) (k : Nat) (x : Bool) : (t.write (.q k x)).v = t.v := by
  simp only [Team.write]; split <;> rfl
theorem Team.write_q_p (t : Team) (k : Nat) (x : Bool) : (t.write (.q k x)).p = t.p := by
  simp only [Team.write]; split <;> rfl
theorem Team.write_q_s (t : Team) (k : Nat) (x : Bool) : (t.write (.q k x)).s = t.s := by
  simp only [Team.write]; split <;> rfl

@[simp] theorem Team.vr_write_p (t : Team) (k l r' l' : Nat) (x : Bool) : (t.write (.p k l x)).vr r' l' = t.vr r' l' := by
  simp only [Team.vr, Team.write_p_v]
@[simp] theorem Team.vr_write_s (t : Team) (r r' l' : Nat) (x : Word) : (t.write (.s r x)).vr r' l' = t.vr r' l' := by
  simp only [Team.vr, Team.write_s_v]
@[simp] theorem Team.vr_write_q (t : Team) (k r' l' : Nat) (x : Bool) : (t.write (.q k x)).vr r' l' = t.vr r' l' := by
  simp only [Team.vr, Team.write_q_v]

@[simp] theorem Team.pr_write_v (t : Team) (r l k' l' : Nat) (x : Word) : (t.write (.v r l x)).pr k' l' = t.pr k' l' := rfl
@[simp] theorem Team.pr_write_s (t : Team) (r k' l' : Nat) (x : Word) : (t.write (.s r x)).pr k' l' = t.pr k' l' := by
  simp only [Team.pr, Team.write_s_p]
@[simp] theorem Team.pr_write_q (t : Team) (k k' l' : Nat) (x : Bool) : (t.write (.q k x)).pr k' l' = t.pr k' l' := by
  simp only [Team.pr, Team.write_q_p]

/-- p7 discards a write; another predicate takes it in one lane. -/
theorem Team.pr_write_p (t : Team) (k l k' l' : Nat) (x : Bool) (h : l < 1024) (h' : l' < 1024) :
    (t.write (.p k l x)).pr k' l' = if k' = k ∧ l' = l ∧ k ≠ 7 then x else t.pr k' l' := by
  by_cases hk : k = 7
  · simp [Team.write, hk]
  · by_cases hk' : k' = k
    · subst hk'
      by_cases hl : l' = l
      · subst hl
        cases x <;> simp [Team.write, Team.pr, hk, h']
      · cases x <;> simp [Team.write, Team.pr, hk, hl, h']
    · by_cases h7 : k' = 7
      · simp [Team.pr, h7, Ne.symm hk]
      · simp [Team.write, Team.pr, hk, hk', h7, dget_dput]

/-- s0 discards a write. -/
theorem Team.sr_write_s (t : Team) (r r' : Nat) (x : Word) :
    (t.write (.s r x)).sr r' = if r' = r ∧ r ≠ 0 then x else t.sr r' := by
  by_cases h : r = 0
  · simp [Team.write, h]
  · by_cases h' : r' = r
    · subst h'; simp [Team.write, Team.sr, h]
    · by_cases h0 : r' = 0
      · simp [Team.sr, h0, Ne.symm h]
      · simp [Team.write, Team.sr, h0, h, h', dget_dput]

@[simp] theorem Team.sr_write_v (t : Team) (r l r' : Nat) (x : Word) : (t.write (.v r l x)).sr r' = t.sr r' := rfl
@[simp] theorem Team.sr_write_p (t : Team) (k l r' : Nat) (x : Bool) : (t.write (.p k l x)).sr r' = t.sr r' := by
  simp only [Team.sr, Team.write_p_s]
@[simp] theorem Team.sr_write_q (t : Team) (k r' : Nat) (x : Bool) : (t.write (.q k x)).sr r' = t.sr r' := by
  simp only [Team.sr, Team.write_q_s]

/-- q3 discards a write. -/
theorem Team.qr_write_q (t : Team) (k k' : Nat) (x : Bool) (h : k < 3) :
    (t.write (.q k x)).qr k' = if k' = k then x else t.qr k' := by
  have h3 : k ≠ 3 := by omega
  by_cases hk : k' = k
  · subst hk
    cases x <;> simp [Team.write, Team.qr, h3, h]
  · by_cases h3' : k' = 3
    · subst h3'; simp [Team.qr, Ne.symm h3]
    · cases x
      · simp only [Team.write, Team.qr, h3, h3', if_false, hk, Bool.false_eq_true]
        simp [Ne.symm hk]
        exact fun hq => BitVec.lt_of_getLsbD hq
      · simp [Team.write, Team.qr, h3, h3', hk, Ne.symm hk]

@[simp] theorem Team.qr_write_v (t : Team) (r l k' : Nat) (x : Word) : (t.write (.v r l x)).qr k' = t.qr k' := rfl
@[simp] theorem Team.qr_write_p (t : Team) (k l k' : Nat) (x : Bool) : (t.write (.p k l x)).qr k' = t.qr k' := by
  simp only [Team.qr, Team.write_p_q]
@[simp] theorem Team.qr_write_s (t : Team) (r k' : Nat) (x : Word) : (t.write (.s r x)).qr k' = t.qr k' := by
  simp only [Team.qr, Team.write_s_q]

/-! ### Lanes -/

theorem mem_lanesOf (w l : Nat) (m : Mask) : l ∈ lanesOf w m ↔ l < w ∧ m.getLsbD l = true := by
  simp [lanesOf]

theorem nodup_lanesOf (w : Nat) (m : Mask) : (lanesOf w m).Nodup := List.Pairwise.filter _ List.nodup_range

theorem lt_of_mem_lanesOf {w l : Nat} {m : Mask} (h : l ∈ lanesOf w m) : l < 1024 := by
  rw [mem_lanesOf] at h
  exact BitVec.lt_of_getLsbD h.2

/-- A write made in lane l to a lane register or predicate. -/
def RegWrite.inLane (l : Nat) : RegWrite → Prop
  | .v _ l' _ => l' = l
  | .p _ l' _ => l' = l
  | .s _ _ => False
  | .q _ _ => False

/-- Writes made in other lanes do not change what a lane reads. -/
theorem Team.lane_writes_other (t : Team) (ws : List RegWrite) (l l' : Nat) (hl : l < 1024) (hl' : l' < 1024) (hne : l' ≠ l)
    (h : ∀ w ∈ ws, w.inLane l) :
    (∀ r, (t.writes ws).vr r l' = t.vr r l') ∧ ∀ k, (t.writes ws).pr k l' = t.pr k l' := by
  induction ws generalizing t with
  | nil => exact ⟨fun _ => rfl, fun _ => rfl⟩
  | cons w rest ih =>
    have hw := h w (by simp)
    obtain ⟨h1, h2⟩ := ih (t.write w) fun w' hw' => h w' (by simp [hw'])
    rw [Team.writes_cons]
    cases w with
    | v r a x =>
      obtain rfl : a = l := hw
      exact ⟨fun r' => by rw [h1, Team.vr_write_v _ _ _ _ _ _ hl hl']; simp [hne], fun k => by rw [h2]; simp⟩
    | p k a x =>
      obtain rfl : a = l := hw
      exact ⟨fun r' => by rw [h1]; simp, fun k' => by rw [h2, Team.pr_write_p _ _ _ _ _ _ hl hl']; simp [hne]⟩
    | s r x => exact hw.elim
    | q k x => exact hw.elim

/-- What a lane reads after writes depends on what it read before alone. -/
theorem Team.lane_writes_congr (t u : Team) (ws : List RegWrite) (l : Nat) (hl : l < 1024) (h : ∀ w ∈ ws, w.inLane l)
    (hv : ∀ r, t.vr r l = u.vr r l) (hp : ∀ k, t.pr k l = u.pr k l) :
    (∀ r, (t.writes ws).vr r l = (u.writes ws).vr r l) ∧ ∀ k, (t.writes ws).pr k l = (u.writes ws).pr k l := by
  induction ws generalizing t u with
  | nil => exact ⟨hv, hp⟩
  | cons w rest ih =>
    have hw := h w (by simp)
    rw [Team.writes_cons, Team.writes_cons]
    refine ih _ _ (fun w' hw' => h w' (by simp [hw'])) ?_ ?_
    · intro r
      cases w with
      | v r' a x =>
        obtain rfl : a = l := hw
        rw [Team.vr_write_v _ _ _ _ _ _ hl hl, Team.vr_write_v _ _ _ _ _ _ hl hl, hv]
      | p k a x => simp [hv]
      | s r x => exact hw.elim
      | q k x => exact hw.elim
    · intro k
      cases w with
      | v r' a x => simp [hp]
      | p k a x =>
        obtain rfl : a = l := hw
        rw [Team.pr_write_p _ _ _ _ _ _ hl hl, Team.pr_write_p _ _ _ _ _ _ hl hl, hp]
      | s r x => exact hw.elim
      | q k x => exact hw.elim

/-- THE LANES OF A SHORT INSTRUCTION: writes made lane by lane act in each lane as its own writes alone. -/
theorem Team.lane_writes_flatMap (t : Team) (ls : List Nat) (g : Nat → List RegWrite) (hn : ls.Nodup)
    (hb : ∀ l ∈ ls, l < 1024) (hg : ∀ l ∈ ls, ∀ w ∈ g l, w.inLane l) (l : Nat) (hl : l < 1024) :
    (∀ r, (t.writes (ls.flatMap g)).vr r l = if l ∈ ls then (t.writes (g l)).vr r l else t.vr r l)
      ∧ ∀ k, (t.writes (ls.flatMap g)).pr k l = if l ∈ ls then (t.writes (g l)).pr k l else t.pr k l := by
  induction ls generalizing t with
  | nil => simp
  | cons a rest ih =>
    obtain ⟨hna, hnr⟩ := List.nodup_cons.mp hn
    have ha := hb a (by simp)
    obtain ⟨h1, h2⟩ := ih (t.writes (g a)) hnr (fun l h => hb l (by simp [h])) (fun l h => hg l (by simp [h]))
    rw [List.flatMap_cons, Team.writes_append]
    by_cases hla : l = a
    · subst hla
      simp only [hna, if_false] at h1 h2
      exact ⟨fun r => by simp [h1], fun k => by simp [h2]⟩
    · obtain ⟨o1, o2⟩ := Team.lane_writes_other t (g a) a l ha hl hla (hg a (by simp))
      by_cases hlr : l ∈ rest
      · obtain ⟨c1, c2⟩ := Team.lane_writes_congr (t.writes (g a)) t (g l) l hl (hg l (by simp [hlr])) o1 o2
        simp only [hlr, if_true] at h1 h2
        exact ⟨fun r => by simp [h1, hlr, c1], fun k => by simp [h2, hlr, c2]⟩
      · simp only [hlr, if_false] at h1 h2
        exact ⟨fun r => by simp [h1, hla, hlr, o1], fun k => by simp [h2, hla, hlr, o2]⟩

/-- Writes of lane registers and predicates leave the uniform ones alone. -/
theorem Team.uniform_writes_lane (t : Team) (ws : List RegWrite) (h : ∀ w ∈ ws, ∃ l, w.inLane l) :
    (t.writes ws).s = t.s ∧ (t.writes ws).q = t.q := by
  induction ws generalizing t with
  | nil => exact ⟨rfl, rfl⟩
  | cons w rest ih =>
    obtain ⟨l, hw⟩ := h w (by simp)
    obtain ⟨h1, h2⟩ := ih (t.write w) fun w' hw' => h w' (by simp [hw'])
    rw [Team.writes_cons, h1, h2]
    cases w with
    | v r a x => exact ⟨rfl, rfl⟩
    | p k a x => simp only [Team.write]; split <;> exact ⟨rfl, rfl⟩
    | s r x => exact hw.elim
    | q k x => exact hw.elim

/-! ### Flags and paths -/

@[simp] theorem Team.orFst_zero (t : Team) : t.orFst 0 = t := by simp [Team.orFst]

@[simp] theorem Team.orFst_outstanding (t : Team) (f : Word) (pi : Nat) (m : Mask) :
    (t.orFst f).outstanding pi m = t.outstanding pi m := rfl

@[simp] theorem Team.writes_outstanding (t : Team) (ws : List RegWrite) (pi : Nat) (m : Mask) :
    (t.writes ws).outstanding pi m = t.outstanding pi m := by
  have h : (t.writes ws).ops = t.ops := by rw [Team.writes_rest]
  simp [Team.outstanding, Team.engineResult, h]

/-- Moving past an instruction changes the paths and nothing else. -/
theorem Team.pass_rest (t : Team) (pi len : Nat) (mark : Bool) :
    t.pass pi len mark = { t with paths := (t.pass pi len mark).paths } := rfl

theorem Team.path_pass (t : Team) (pi len j : Nat) (mark : Bool) :
    (t.pass pi len mark).path j = if j = pi then (t.path pi).map (fun p =>
      { p with pc := p.pc + BitVec.ofNat 64 len, mark := false,
               st := if mark && t.outstanding pi p.mask then PathState.parked else .ready }) else t.path j :=
  Team.path_modPath _ _ _ _

end Sys2Proof.Machine
end

