-- ==== Sys2Proof/Laws/Ops.lean ====
section
/-!
SUPPORT. What the shared operations of register instructions can do: the issuing path, register writes read back, and
the short and long forms as completions with a result.
-/
namespace Sys2Proof.Machine

theorem issuer_spec {s : State} {x : Issuer} (h : s.issuer = some x) :
    s.team x.tk = some x.t ∧ x.t.path x.pi = some x.path := by
  unfold State.issuer at h
  split at h
  · cases h
  · split at h
    · cases h
    · split at h
      · cases h
      · rename_i ht _ _ hp
        cases h; exact ⟨ht, hp⟩

/-- The lane of a lane write is a lane. -/
def RegWrite.inRange : RegWrite → Prop
  | .v _ l _ => l < 1024
  | .p _ l _ => l < 1024
  | .s _ _ => True
  | .q _ _ => True

/-- Register writes read back: the last write to a register stands, s0, p7 and q3 discard theirs. -/
theorem written_writes (t : Team) (ws : List RegWrite) (h : ∀ w ∈ ws, w.inRange) : Written t ws (t.writes ws) := by
  refine ⟨?_, ?_, ?_, ?_⟩
  · intro r l hl
    suffices H : ∀ (ws : List RegWrite) (u : Team) (acc : Option Word), (∀ w ∈ ws, w.inRange) →
        u.vr r l = acc.getD (t.vr r l) →
        (u.writes ws).vr r l = (ws.foldl (fun acc w => match w with
          | .v a b x => if a = r ∧ b = l then some x else acc
          | _ => acc) acc).getD (t.vr r l) from H ws t none h rfl
    intro ws
    induction ws with
    | nil => intro u acc _ hu; exact hu
    | cons w rest ih =>
      intro u acc hw hu
      rw [Team.writes_cons, List.foldl_cons]
      refine ih _ _ (fun w' h' => hw w' (by simp [h'])) ?_
      have hr := hw w (by simp)
      cases w with
      | v a b x =>
        rw [Team.vr_write_v _ _ _ _ _ _ hr hl]
        by_cases hc : r = a ∧ l = b
        · simp [hc.1, hc.2]
        · have : ¬(a = r ∧ b = l) := fun e => hc ⟨e.1.symm, e.2.symm⟩
          simp [hc, this, hu]
      | p a b x => simpa using hu
      | s a x => simpa using hu
      | q a x => simpa using hu
  · intro k l hl
    by_cases h7 : k = 7
    · simp [Team.pr, h7]
    simp only [h7, if_false]
    suffices H : ∀ (ws : List RegWrite) (u : Team) (acc : Option Bool), (∀ w ∈ ws, w.inRange) →
        u.pr k l = acc.getD (t.pr k l) →
        (u.writes ws).pr k l = (ws.foldl (fun acc w => match w with
          | .p a b x => if a = k ∧ b = l then some x else acc
          | _ => acc) acc).getD (t.pr k l) from H ws t none h rfl
    intro ws
    induction ws with
    | nil => intro u acc _ hu; exact hu
    | cons w rest ih =>
      intro u acc hw hu
      rw [Team.writes_cons, List.foldl_cons]
      refine ih _ _ (fun w' h' => hw w' (by simp [h'])) ?_
      have hr := hw w (by simp)
      cases w with
      | p a b x =>
        rw [Team.pr_write_p _ _ _ _ _ _ hr hl]
        by_cases hc : k = a ∧ l = b
        · simp [← hc.1, hc.2, h7]
        · have : ¬(a = k ∧ b = l) := fun e => hc ⟨e.1.symm, e.2.symm⟩
          have h2 : ¬(k = a ∧ l = b ∧ a ≠ 7) := fun e => hc ⟨e.1, e.2.1⟩
          simp [h2, this, hu]
      | v a b x => simpa using hu
      | s a x => simpa using hu
      | q a x => simpa using hu
  · intro r
    by_cases h0 : r = 0
    · simp [Team.sr, h0]
    simp only [h0, if_false]
    suffices H : ∀ (ws : List RegWrite) (u : Team) (acc : Option Word),
        u.sr r = acc.getD (t.sr r) →
        (u.writes ws).sr r = (ws.foldl (fun acc w => match w with
          | .s a x => if a = r then some x else acc
          | _ => acc) acc).getD (t.sr r) from H ws t none rfl
    intro ws
    induction ws with
    | nil => intro u acc hu; exact hu
    | cons w rest ih =>
      intro u acc hu
      rw [Team.writes_cons, List.foldl_cons]
      refine ih _ _ ?_
      cases w with
      | s a x =>
        rw [Team.sr_write_s]
        by_cases hc : r = a
        · simp [← hc, h0]
        · have : ¬(a = r) := fun e => hc e.symm
          simp [hc, this, hu]
      | v a b x => simpa using hu
      | p a b x => simpa using hu
      | q a x => simpa using hu
  · intro k hk
    by_cases h3 : k = 3
    · simp [Team.qr, h3]
    simp only [h3, if_false]
    suffices H : ∀ (ws : List RegWrite) (u : Team) (acc : Option Bool), (∀ w ∈ ws, w.inRange) →
        u.qr k = acc.getD (t.qr k) →
        (u.writes ws).qr k = (ws.foldl (fun acc w => match w with
          | .q a x => if a = k then some x else acc
          | _ => acc) acc).getD (t.qr k) from H ws t none h rfl
    intro ws
    induction ws with
    | nil => intro u acc _ hu; exact hu
    | cons w rest ih =>
      intro u acc hw hu
      rw [Team.writes_cons, List.foldl_cons]
      refine ih _ _ (fun w' h' => hw w' (by simp [h'])) ?_
      cases w with
      | q a x =>
        by_cases ha : 3 ≤ a
        · have h0 : BitVec.twoPow 3 a = 0 := by
            apply BitVec.eq_of_toNat_eq; rw [BitVec.toNat_twoPow]
            exact Nat.mod_eq_zero_of_dvd (Nat.pow_dvd_pow 2 ha)
          have h1 : u.write (.q a x) = u := by
            simp only [Team.write, h0]; split
            · rfl
            · have h7 : u.q &&& ~~~(0 : BitVec 3) = u.q := by rw [show ~~~(0 : BitVec 3) = BitVec.allOnes 3 from rfl, BitVec.and_allOnes]
              have h8 : u.q ||| (0 : BitVec 3) = u.q := BitVec.or_zero
              cases x <;> simp only [h7, h8, Bool.false_eq_true, if_true, if_false]
          rw [h1]
          have : ¬(a = k) := by omega
          simp [this, hu]
        · rw [Team.qr_write_q _ _ _ _ (by omega)]
          by_cases hc : k = a
          · simp [hc]
          · have : ¬(a = k) := fun e => hc e.symm
            simp [hc, this, hu]
      | v a b x => simpa using hu
      | p a b x => simpa using hu
      | s a x => simpa using hu

/-- Registers that agree read alike. -/
theorem Written.congr {t u u' : Team} {ws : List RegWrite} (h : Written t ws u) (hv : u'.v = u.v) (hp : u'.p = u.p)
    (hs : u'.s = u.s) (hq : u'.q = u.q) : Written t ws u' := by
  refine ⟨fun r l hl => ?_, fun k l hl => ?_, fun r => ?_, fun k hk => ?_⟩
  · rw [← h.v r l hl]; simp only [Team.vr, hv]
  · rw [← h.p k l hl]; simp only [Team.pr, hp]
  · rw [← h.s r]; simp only [Team.sr, hs]
  · rw [← h.q k hk]; simp only [Team.qr, hq]

/-- A change of the issuing team that keeps its paths and everything but registers, FST and results in flight, followed
by the move past the instruction, is a completion. -/
theorem completed_of {s : State} {x : Issuer} (hx : s.issuer = some x) (len : Nat) (mark : Bool) (f : Team → Team)
    (hf : f x.t = { x.t with v := (f x.t).v, p := (f x.t).p, s := (f x.t).s, q := (f x.t).q, fst := (f x.t).fst,
                             long := (f x.t).long }) :
    Completed s x len mark ((s.modTeam x.tk f).pass x len mark) ((f x.t).pass x.pi len mark) := by
  obtain ⟨ht, hp⟩ := issuer_spec hx
  have hpaths : (f x.t).paths = x.t.paths := by rw [hf]
  refine { rest := rfl, others := ?_, here := ?_, memory := ⟨fun _ _ => rfl, fun _ _ => rfl⟩, moved := ⟨?_, ?_⟩,
           team := ?_ }
  · intro k hk; simp [State.pass, hk]
  · simp [State.pass, ht]
  · rw [Team.path_pass]
    have : (f x.t).path x.pi = some x.path := by simp only [Team.path, hpaths]; exact hp
    simp only [if_true, this, Option.map_some, Issuer.after]
    simp [Team.pass, Team.modPath, Team.outstanding, Team.engineResult]
  · intro j hj
    rw [Team.path_pass, if_neg hj]; simp only [Team.path, hpaths]
  · have H : ∀ a b c d e k, f x.t = { x.t with v := a, p := b, s := c, q := d, fst := e, long := k } →
        (f x.t).pass x.pi len mark =
          { x.t with v := ((f x.t).pass x.pi len mark).v, p := ((f x.t).pass x.pi len mark).p,
                     s := ((f x.t).pass x.pi len mark).s, q := ((f x.t).pass x.pi len mark).q,
                     fst := ((f x.t).pass x.pi len mark).fst, long := ((f x.t).pass x.pi len mark).long,
                     paths := ((f x.t).pass x.pi len mark).paths } := by
      intro a b c d e k h; rw [h]; rfl
    exact H _ _ _ _ _ _ hf

theorem shortOp_completes {s : State} {x : Issuer} (hx : s.issuer = some x) (h : Hdr) (len : Nat)
    (f : Issuer → List RegWrite × Word) (hr : ∀ w ∈ (f x).1, w.inRange) :
    ∃ t t', shortOp s h len f = .next t ∧ Completed s x len h.s t t' ∧
      Delivered x { len := len, mark := h.s, long := false, ws := (f x).1, flags := (f x).2 } t' := by
  refine ⟨_, _, ?_, completed_of hx len h.s (fun t => (t.writes (f x).1).orFst (f x).2) ?_, ?_⟩
  · simp only [shortOp, withIssuer, hx]
  · simp only [Team.orFst]; rw [Team.writes_rest]
  · refine ⟨?_, ?_, ?_⟩
    · simp only [Result.inFlight, Bool.false_and, Bool.false_eq_true, if_false]
      exact (written_writes x.t _ hr).congr rfl rfl rfl rfl
    · simp [Result.inFlight, Team.pass, Team.modPath, Team.orFst]
    · simp [Result.inFlight, Team.pass, Team.modPath, Team.orFst]

theorem longOp_completes {s : State} {x : Issuer} (hx : s.issuer = some x) (h : Hdr)
    (f : Issuer → List RegWrite × Word) :
    ∃ t t', longOp s h f = .next t ∧ Completed s x 4 h.s t t' ∧
      Delivered x { len := 4, mark := h.s, long := true, ws := (f x).1, flags := (f x).2 } t' := by
  refine ⟨_, _, ?_, completed_of hx 4 h.s (fun t => t.addLong none [x.pi] (f x).1 (f x).2) ?_, ?_⟩
  · simp only [longOp, withIssuer, hx]
  · dsimp only [Team.addLong]; split <;> rfl
  · have key : ∀ u : Team, u.v = x.t.v → u.p = x.t.p → u.s = x.t.s → u.q = x.t.q → Written x.t [] u :=
      fun u a b c d => (written_writes x.t [] (by simp)).congr a b c d
    by_cases he : (f x).1.isEmpty
    · have he' : (f x).1 = [] := by simpa using he
      refine ⟨?_, ?_, ?_⟩
      · simp only [Result.inFlight, he', List.isEmpty_nil, Bool.not_true, Bool.and_false, Bool.false_eq_true, if_false]
        apply key <;> simp [Team.addLong, Team.pass, Team.modPath, Team.orFst]
      · simp [Result.inFlight, he', Team.addLong, Team.pass, Team.modPath, Team.orFst]
      · simp [Result.inFlight, he', Team.addLong, Team.pass, Team.modPath, Team.orFst]
    · refine ⟨?_, ?_, ?_⟩
      · simp only [Result.inFlight, he, Bool.not_false, Bool.true_and, if_true]
        apply key <;> simp [Team.addLong, Team.pass, Team.modPath, he]
      · simp [Result.inFlight, he, Team.addLong, Team.pass, Team.modPath]
      · simp [Result.inFlight, he, Team.addLong, Team.pass, Team.modPath]

theorem crossOp_completes {s : State} {x : Issuer} (hx : s.issuer = some x) (h : Hdr)
    (f : Issuer → List RegWrite × Word) (hr : ∀ w ∈ (f x).1, w.inRange) :
    ∃ t t', crossOp s h f = .next t ∧ Completed s x 4 h.s t t' ∧
      Delivered x { len := 4, mark := h.s, long := decide (x.t.width ≠ 32), ws := (f x).1, flags := (f x).2 } t' := by
  simp only [crossOp, hx]
  by_cases hw : x.t.width = 32
  · simp only [hw, if_true, ne_eq, not_true_eq_false, decide_false]; exact shortOp_completes hx h 4 f hr
  · simp only [hw, if_false, ne_eq, not_false_eq_true, decide_true]; exact longOp_completes hx h f

/-- Writes made in acting lanes are in range. -/
theorem inRange_lanes {x : Issuer} {h : Hdr} {g : Nat → List RegWrite} (hg : ∀ l, ∀ w ∈ g l, w.inLane l) :
    ∀ w ∈ (x.lanes h).flatMap g, w.inRange := by
  intro w hw
  rw [List.mem_flatMap] at hw
  obtain ⟨l, hl, hw⟩ := hw
  have hlt : l < 1024 := lt_of_mem_lanesOf hl
  have := hg l w hw
  cases w <;> simp only [RegWrite.inLane] at this <;> simp_all [RegWrite.inRange]

theorem laneShort_completes {s : State} {x : Issuer} (hx : s.issuer = some x) (h : Hdr) (len : Nat)
    (ws : Team → Nat → List RegWrite) (hin : ∀ l, ∀ w ∈ ws x.t l, w.inLane l) :
    ∃ t t', laneShort s h len ws = .next t ∧ Completed s x len h.s t t' ∧ Delivered x (perLane x h len (ws x.t)) t' :=
  shortOp_completes hx h len _ (inRange_lanes hin)

theorem uniShort_completes {s : State} {x : Issuer} (hx : s.issuer = some x) (h : Hdr) (ws : Team → List RegWrite)
    (hr : ∀ w ∈ ws x.t, w.inRange) :
    ∃ t t', uniShort s h ws = .next t ∧ Completed s x 4 h.s t t' ∧ Delivered x (perTeam x h (ws x.t)) t' := by
  refine shortOp_completes hx h 4 _ ?_
  intro w hw
  split at hw
  · exact hr w hw
  · cases hw

/-- The model's pair writes are those of the rules. -/
theorem wWrites_eq (r l : Nat) (x : Dword) : wWrites r l x = pairWrites r l x := by
  have h1 : loWord x = word x.toNat := by apply BitVec.eq_of_toNat_eq; simp [loWord, word]
  have h2 : hiWord x = word (x.toNat / 2 ^ 32) := by
    apply BitVec.eq_of_toNat_eq; simp [hiWord, word, Nat.shiftRight_eq_div_pow]
  simp [wWrites, pairWrites, h1, h2]

theorem zWrites_eq (r : Nat) (x : Dword) : zWrites r x = uniPairWrites r x := by
  have h1 : loWord x = word x.toNat := by apply BitVec.eq_of_toNat_eq; simp [loWord, word]
  have h2 : hiWord x = word (x.toNat / 2 ^ 32) := by
    apply BitVec.eq_of_toNat_eq; simp [hiWord, word, Nat.shiftRight_eq_div_pow]
  simp [zWrites, uniPairWrites, h1, h2]

end Sys2Proof.Machine
end

