-- ==== Sys2Proof/Tests/Slice0.lean ====
section
/-!
SUPPORT. Tests: well-formedness, the encoding of every encoded instruction, small single steps whose results are worked
out from the rules by hand, and for every statement states and operands that meet its hypotheses.
-/
open Sys2Proof Sys2Proof.Machine
namespace Sys2Proof.Tests

-- One proof at a time: kernel evaluations that wait for one another would each hold a thread of their own.
set_option Elab.async false

/-! ### Small machines -/

/-- A header that acts everywhere, and one that acts nowhere while predicate 0 is false. -/
def H0 : Hdr := { s := false, p := 7, n := false }
def Hoff : Hdr := { s := false, p := 0, n := false }
/-- A path at the loaded entry with lanes 0 to 3. -/
def path0 : Path :=
  { pc := 0x10000, mask := 0xF, fmt := 0, entryFmt := 0, st := .ready, mark := false, hold := false, skipBp := 0,
    trap := none }
/-- The supervisor and the user team of a loaded machine, each with that path. -/
def sup : Team := { loadedTeam with sup := true, paths := [(0, path0)] }
def user : Team := { loadedTeam with gid := 1, core := 1, paths := [(0, path0)] }
/-- The loaded machine with these two teams, of which tk issues with path 0. -/
def mach (a b : Team) (tk : Nat) : State :=
  { State.reset.loaded with teams := [(0, a), (1, b)], cur := some (tk, 0) }
/-- The issuer of such a machine. -/
def iss (tk : Nat) (t : Team) : Issuer := { tk := tk, t := t, pi := 0, path := path0 }
/-- Partition 0 of the loaded machine with other registers. -/
def partRegs (rs : List (Nat × Word)) : Part := { loadedPart with regs := rs.foldl (fun m e => dput 0 m e.1 e.2) loadedPart.regs }
/-- A line of a user address space of partition 0, or of its supervisor, with these bytes. -/
def lineAt (va : Nat) (bs : List Byte) : Nat × Line := (lineKey 0 va, { data := BitVec.ofNat 1024 (natOfBytes bs), dirty := 0, bad := 0, home := 2 })

/-- A read that succeeds with a value, as a test that evaluates. -/
def okPair {α β : Type} [DecidableEq α] (r : Tried (State × Except β α)) (s : State) (a : α) : Bool :=
  match r with
  | .ok (t, .ok b) => decide (t = s) && decide (b = a)
  | _ => false
theorem okPair_eq {α β : Type} [DecidableEq α] {r : Tried (State × Except β α)} {s : State} {a : α} (h : okPair r s a = true) :
    r = .ok (s, .ok a) := by
  unfold okPair at h
  split at h
  · simp only [Bool.and_eq_true, decide_eq_true_eq] at h; rw [h.1, h.2]
  · cases h

/-! ### Well-formedness: an ill-formed term for each check (03 R63, R64, R67, R75, R86) -/

/-- An event has no encoding, nor has iadd.c v0, v0; pred 7 with N 1 is reserved; code 10 of setp is unassigned; size code 7
of ld.g is reserved; an odd pair register is misaligned. -/
theorem test_ill_formed_refused :
    WellFormed (.iadd { h := H0, d := 1, a := 2, b := 3 }) = true ∧
    WellFormed (.teamRetire 1) = false ∧
    WellFormed (.iaddC { s := false, d := 0, b := 0 }) = false ∧
    WellFormed (.iadd { h := { s := false, p := 7, n := true }, d := 1, a := 2, b := 3 }) = false ∧
    WellFormed (.setp { h := H0, cc := 10, pd := 1, a := 2, b := 3 }) = false ∧
    WellFormed (.ldG { h := H0, sz := 7, zb := 1, i := 2, d := 3 }) = false ∧
    WellFormed (.iadd64 { h := H0, d := 1, a := 2, b := 4 }) = false := by decide +kernel

/-- Why bytes do not decode. -/
noncomputable def refusal (bs : List Byte) : Option DecodeError :=
  match decode bs with
  | .ok _ => none
  | .error e => some e

/-- The decoder refuses by name: the halfwords of R63, the unassigned major 0x16, cc 10 of setp, a reserved bit of nop, and
bytes that end too early. -/
theorem test_decode_refuses :
    refusal [0x00, 0x00] = some .reservedHalfword ∧ refusal [0x02, 0x00] = some .reservedHalfword ∧
    refusal [0x59, 0x07, 0x00, 0x00] = some .unassigned ∧ refusal [0x3D, 0x07, 0x00, 0xA0] = some .unassigned ∧
    refusal [0x51, 0x07, 0x00, 0x02] = some (.reservedField false) ∧ refusal [0x01, 0x07, 0x00] = some .truncated := by
  decide +kernel

/-! ### Every encoding, its fields written out (03 R61-R85) -/

/-- Marker set, predicate 2, inverted. -/
def H : Hdr := { s := true, p := 2, n := true }

theorem test_decodes_1 : ∀ e ∈ ([
  (16, 0x2A42, .iaddC { s := true, b := 5, d := 9 }),
  (16, 0x2A46, .isubC { s := true, b := 5, d := 9 }),
  (16, 0x2A4A, .iandC { s := true, b := 5, d := 9 }),
  (16, 0x2A4E, .iorC { s := true, b := 5, d := 9 }),
  (16, 0x2A52, .ixorC { s := true, b := 5, d := 9 }),
  (16, 0x2A56, .ishlC { s := true, b := 5, d := 9 }),
  (16, 0x2A5A, .ishrC { s := true, b := 5, d := 9 }),
  (16, 0x2A5E, .isarC { s := true, b := 5, d := 9 }),
  (16, 0x2A62, .movC { s := true, b := 5, d := 9 }),
  (16, 0xAA66, .addiC { s := true, i := 21, d := 9 }),
  (16, 0x2A6A, .imulC { s := true, b := 5, d := 9 }),
  (16, 0x2A6E, .faddC { s := true, b := 5, d := 9 }),
  (16, 0x2A72, .fsubC { s := true, b := 5, d := 9 }),
  (16, 0x2A76, .fmulC { s := true, b := 5, d := 9 }),
  (16, 0x2A7A, .fmaxC { s := true, b := 5, d := 9 }),
  (16, 0x2A7E, .fminC { s := true, b := 5, d := 9 }),
  (32, 0x14308A03, .iadd { h := H, b := 20, a := 12, d := 8 }),
  (32, 0x54308A03, .isub { h := H, b := 20, a := 12, d := 8 }),
  (32, 0x94308A03, .imul { h := H, b := 20, a := 12, d := 8 }),
  (32, 0xD4308A03, .imad { h := H, b := 20, a := 12, d := 8 }),
  (32, 0x14308A07, .mulhiS { h := H, b := 20, a := 12, d := 8 }),
  (32, 0x54308A07, .mulhiN { h := H, b := 20, a := 12, d := 8 }),
  (32, 0x94308A07, .mulwS { h := H, b := 20, a := 12, d := 8 }),
  (32, 0xD4308A07, .mulwN { h := H, b := 20, a := 12, d := 8 }),
  (32, 0x14308A0B, .iand { h := H, b := 20, a := 12, d := 8 }),
  (32, 0x54308A0B, .ior { h := H, b := 20, a := 12, d := 8 }),
  (32, 0x94308A0B, .ixor { h := H, b := 20, a := 12, d := 8 }),
  (32, 0xD4308A0B, .iandn { h := H, b := 20, a := 12, d := 8 })] : List (Nat × Nat × Instr)),
    decodeTableWord e.1 e.2.1 = some e.2.2 := by decide +kernel

theorem test_decodes_2 : ∀ e ∈ ([
  (32, 0x14308A0F, .ishl { h := H, b := 20, a := 12, d := 8 }),
  (32, 0x54308A0F, .ishr { h := H, b := 20, a := 12, d := 8 }),
  (32, 0x94308A0F, .isar { h := H, b := 20, a := 12, d := 8 }),
  (32, 0xD4308A0F, .irot { h := H, b := 20, a := 12, d := 8 }),
  (32, 0x14308A13, .iminS { h := H, b := 20, a := 12, d := 8 }),
  (32, 0x54308A13, .iminN { h := H, b := 20, a := 12, d := 8 }),
  (32, 0x94308A13, .imaxS { h := H, b := 20, a := 12, d := 8 }),
  (32, 0xD4308A13, .imaxN { h := H, b := 20, a := 12, d := 8 }),
  (32, 0x14308A17, .bfeS { h := H, b := 20, a := 12, d := 8 }),
  (32, 0x54308A17, .bfeN { h := H, b := 20, a := 12, d := 8 }),
  (32, 0x94308A17, .bfi { h := H, b := 20, a := 12, d := 8 }),
  (32, 0xD4308A17, .sel { h := H, b := 20, a := 12, d := 8 }),
  (32, 0x14308A1B, .iadd64 { h := H, b := 20, a := 12, d := 8 }),
  (32, 0x54308A1B, .isub64 { h := H, b := 20, a := 12, d := 8 }),
  (32, 0x94308A1B, .ishl64 { h := H, b := 20, a := 12, d := 8 }),
  (32, 0xD4308A1B, .ishr64 { h := H, b := 20, a := 12, d := 8 }),
  (32, 0x15308A1F, .addi { h := H, i := 21, a := 12, d := 8 }),
  (32, 0x55308A1F, .shli { h := H, i := 21, a := 12, d := 8 }),
  (32, 0x95308A1F, .shri { h := H, i := 21, a := 12, d := 8 }),
  (32, 0xD5308A1F, .sari { h := H, i := 21, a := 12, d := 8 }),
  (32, 0x00308A23, .popc { h := H, a := 12, d := 8 }),
  (32, 0x01308A23, .clz { h := H, a := 12, d := 8 }),
  (32, 0x02308A23, .ctz { h := H, a := 12, d := 8 }),
  (32, 0x03308A23, .brev { h := H, a := 12, d := 8 }),
  (32, 0x04308A23, .ineg { h := H, a := 12, d := 8 }),
  (32, 0x05308A23, .inot { h := H, a := 12, d := 8 }),
  (32, 0x06308A23, .iabs { h := H, a := 12, d := 8 }),
  (32, 0x07308A23, .sextB8 { h := H, a := 12, d := 8 })] : List (Nat × Nat × Instr)),
    decodeTableWord e.1 e.2.1 = some e.2.2 := by decide +kernel

theorem test_decodes_3 : ∀ e ∈ ([
  (32, 0x08308A23, .sextB16 { h := H, a := 12, d := 8 }),
  (32, 0x09308A23, .zextB8 { h := H, a := 12, d := 8 }),
  (32, 0x0A308A23, .zextB16 { h := H, a := 12, d := 8 }),
  (32, 0x0B308A23, .popc64 { h := H, a := 12, d := 8 }),
  (32, 0x0C308A23, .clz64 { h := H, a := 12, d := 8 }),
  (32, 0x0D308A23, .ineg64 { h := H, a := 12, d := 8 }),
  (32, 0x40308A23, .popcUniform { h := H, a := 12, d := 8 }),
  (32, 0x41308A23, .clzUniform { h := H, a := 12, d := 8 }),
  (32, 0x42308A23, .ctzUniform { h := H, a := 12, d := 8 }),
  (32, 0x43308A23, .brevUniform { h := H, a := 12, d := 8 }),
  (32, 0x44308A23, .inegUniform { h := H, a := 12, d := 8 }),
  (32, 0x45308A23, .inotUniform { h := H, a := 12, d := 8 }),
  (32, 0x46308A23, .iabsUniform { h := H, a := 12, d := 8 }),
  (32, 0x47308A23, .sextB8Uniform { h := H, a := 12, d := 8 }),
  (32, 0x48308A23, .sextB16Uniform { h := H, a := 12, d := 8 }),
  (32, 0x49308A23, .zextB8Uniform { h := H, a := 12, d := 8 }),
  (32, 0x4A308A23, .zextB16Uniform { h := H, a := 12, d := 8 }),
  (32, 0x4B308A23, .popc64Uniform { h := H, a := 12, d := 8 }),
  (32, 0x4C308A23, .clz64Uniform { h := H, a := 12, d := 8 }),
  (32, 0x4D308A23, .ineg64Uniform { h := H, a := 12, d := 8 }),
  (32, 0x00308A27, .movVV { h := H, a := 12, d := 8 }),
  (32, 0x10308A27, .movVS { h := H, a := 12, d := 8 }),
  (32, 0x20308A27, .movSS { h := H, a := 12, d := 8 }),
  (32, 0x30308A27, .movSV { h := H, a := 12, d := 8 }),
  (32, 0x40308A27, .movVSpecial { h := H, a := 12, d := 8 }),
  (32, 0x50308A27, .movSSpecial { h := H, a := 12, d := 8 }),
  (32, 0x60308A27, .movWW { h := H, a := 12, d := 8 }),
  (32, 0x70308A27, .movZZ { h := H, a := 12, d := 8 })] : List (Nat × Nat × Instr)),
    decodeTableWord e.1 e.2.1 = some e.2.2 := by decide +kernel

theorem test_decodes_4 : ∀ e ∈ ([
  (32, 0x80308A27, .movPV { h := H, a := 12, d := 8 }),
  (32, 0x90308A27, .movVP { h := H, a := 12, d := 8 }),
  (32, 0xA0308A27, .movQS { h := H, a := 12, d := 8 }),
  (32, 0xB0308A27, .movSQ { h := H, a := 12, d := 8 }),
  (32, 0xC0308A27, .movWZ { h := H, a := 12, d := 8 }),
  (32, 0x92308A2B, .movi { h := H, i := 2339, d := 8 }),
  (32, 0x92348A2B, .moviH1 { h := H, i := 2339, d := 8 }),
  (32, 0x0C588A2B, .moviH2 { h := H, i := 197, d := 8 }),
  (32, 0x92308A2F, .moviUniform { h := H, i := 2339, d := 8 }),
  (32, 0x92348A2F, .moviH1Uniform { h := H, i := 2339, d := 8 }),
  (32, 0x0C588A2F, .moviH2Uniform { h := H, i := 197, d := 8 }),
  (32, 0x14308A33, .iaddUniform { h := H, b := 20, a := 12, d := 8 }),
  (32, 0x54308A33, .isubUniform { h := H, b := 20, a := 12, d := 8 }),
  (32, 0x94308A33, .imulUniform { h := H, b := 20, a := 12, d := 8 }),
  (32, 0xD4308A33, .iadd64Uniform { h := H, b := 20, a := 12, d := 8 }),
  (32, 0x14308A37, .iandUniform { h := H, b := 20, a := 12, d := 8 }),
  (32, 0x54308A37, .iorUniform { h := H, b := 20, a := 12, d := 8 }),
  (32, 0x94308A37, .ixorUniform { h := H, b := 20, a := 12, d := 8 }),
  (32, 0xD4308A37, .ishlUniform { h := H, b := 20, a := 12, d := 8 }),
  (32, 0x15308A3B, .addiUniform { h := H, i := 21, a := 12, d := 8 }),
  (32, 0x55308A3B, .shliUniform { h := H, i := 21, a := 12, d := 8 }),
  (32, 0x95308A3B, .shriUniform { h := H, i := 21, a := 12, d := 8 }),
  (32, 0xD5308A3B, .addi64Uniform { h := H, i := 21, a := 12, d := 8 }),
  (32, 0x34314A3F, .setp { h := H, cc := 3, pd := 2, a := 12, b := 20 }),
  (32, 0x35314A3F, .setpUniform { h := H, cc := 3, pd := 2, a := 12, b := 20 }),
  (32, 0x92345A43, .bra { h := H, off := 598853 }),
  (32, 0x92345A47, .braU { h := H, off := 598853 }),
  (32, 0xA4689A4B, .call { h := H, off := 21044, w := 9 })] : List (Nat × Nat × Instr)),
    decodeTableWord e.1 e.2.1 = some e.2.2 := by decide +kernel

theorem test_decodes_5 : ∀ e ∈ ([
  (32, 0x00300A4F, .jmp { h := H, a := 12 }),
  (32, 0x40308A4F, .callr { h := H, a := 12, d := 8 }),
  (32, 0x80300A4F, .ret { h := H, a := 12 }),
  (32, 0x00000A53, .nop H),
  (32, 0x04000A53, .exit H),
  (32, 0x0B680A53, .trap { h := H, i := 218 }),
  (32, 0x0C280A53, .prog { h := H, i := 10 }),
  (32, 0x10008A53, .rand { h := H, d := 8 }),
  (32, 0x14008A53, .randUniform { h := H, d := 8 }),
  (32, 0x1B680A53, .brk { h := H, i := 218 }),
  (32, 0xA4689A57, .adr { h := H, off := 21044, w := 9 }),
  (32, 0x14308A63, .shflIdx { h := H, b := 20, a := 12, d := 8 }),
  (32, 0x54308A63, .shflXor { h := H, b := 20, a := 12, d := 8 }),
  (32, 0x94308A63, .shflUp { h := H, b := 20, a := 12, d := 8 }),
  (32, 0xD4308A63, .shflDown { h := H, b := 20, a := 12, d := 8 }),
  (32, 0x2A000A67, .voteAny { h := H, ps := 5, pd := 2 }),
  (32, 0x2A800A67, .voteAnyUniform { h := H, ps := 5, pd := 2 }),
  (32, 0x6A000A67, .voteAll { h := H, ps := 5, pd := 2 }),
  (32, 0x6A800A67, .voteAllUniform { h := H, ps := 5, pd := 2 }),
  (32, 0xA8008A67, .voteCount { h := H, ps := 5, d := 8 }),
  (32, 0xA8808A67, .voteCountUniform { h := H, ps := 5, d := 8 }),
  (32, 0xE8008A67, .voteBallot { h := H, ps := 5, d := 8 }),
  (32, 0xE8808A67, .voteBallotUniform { h := H, ps := 5, d := 8 }),
  (32, 0x00308A6B, .scanIncI32 { h := H, a := 12, d := 8 }),
  (32, 0x40308A6B, .scanExcI32 { h := H, a := 12, d := 8 }),
  (32, 0x80308A6B, .scanIncF32 { h := H, a := 12, d := 8 }),
  (32, 0xC0308A6B, .scanExcF32 { h := H, a := 12, d := 8 }),
  (32, 0x28308A6F, .matchLead { h := H, pd := 5, a := 12, d := 8 })] : List (Nat × Nat × Instr)),
    decodeTableWord e.1 e.2.1 = some e.2.2 := by decide +kernel

theorem test_decodes_6 : ∀ e ∈ ([
  (32, 0x68308A6F, .matchRank { h := H, pd := 5, a := 12, d := 8 }),
  (32, 0xA8308A6F, .matchSumI32 { h := H, pd := 5, a := 12, d := 8 }),
  (32, 0xE8308A6F, .matchSumF32 { h := H, pd := 5, a := 12, d := 8 }),
  (32, 0x00300773, .regroup { s := true, a := 12 }),
  (32, 0x14308A83, .faddF32 { h := H, b := 20, a := 12, d := 8 }),
  (32, 0x54308A83, .fsubF32 { h := H, b := 20, a := 12, d := 8 }),
  (32, 0x94308A83, .fmulF32 { h := H, b := 20, a := 12, d := 8 }),
  (32, 0xD4308A83, .ffmaF32 { h := H, b := 20, a := 12, d := 8 }),
  (32, 0x14308A87, .fminF32 { h := H, b := 20, a := 12, d := 8 }),
  (32, 0x54308A87, .fmaxF32 { h := H, b := 20, a := 12, d := 8 }),
  (32, 0x94308A87, .fdivF32 { h := H, b := 20, a := 12, d := 8 }),
  (32, 0xD4308A87, .fcpsgnF32 { h := H, b := 20, a := 12, d := 8 }),
  (32, 0x14308A8B, .faddF64 { h := H, b := 20, a := 12, d := 8 }),
  (32, 0x54308A8B, .fsubF64 { h := H, b := 20, a := 12, d := 8 }),
  (32, 0x94308A8B, .fmulF64 { h := H, b := 20, a := 12, d := 8 }),
  (32, 0xD4308A8B, .ffmaF64 { h := H, b := 20, a := 12, d := 8 }),
  (32, 0x14308A8F, .fminF64 { h := H, b := 20, a := 12, d := 8 }),
  (32, 0x54308A8F, .fmaxF64 { h := H, b := 20, a := 12, d := 8 }),
  (32, 0x94308A8F, .fdivF64 { h := H, b := 20, a := 12, d := 8 }),
  (32, 0xD4308A8F, .fcpsgnF64 { h := H, b := 20, a := 12, d := 8 }),
  (32, 0x14308A93, .faddF16x2 { h := H, b := 20, a := 12, d := 8 }),
  (32, 0x54308A93, .fsubF16x2 { h := H, b := 20, a := 12, d := 8 }),
  (32, 0x94308A93, .fmulF16x2 { h := H, b := 20, a := 12, d := 8 }),
  (32, 0xD4308A93, .ffmaF16x2 { h := H, b := 20, a := 12, d := 8 }),
  (32, 0x14308A97, .fminF16x2 { h := H, b := 20, a := 12, d := 8 }),
  (32, 0x54308A97, .fmaxF16x2 { h := H, b := 20, a := 12, d := 8 }),
  (32, 0x00308A9B, .fsqrtF32 { h := H, a := 12, d := 8 }),
  (32, 0x01308A9B, .fsqrtF64 { h := H, a := 12, d := 8 })] : List (Nat × Nat × Instr)),
    decodeTableWord e.1 e.2.1 = some e.2.2 := by decide +kernel

theorem test_decodes_7 : ∀ e ∈ ([
  (32, 0x02308A9B, .frcpF32 { h := H, a := 12, d := 8 }),
  (32, 0x03308A9B, .frsqF32 { h := H, a := 12, d := 8 }),
  (32, 0x04308A9B, .fex2F32 { h := H, a := 12, d := 8 }),
  (32, 0x05308A9B, .flg2F32 { h := H, a := 12, d := 8 }),
  (32, 0x06308A9B, .fsinF32 { h := H, a := 12, d := 8 }),
  (32, 0x07308A9B, .fcosF32 { h := H, a := 12, d := 8 }),
  (32, 0x08308A9B, .fabsF32 { h := H, a := 12, d := 8 }),
  (32, 0x09308A9B, .fnegF32 { h := H, a := 12, d := 8 }),
  (32, 0x0A308A9B, .fabsF64 { h := H, a := 12, d := 8 }),
  (32, 0x0B308A9B, .fnegF64 { h := H, a := 12, d := 8 }),
  (32, 0x0C308A9B, .fclassF32 { h := H, a := 12, d := 8 }),
  (32, 0x0D308A9B, .fclassF64 { h := H, a := 12, d := 8 }),
  (32, 0x0E308A9B, .frintF32 { h := H, a := 12, d := 8 }),
  (32, 0x0F308A9B, .frintF64 { h := H, a := 12, d := 8 }),
  (32, 0x34314A9F, .fsetpF32 { h := H, cc := 3, pd := 2, a := 12, b := 20 }),
  (32, 0x34314AA3, .fsetpF64 { h := H, cc := 3, pd := 2, a := 12, b := 20 }),
  (32, 0x80308AA7, .cvtF32F64 { h := H, rnd := 4, a := 12, d := 8 }),
  (32, 0x01308AA7, .cvtF64F32 { h := H, a := 12, d := 8 }),
  (32, 0x82308AA7, .cvtF16F32 { h := H, rnd := 4, a := 12, d := 8 }),
  (32, 0x03308AA7, .cvtF32F16 { h := H, a := 12, d := 8 }),
  (32, 0x84308AA7, .cvtBf16F32 { h := H, rnd := 4, a := 12, d := 8 }),
  (32, 0x05308AA7, .cvtF32Bf16 { h := H, a := 12, d := 8 }),
  (32, 0x86308AA7, .cvtE4m3F32 { h := H, rnd := 4, a := 12, d := 8 }),
  (32, 0x87308AA7, .cvtE5m2F32 { h := H, rnd := 4, a := 12, d := 8 }),
  (32, 0x08308AA7, .cvtF32E4m3 { h := H, a := 12, d := 8 }),
  (32, 0x09308AA7, .cvtF32E5m2 { h := H, a := 12, d := 8 }),
  (32, 0x8A308AA7, .cvtE2m1F32 { h := H, rnd := 4, a := 12, d := 8 }),
  (32, 0x0B308AA7, .cvtF32E2m1 { h := H, a := 12, d := 8 })] : List (Nat × Nat × Instr)),
    decodeTableWord e.1 e.2.1 = some e.2.2 := by decide +kernel

theorem test_decodes_8 : ∀ e ∈ ([
  (32, 0x8C308AA7, .cvtP2p8F32 { h := H, rnd := 4, a := 12, d := 8 }),
  (32, 0x0D308AA7, .cvtF32P2p8 { h := H, a := 12, d := 8 }),
  (32, 0x8E308AA7, .cvtS32F32 { h := H, rnd := 4, a := 12, d := 8 }),
  (32, 0x8F308AA7, .cvtN32F32 { h := H, rnd := 4, a := 12, d := 8 }),
  (32, 0x90308AA7, .cvtF32S32 { h := H, rnd := 4, a := 12, d := 8 }),
  (32, 0x91308AA7, .cvtF32N32 { h := H, rnd := 4, a := 12, d := 8 }),
  (32, 0x92308AA7, .cvtS32F64 { h := H, rnd := 4, a := 12, d := 8 }),
  (32, 0x13308AA7, .cvtF64S32 { h := H, a := 12, d := 8 }),
  (32, 0x94308AA7, .cvtS64F64 { h := H, rnd := 4, a := 12, d := 8 }),
  (32, 0x95308AA7, .cvtF64S64 { h := H, rnd := 4, a := 12, d := 8 }),
  (32, 0x96308AA7, .cvtS8F32 { h := H, rnd := 4, a := 12, d := 8 }),
  (32, 0x97308AA7, .cvtS4F32 { h := H, rnd := 4, a := 12, d := 8 }),
  (32, 0x18308AA7, .cvtF32S8 { h := H, a := 12, d := 8 }),
  (32, 0x19308AA7, .cvtF32S4 { h := H, a := 12, d := 8 }),
  (32, 0x9A308AA7, .cvtF16F64 { h := H, rnd := 4, a := 12, d := 8 }),
  (32, 0x9B308AA7, .cvtE8m0F32 { h := H, rnd := 4, a := 12, d := 8 }),
  (32, 0x1C308AA7, .cvtF32E8m0 { h := H, a := 12, d := 8 }),
  (32, 0x80308AAB, .cvtSatF32F64 { h := H, rnd := 4, a := 12, d := 8 }),
  (32, 0x82308AAB, .cvtSatF16F32 { h := H, rnd := 4, a := 12, d := 8 }),
  (32, 0x84308AAB, .cvtSatBf16F32 { h := H, rnd := 4, a := 12, d := 8 }),
  (32, 0x86308AAB, .cvtSatE4m3F32 { h := H, rnd := 4, a := 12, d := 8 }),
  (32, 0x87308AAB, .cvtSatE5m2F32 { h := H, rnd := 4, a := 12, d := 8 }),
  (32, 0x8A308AAB, .cvtSatE2m1F32 { h := H, rnd := 4, a := 12, d := 8 }),
  (32, 0x8C308AAB, .cvtSatP2p8F32 { h := H, rnd := 4, a := 12, d := 8 }),
  (32, 0x8E308AAB, .cvtSatS32F32 { h := H, rnd := 4, a := 12, d := 8 }),
  (32, 0x8F308AAB, .cvtSatN32F32 { h := H, rnd := 4, a := 12, d := 8 }),
  (32, 0x90308AAB, .cvtSatF32S32 { h := H, rnd := 4, a := 12, d := 8 }),
  (32, 0x91308AAB, .cvtSatF32N32 { h := H, rnd := 4, a := 12, d := 8 })] : List (Nat × Nat × Instr)),
    decodeTableWord e.1 e.2.1 = some e.2.2 := by decide +kernel

theorem test_decodes_9 : ∀ e ∈ ([
  (32, 0x92308AAB, .cvtSatS32F64 { h := H, rnd := 4, a := 12, d := 8 }),
  (32, 0x94308AAB, .cvtSatS64F64 { h := H, rnd := 4, a := 12, d := 8 }),
  (32, 0x95308AAB, .cvtSatF64S64 { h := H, rnd := 4, a := 12, d := 8 }),
  (32, 0x96308AAB, .cvtSatS8F32 { h := H, rnd := 4, a := 12, d := 8 }),
  (32, 0x97308AAB, .cvtSatS4F32 { h := H, rnd := 4, a := 12, d := 8 }),
  (32, 0x9A308AAB, .cvtSatF16F64 { h := H, rnd := 4, a := 12, d := 8 }),
  (32, 0x9B308AAB, .cvtSatE8m0F32 { h := H, rnd := 4, a := 12, d := 8 }),
  (32, 0x14308AAF, .mxscale { h := H, b := 20, a := 12, d := 8 }),
  (32, 0x54308AAF, .mxq { h := H, b := 20, a := 12, d := 8 }),
  (32, 0x94308AAF, .mxdq { h := H, b := 20, a := 12, d := 8 }),
  (32, 0x00008AB3, .rdfmt { h := H, d := 8 }),
  (32, 0x10300AB3, .wrfmt { h := H, a := 12 }),
  (32, 0x20008AB3, .rdfpm { h := H, d := 8 }),
  (32, 0x30300AB3, .wrfpm { h := H, a := 12 }),
  (32, 0x40008AB3, .rdfst { h := H, d := 8 }),
  (32, 0x50300AB3, .wrfst { h := H, a := 12 }),
  (32, 0x60300AB3, .clrfst { h := H, a := 12 }),
  (32, 0x89548AC3, .ldG { h := H, sz := 4, zb := 9, i := 21, d := 8 }),
  (32, 0x89548AC7, .stG { h := H, sz := 4, zb := 9, i := 21, d := 8 }),
  (32, 0x1D548ACB, .ldS { h := H, sz := 3, ofs := 5, i := 21, d := 8 }),
  (32, 0x5D548ACB, .stS { h := H, sz := 3, ofs := 5, i := 21, d := 8 }),
  (32, 0x9D548ACB, .ldC { h := H, sz := 3, ofs := 5, i := 21, d := 8 }),
  (32, 0xDD548ACB, .stC { h := H, sz := 3, ofs := 5, i := 21, d := 8 }),
  (32, 0x08308ACF, .atomAdd { h := H, os := 1, a := 12, d := 8 }),
  (32, 0x09308ACF, .atomMinS { h := H, os := 1, a := 12, d := 8 }),
  (32, 0x0A308ACF, .atomMinN { h := H, os := 1, a := 12, d := 8 }),
  (32, 0x0B308ACF, .atomMaxS { h := H, os := 1, a := 12, d := 8 }),
  (32, 0x0C308ACF, .atomMaxN { h := H, os := 1, a := 12, d := 8 })] : List (Nat × Nat × Instr)),
    decodeTableWord e.1 e.2.1 = some e.2.2 := by decide +kernel

theorem test_decodes_10 : ∀ e ∈ ([
  (32, 0x0D308ACF, .atomAnd { h := H, os := 1, a := 12, d := 8 }),
  (32, 0x0E308ACF, .atomOr { h := H, os := 1, a := 12, d := 8 }),
  (32, 0x0F308ACF, .atomXor { h := H, os := 1, a := 12, d := 8 }),
  (32, 0x08308AD3, .atomExch { h := H, os := 1, a := 12, d := 8 }),
  (32, 0x09308AD3, .atomCas { h := H, os := 1, a := 12, d := 8 }),
  (32, 0x0A308AD3, .atomAddF32 { h := H, os := 1, a := 12, d := 8 }),
  (32, 0x0B308AD3, .atomAdd64 { h := H, os := 1, a := 12, d := 8 }),
  (32, 0x0C308AD3, .atomExch64 { h := H, os := 1, a := 12, d := 8 }),
  (32, 0x0D308AD3, .atomCas64 { h := H, os := 1, a := 12, d := 8 }),
  (32, 0x0E308AD3, .atomLd { h := H, os := 1, a := 12, d := 8 }),
  (32, 0x0F308AD3, .atomSt { h := H, os := 1, a := 12, d := 8 }),
  (32, 0x08308AD7, .redAdd { h := H, os := 1, a := 12, d := 8 }),
  (32, 0x09308AD7, .redAddF32 { h := H, os := 1, a := 12, d := 8 }),
  (32, 0x0A308AD7, .redMinS { h := H, os := 1, a := 12, d := 8 }),
  (32, 0x0B308AD7, .redMaxS { h := H, os := 1, a := 12, d := 8 }),
  (32, 0x0C308AD7, .redAnd { h := H, os := 1, a := 12, d := 8 }),
  (32, 0x0D308AD7, .redOr { h := H, os := 1, a := 12, d := 8 }),
  (32, 0x0E308AD7, .redXor { h := H, os := 1, a := 12, d := 8 }),
  (32, 0x0F308AD7, .redAdd64 { h := H, os := 1, a := 12, d := 8 }),
  (32, 0x08800ADB, .fence { h := H, ord := 4, scope := 2 }),
  (32, 0x15000ADB, .barC { h := H, slot := 5 }),
  (32, 0x2A008ADB, .waitn { h := H, path := 5, d := 8 }),
  (32, 0x30000ADB, .fetchw H),
  (32, 0x4000CADB, .launch { h := H, a := 12 }),
  (32, 0x5000CADB, .cp { h := H, a := 12 }),
  (32, 0x6B248ADB, .ldUB32 { h := H, i := 22, b := 9, d := 8 }),
  (32, 0x7B248ADB, .ldUB64 { h := H, i := 22, b := 9, d := 8 }),
  (32, 0xA9105ADF, .waitc { h := H, cmp := 5, za := 9, se := 4, sm := 5 })] : List (Nat × Nat × Instr)),
    decodeTableWord e.1 e.2.1 = some e.2.2 := by decide +kernel

theorem test_decodes_11 : ∀ e ∈ ([
  (32, 0x8450CAE3, .mma { h := H, acc := 2, k := 4, b := 20, a := 12 }),
  (32, 0x0C000AE7, .mzero { h := H, acc := 3 }),
  (32, 0x1850CAE7, .mldaS { h := H, acc := 2, b := 20, a := 12 }),
  (32, 0x2850CAE7, .mldaG { h := H, acc := 2, b := 20, a := 12 }),
  (32, 0x3850CAE7, .mstaS { h := H, acc := 2, b := 20, a := 12 }),
  (32, 0x4850CAE7, .mstaG { h := H, acc := 2, b := 20, a := 12 }),
  (32, 0x5850CAE7, .maddS { h := H, acc := 2, b := 20, a := 12 }),
  (32, 0x6850CAE7, .maddG { h := H, acc := 2, b := 20, a := 12 }),
  (32, 0x7850CAE7, .mrd { h := H, acc := 2, b := 20, a := 12 }),
  (32, 0x01308AEB, .mscl { h := H, u := 1, a := 12, d := 8 }),
  (32, 0x10300AEB, .ttq { h := H, a := 12 }),
  (32, 0x00308AF3, .vld { h := H, a := 12, d := 8 }),
  (32, 0x12308AF3, .vlds { h := H, sub := 2, a := 12, d := 8 }),
  (32, 0x20308AF3, .vleaf { h := H, a := 12, d := 8 }),
  (32, 0x30308AF3, .vst { h := H, a := 12, d := 8 }),
  (32, 0x40308AF3, .vactClr { h := H, a := 12, d := 8 }),
  (32, 0x41308AF3, .vactSet { h := H, a := 12, d := 8 }),
  (32, 0x50308AF3, .vmarch { h := H, a := 12, d := 8 }),
  (32, 0x60308AF3, .vins { h := H, a := 12, d := 8 }),
  (32, 0x70308AF3, .vdel { h := H, a := 12, d := 8 }),
  (32, 0x80008AF3, .halo { h := H, d := 8 }),
  (32, 0x00300AF7, .pload { h := H, a := 12 }),
  (32, 0x12000AF7, .pmode { h := H, t := 2 }),
  (32, 0x20300AF7, .pclamp { h := H, a := 12 }),
  (32, 0x30300AF7, .psweep { h := H, a := 12 }),
  (32, 0x40308AF7, .preadStates { h := H, a := 12, d := 8 }),
  (32, 0x41308AF7, .preadCounts { h := H, a := 12, d := 8 }),
  (32, 0x52000AF7, .preset { h := H, t := 2 })] : List (Nat × Nat × Instr)),
    decodeTableWord e.1 e.2.1 = some e.2.2 := by decide +kernel

theorem test_decodes_12 : ∀ e ∈ ([
  (32, 0x00308AFB, .fins { h := H, a := 12, d := 8 }),
  (32, 0x10308AFB, .resolve { h := H, a := 12, d := 8 }),
  (32, 0x11308AFB, .resolveClr { h := H, a := 12, d := 8 }),
  (32, 0x20308AFB, .lclear { h := H, a := 12, d := 8 }),
  (32, 0x30308AFB, .rast { h := H, a := 12, d := 8 }),
  (32, 0x40300AFB, .qpush { h := H, a := 12 }),
  (32, 0x41308AFB, .qpushTry { h := H, a := 12, d := 8 }),
  (32, 0x50300AFB, .qpop { h := H, a := 12 }),
  (32, 0x51308AFB, .qpopTry { h := H, a := 12, d := 8 }),
  (32, 0x0000CAFF, .cflush { h := H, a := 12 }),
  (32, 0x0400CAFF, .cwb { h := H, a := 12 }),
  (32, 0x4040CAFF, .rdpr { h := H, i := 16, a := 12 }),
  (32, 0x4440CAFF, .wrpr { h := H, i := 16, a := 12 }),
  (32, 0x48000AFF, .tret H),
  (32, 0x4C00CAFF, .tqpop { h := H, a := 12 }),
  (32, 0x5000CAFF, .halt { h := H, a := 12 }),
  (32, 0x5400CAFF, .resume { h := H, a := 12 }),
  (32, 0x5800CAFF, .cswap { h := H, a := 12 }),
  (32, 0x5C00CAFF, .tlbinv { h := H, a := 12 }),
  (32, 0x6000CAFF, .dbgh { h := H, a := 12 }),
  (32, 0x6400CAFF, .dbgr { h := H, a := 12 }),
  (32, 0x68000AFF, .wdog H),
  (32, 0x6C00CAFF, .hint { h := H, a := 12 }),
  (32, 0x7000CAFF, .catw { h := H, a := 12 })] : List (Nat × Nat × Instr)),
    decodeTableWord e.1 e.2.1 = some e.2.2 := by decide +kernel

/-! ### Witnesses: registers and control -/

/-- The user machine with nothing special, and its issuer. -/
def ms : State := mach sup user 1
def mx : Issuer := iss 1 user
theorem ms_issuer : ms.issuer = some mx := by decide +kernel

theorem witness_LaneIntegerInstructionsComplete : ∃ (i : Instr) (r : Result) (s : State) (x : Issuer), laneInteger x i = some r ∧ s.issuer = some x :=
  ⟨.iadd { h := H0, d := 1, a := 2, b := 3 }, _, ms, mx, rfl, ms_issuer⟩
theorem witness_LaneMovesAndComparisonsComplete : ∃ (i : Instr) (r : Result) (s : State) (x : Issuer), WellFormed i = true ∧ laneMove s x i = some r ∧ s.issuer = some x :=
  ⟨.movi { h := H0, d := 1, i := 0x805 }, _, ms, mx, by decide +kernel, rfl, ms_issuer⟩
/-- A special value of a team of a grid and a cohort (03 R73). -/
theorem witness_specialValue : (specialValue ms mx 2) = some 1 := by decide +kernel
theorem witness_UniformInstructionsComplete : ∃ (i : Instr) (r : Result) (s : State) (x : Issuer), WellFormed i = true ∧ uniformRow s x i = some r ∧ s.issuer = some x :=
  ⟨.addiUniform { h := H0, d := 1, a := 2, i := 3 }, _, ms, mx, by decide +kernel, rfl, ms_issuer⟩
theorem witness_FloatInstructionsComplete : ∃ (i : Instr) (r : Result) (s : State) (x : Issuer), WellFormed i = true ∧ floatRow x i = some r ∧ s.issuer = some x :=
  ⟨.ffmaF32 { h := H0, d := 1, a := 2, b := 3 }, _, ms, mx, by decide +kernel, rfl, ms_issuer⟩
theorem witness_ConversionsComplete : ∃ (i : Instr) (c : Conversion) (s : State) (x : Issuer), WellFormed i = true ∧ conversion i = some c ∧ s.issuer = some x :=
  ⟨.cvtS32F64 { h := H0, rnd := 6, d := 1, a := 2 }, _, ms, mx, by decide +kernel, rfl, ms_issuer⟩
theorem witness_QuantisationInstructionsComplete : ∃ (i : Instr) (r : Result) (s : State) (x : Issuer), mxRow x i = some r ∧ s.issuer = some x :=
  ⟨.mxscale { h := H0, d := 1, a := 2, b := 3 }, _, ms, mx, rfl, ms_issuer⟩
theorem witness_LaneCrossInstructionsComplete : ∃ (i : Instr) (r : Result) (s : State) (x : Issuer), crossRow x i = some r ∧ s.issuer = some x :=
  ⟨.shflUp { h := H0, d := 1, a := 2, b := 3 }, _, ms, mx, rfl, ms_issuer⟩

/-- A value of FPM at the edge of its legal range: RM 4, FMODE 1. -/
def fpmUser : Team := { user with s := [(5, 0x3C)] }
theorem witness_ModeWritesComplete : ∃ (i : Instr) (h : Hdr) (fmt fpm fst : Word) (s : State) (x : Issuer), modeRow x i = some (h, fmt, fpm, fst) ∧ s.issuer = some x :=
  ⟨.wrfpm { h := H0, a := 5 }, _, _, _, _, mach sup fpmUser 1, iss 1 fpmUser,
    rfl, by decide +kernel⟩

theorem witness_BranchesComplete : ∃ (i : Instr) (h : Hdr) (next : Nat → Dword) (ws : List RegWrite) (s : State) (x : Issuer), branchRow x i = some (h, next, ws) ∧ s.issuer = some x ∧
    x.active ≠ [] ∧ x.t.paths.length + (x.active.map next).eraseDups.length - 1 ≤ x.t.npaths ∧ x.t.npaths ≤ 64 :=
  ⟨.call { h := H0, off := 0x40, w := 2 }, _, _, _, ms, mx, rfl, ms_issuer, by decide +kernel⟩
/-- callr, jmp and ret to even targets are among them, and a jump to an odd target is not (05 R139). -/
theorem witness_indirect_branches :
    (branchRow mx (.callr { h := H0, d := 2, a := 4 })).isSome = true ∧ (branchRow mx (.jmp { h := H0, a := 4 })).isSome = true ∧
    (branchRow mx (.ret { h := H0, a := 4 })).isSome = true ∧ (branchRow (iss 1 { user with v := [(4096, 1)] }) (.jmp { h := H0, a := 4 })).isNone = true := by
  decide +kernel

theorem witness_ExitCompletes : ∃ (s : State) (x : Issuer), s.issuer = some x ∧ x.path.mask &&& ~~~x.acts H0 = 0 ∧
    x.path.mask &&& ~~~x.acts Hoff ≠ 0 := ⟨ms, mx, ms_issuer, by decide +kernel⟩
theorem witness_NopProgAndRandComplete : ∃ (s : State) (x : Issuer), s.issuer = some x ∧ x.t.profile = true ∧ x.lanes H0 ≠ [] :=
  ⟨mach sup { user with profile := true } 1, iss 1 { user with profile := true }, by decide +kernel⟩

theorem witness_RegroupDealsLanesByKey : ∃ (s : State) (x : Issuer), s.issuer = some x ∧ x.t.paths.length = 1 ∧ x.t.wait = .none ∧ x.t.halted = false ∧
    (x.cohort s).map Prod.fst = [x.tk] ∧ x.t.long = [] ∧ x.t.replay = [] ∧ x.t.ops = [] ∧ x.active ≠ [] :=
  ⟨ms, mx, ms_issuer, by decide +kernel⟩

/-- A cohort of two teams, of which the second has arrived at slot 3. -/
def waiter : Team := { user with team := 1, core := 2, wait := .bar 0 3 false }
def msBar : State :=
  { ms with teams := [(0, sup), (1, user), (2, waiter)],
            cohorts := ms.cohorts.map fun e => (e.1, { e.2 with teams := [1, 2] }) }
theorem msBar_cohort : mx.cohort msBar = [(1, user), (2, waiter)] := by decide +kernel
theorem witness_BarrierReleasesTheCohort : ∃ (s : State) (x : Issuer), s.issuer = some x ∧ x.lanes H0 ≠ [] ∧ x.t.replay = [] ∧
    x.t.halted = false ∧
    ((x.cohort s).map Prod.fst).Nodup ∧ x.tk ∈ (x.cohort s).map Prod.fst ∧ (x.cohort s).length ≤ 31 ∧
    barSkewOf s x.t 3 = 0 ∧
    (∀ e ∈ x.cohort s, s.team e.1 = some e.2 ∧ (e.1 ≠ x.tk → ∃ pi, e.2.wait = .bar pi 3 false ∧ e.2.replay = [])) := by
  refine ⟨msBar, mx, by decide +kernel, by decide +kernel, rfl, rfl, by decide +kernel, by decide +kernel, by decide +kernel,
    by decide +kernel, ?_⟩
  rw [msBar_cohort]
  intro e he
  simp only [List.mem_cons, List.not_mem_nil, or_false] at he
  rcases he with rfl | rfl
  · exact ⟨rfl, fun h => absurd rfl h⟩
  · exact ⟨rfl, fun _ => ⟨0, rfl, rfl⟩⟩

/-- The same cohort with its second team not yet arrived. -/
def msEarly : State := { msBar with teams := [(0, sup), (1, user), (2, { waiter with wait := .none })] }
theorem msEarly_cohort : mx.cohort msEarly = [(1, user), (2, { waiter with wait := .none })] := by decide +kernel
theorem witness_EarlierArrivalWaits : ∃ (s : State) (x : Issuer), s.issuer = some x ∧ x.lanes H0 ≠ [] ∧ (x.cohort s).length ≤ 31 ∧
    (∀ slot, slot < 16 → barSkewOf s x.t slot = 0) ∧
    ∃ e ∈ x.cohort s, e.1 ≠ x.tk ∧ s.team e.1 = some e.2 ∧ e.2.wait = .none :=
  ⟨msEarly, mx, by decide +kernel, by decide +kernel, by decide +kernel, by decide +kernel,
    (2, { waiter with wait := .none }), by rw [msEarly_cohort]; simp, by decide, by decide +kernel, rfl⟩

/-- fence with a lane acting and with none; waitn that moves on at once, at equality, and one that counts. -/
def opsUser : Team := { user with ops := [{ id := 0, apath := 2, done := false }, { id := 1, apath := 2, done := false }],
                                  s := [(4, 1), (5, 2)] }
theorem witness_FenceAndWaitnComplete : ∃ (s : State) (x : Issuer), s.issuer = some x ∧ x.lanes H0 ≠ [] ∧ x.lanes Hoff = [] ∧
    x.t.counter 2 ≤ (x.t.sr 5).toNat ∧ (x.t.sr 4).toNat < x.t.counter 2 :=
  ⟨mach sup opsUser 1, iss 1 opsUser, by decide +kernel⟩

/-- The word 7 at 0x40000, which z1 names, and comparisons with 7 and 8. -/
def waitUser : Team := { user with s := [(2, 0x40000), (4, 7), (5, 8), (6, 0xFFFFFFFF)] }
def msWait : State := { mach sup waitUser 1 with lines := [lineAt 0x40000 [7, 0, 0, 0]] }
theorem witness_WaitcComparesTheWord : ∃ (f g : WC) (s : State) (x : Issuer) (lane : Nat) (v : Word),
    s.issuer = some x ∧ x.elected f.h = some lane ∧ f.h = g.h ∧ f.za = g.za ∧ x.t.wait = .none ∧ f.cmp.toNat < 6 ∧
    s.waits.length < 16 ∧ canonicalVa (x.t.zr (2 * f.za.toNat)) = true ∧ (x.t.zr (2 * f.za.toNat)).toNat % 4 = 0 ∧
    s.cachedWord (x.agent s).gasid (x.t.zr (2 * f.za.toNat)).toNat = some v ∧
    (∀ n, n < 4 → wpMatches (s.part (pnumOf x.tk)) x.t (x.t.zr (2 * f.za.toNat)).toNat 4 true false n = false) ∧
    waitHolds f.cmp.toNat v (x.t.sr f.se.toNat) (x.t.sr f.sm.toNat) = true ∧
    waitHolds g.cmp.toNat v (x.t.sr g.se.toNat) (x.t.sr g.sm.toNat) = false :=
  ⟨{ h := H0, cmp := 0, za := 1, se := 4, sm := 6 }, { h := H0, cmp := 5, za := 1, se := 5, sm := 6 }, msWait,
    iss 1 waitUser, 0, 7, by decide +kernel⟩

/-! ### Witnesses: memory and engine instructions -/

/-- A user team with address 0x40000 in z1 and in the pair w2 of every lane, and predicate 1 in lanes 0 and 1. -/
def memUser : Team :=
  { user with s := [(2, 0x40000), (4, 0x40000)], v := [(4096, 0x40000), (4097, 0x40000), (4098, 0x40008), (4099, 0x40010)],
              p := [(1, 3)] }
def msMem : State := { mach sup memUser 1 with lines := [lineAt 0x40000 (List.range 128 |>.map fun k => BitVec.ofNat 8 (k + 1))] }
def mxMem : Issuer := iss 1 memUser
theorem msMem_issuer : msMem.issuer = some mxMem := by decide +kernel

theorem clear_of_none {x : Issuer} (h : x.t.replay = []) : x.clear := by
  intro r hr; rw [h] at hr; cases hr
theorem unawaited_of_none {s : State} {x : Issuer} {n : Nat} {a : Dword} (h : s.waits = []) : unawaited s x n a := by
  intro w hw; rw [h] at hw; cases hw

def ldF : M := { h := H0, sz := 5, zb := 1, i := 8, d := 10 }
theorem witness_GlobalLoadsComplete : ∃ (i : Instr) (mark : Bool) (n : Nat) (reqs : List (Dword × (Nat → List RegWrite)))
    (s : State) (x : Issuer), loadRow x i = some (mark, n, reqs) ∧ s.issuer = some x ∧ x.clear ∧ x.t.counter LD < 63 ∧ reqs ≠ [] ∧
    (∀ q ∈ reqs, readyAt s x n q.1 ∧ unwatched s x n q.1) :=
  ⟨.ldG ldF, false, 8, (mxMem.lanes H0).map fun l => (globalAt mxMem ldF l, loadedWrites 5 10 l), msMem, mxMem, by rfl,
    msMem_issuer, clear_of_none rfl, by decide +kernel, by decide +kernel, by unfold readyAt unwatched; decide +kernel⟩
/-- The uniform loads are in the table too, and size code 7 is not. -/
theorem witness_uniform_loads : (loadRow mxMem (.ldUB32 { h := H0, i := 1, b := 1, d := 8 })).isSome = true ∧
    (loadRow mxMem (.ldUB64 { h := H0, i := 2, b := 1, d := 8 })).isSome = true ∧
    (loadRow mxMem (.ldG { ldF with sz := 7 })).isSome = false := by decide +kernel

theorem witness_GlobalStoresWriteTheirBytesOnly : ∃ (f : M) (s : State) (x : Issuer), WellFormed (.stG f) = true ∧ s.issuer = some x ∧
    x.clear ∧ x.lanes f.h ≠ [] ∧
    (∀ l ∈ x.lanes f.h, readyAt s x (sizeBytes f.sz.toNat) (globalAt x f l) ∧
      unwatched s x (sizeBytes f.sz.toNat) (globalAt x f l) ∧ unawaited s x (sizeBytes f.sz.toNat) (globalAt x f l)) :=
  ⟨{ ldF with sz := 6, d := 12 }, msMem, mxMem, by decide +kernel, msMem_issuer, clear_of_none rfl, by decide +kernel, fun l hl =>
    ⟨by revert l; unfold readyAt; decide +kernel, by revert l; unfold unwatched; decide +kernel, unawaited_of_none rfl⟩⟩

/-- An atomic of four lanes, two of which name one word; the operand pair of 0x4000800040000 is not canonical, so w4 is used. -/
def atUser : Team := { memUser with v := [(4096, 0x40000), (4097, 0x40000), (4098, 0x40008), (4099, 0x40010)] }
def atF : AT := { h := H0, os := 24, a := 4, d := 10 }
theorem witness_AtomicsComplete : ∃ (i : Instr) (a : AtomicOp) (s : State) (x : Issuer), atomicRow x i = some a ∧
    s.issuer = some x ∧ x.clear ∧ x.t.counter LD < 63 ∧ x.lanes a.f.h ≠ [] ∧ a.f.os.toNat / 5 = 4 ∧
    (∀ l ∈ x.lanes a.f.h, readyAt s x a.width (a.at_ x l) ∧ unwatched s x a.width (a.at_ x l) ∧
      unawaited s x a.width (a.at_ x l)) :=
  ⟨.atomCas64 atF, ⟨atF, true, true, 4, _⟩, msMem, mxMem, by rfl, msMem_issuer, clear_of_none rfl, by decide +kernel, by decide +kernel, by decide +kernel,
    fun l hl => ⟨by revert l; unfold readyAt; decide +kernel, by revert l; unfold unwatched; decide +kernel,
      unawaited_of_none rfl⟩⟩
/-- Under DETR red.add.f32 is in the table for any lanes; without it for at most one. -/
theorem witness_redAddF32 : (atomicRow { mxMem with t := { memUser with fpm := 0x80 } } (.redAddF32 atF)).isSome = true ∧
    (atomicRow mxMem (.redAddF32 atF)).isSome = false ∧ (atomicRow mxMem (.redAddF32 { atF with h := Hoff })).isSome = true := by
  decide +kernel

/-- The aperture address of byte 16 of the own scratchpad in lanes 0 and 1, and of byte 24 in lanes 2 and 3. -/
def apUser : Team :=
  { user with v := [(4096, 16), (4097, 16), (4098, 24), (4099, 24), (5120, 0x5C000000), (5121, 0x5C000000), (5122, 0x5C000000),
                    (5123, 0x5C000000)] }
theorem witness_ApertureAtomicsActOnScratchpads : ∃ (i : Instr) (a : AtomicOp) (s : State) (x : Issuer), atomicRow x i = some a ∧
    s.issuer = some x ∧ x.clear ∧ s.waits = [] ∧ x.t.counter SP < 63 ∧ x.lanes a.f.h ≠ [] ∧
    ∀ l ∈ x.lanes a.f.h, (a.at_ x l).toNat / 2 ^ 22 = 0x5C00 * 2 ^ 26 ∧ (a.at_ x l).toNat % a.width = 0 ∧
      (a.target s x l).isSome = true :=
  ⟨.atomCas64 atF, ⟨atF, true, true, 4, _⟩, mach sup apUser 1, iss 1 apUser, by rfl, by decide +kernel, clear_of_none rfl, by decide +kernel,
    by decide +kernel, by decide +kernel, by decide +kernel⟩

/-- Scratchpad addresses in v8: the own one, and the window's of team 0 of the cohort. -/
theorem witness_ScratchpadAccessesComplete : ∃ (s : State) (x : Issuer), s.issuer = some x ∧ x.clear ∧ s.waits = [] ∧ x.t.counter SP < 63 ∧
    x.lanes H0 ≠ [] ∧ (∀ window ∈ [false, true], ∀ l ∈ x.lanes H0,
      scratchReady s x window 16 (scratchAt x { h := H0, sz := 6, ofs := 7, i := 8, d := 12 } l)) ∧
    (∀ i ∈ [Instr.ldS { h := H0, sz := 6, ofs := 7, i := 8, d := 12 }, .ldC { h := H0, sz := 6, ofs := 7, i := 8, d := 12 }],
      (scratchLoad i).isSome = true) ∧
    (∀ i ∈ [Instr.stS { h := H0, sz := 6, ofs := 7, i := 8, d := 12 }, .stC { h := H0, sz := 6, ofs := 7, i := 8, d := 12 }],
      WellFormed i = true ∧ (scratchStore i).isSome = true) :=
  ⟨ms, mx, ms_issuer, clear_of_none rfl, rfl, by decide +kernel, by decide +kernel, by unfold scratchReady; decide +kernel, by decide +kernel, by decide +kernel⟩

/-! Engine commands: one scratchpad and register file that passes the checks of every engine instruction. -/

def le (n w : Nat) : List Byte := bytesOf n w
/-- A copy of 16 FP32 values within the scratchpad, a halo header of one entry, and a task record that clears a tile. -/
def engScr : List Host.Cell :=
  cellsWrite (cellsWrite (cellsWrite [] 0 (le 1 0 ++ le 1 0x11 ++ le 6 0 ++ le 8 4096 ++ le 8 8192 ++ le 4 1 ++ le 4 16)) 64
    (le 8 0x40000 ++ le 8 0 ++ le 4 1 ++ le 4 256)) 128 (le 4 9 ++ le 8 0 ++ le 1 1)
def engPath : Path := { path0 with mask := 1, fmt := 0xE7 }
def engUser : Team :=
  { user with scr := engScr, paths := [(0, engPath)],
              s := [(11, 1), (20, 64), (21, 32), (22, 4096), (23, 128), (26, 0x40000), (40, 0x10001)] }
def msEng : State := mach sup engUser 1
def mxEng : Issuer := { iss 1 engUser with path := engPath }
theorem witness_EngineCommandsAreHandedOver : msEng.issuer = some mxEng ∧ mxEng.elected H0 = some 0 ∧
    (∀ a ∈ [CP, MX, PA, FR], mxEng.t.counter a < 63) ∧ engineLoad msEng (engineOf mxEng.t) < 16 ∧
    (∀ i ∈ [Instr.cp { h := H0, a := 0 }, .halo { h := H0, d := 20 }, .mma { h := H0, acc := 0, k := 21, a := 0, b := 22 },
      .mzero { h := H0, acc := 3 }, .mldaS { h := H0, acc := 1, a := 0, b := 24 }, .mldaG { h := H0, acc := 1, a := 26, b := 24 },
      .mstaS { h := H0, acc := 1, a := 0, b := 24 }, .mstaG { h := H0, acc := 1, a := 26, b := 24 },
      .maddS { h := H0, acc := 1, a := 0, b := 24 }, .maddG { h := H0, acc := 1, a := 26, b := 24 },
      .mrd { h := H0, acc := 1, a := 5, b := 24 }, .mscl { h := H0, u := 1, d := 0, a := 26 }, .ttq { h := H0, a := 23 },
      .pload { h := H0, a := 26 }, .pmode { h := H0, t := 3 }, .pclamp { h := H0, a := 10 }, .psweep { h := H0, a := 10 },
      .preadStates { h := H0, d := 10, a := 26 }, .preadCounts { h := H0, d := 10, a := 26 }, .preset { h := H0, t := 3 },
      .rast { h := H0, d := 4, a := 30 }, .qpush { h := H0, a := 12 }, .qpushTry { h := H0, d := 4, a := 12 },
      .qpop { h := H0, a := 12 }, .qpopTry { h := H0, d := 4, a := 12 }],
      (handed msEng mxEng 0 i).isSome = true) := by decide +kernel

/-! A tree with one leaf, and a target with one free node, in cached lines. -/

def treeDesc : List Byte :=
  le 4 0 ++ le 4 4 ++ le 8 0x41000 ++ le 8 0 ++ le 8 0x50000 ++ le 4 4 ++ le 4 2 ++ le 8 0x70000 ++ le 4 4 ++ le 4 1
    ++ le 8 0xFFFFFFFF ++ le 4 1
def layerDesc : List Byte :=
  le 2 16 ++ le 2 16 ++ le 4 2 ++ le 8 0x43000 ++ le 8 0x44000 ++ le 8 0x46000 ++ le 4 2
def treeLines : List (Nat × Line) :=
  [lineAt 0x40000 treeDesc, lineAt 0x41000 (le 8 (2 ^ 63) ++ le 8 0), lineAt 0x41080 [], lineAt 0x42000 layerDesc, lineAt 0x43000 [],
   lineAt 0x44000 (le 8 0xFFFFFFFF ++ le 8 256), lineAt 0x45000 [], lineAt 0x46400 [], lineAt 0x50000 (le 8 0 ++ le 4 1 ++ le 4 1),
   lineAt 0x60000 (le 8 0 ++ le 4 0 ++ le 4 1), lineAt 0x70000 (le 13 0 ++ le 1 1), lineAt 0x70080 (le 4 77), lineAt 0x70100 [],
   lineAt 0x70180 [], lineAt 0x70200 []]
/-- z1 names the tree, z2 the target; vleaf's slot 0 and offset 0 are in s10 and s11. -/
def volUser : Team := { user with s := [(2, 0x40000), (4, 0x42000)], paths := [(0, { path0 with mask := 1 })] }
def msVol : State := { mach sup volUser 1 with lines := treeLines }
def mxVol : Issuer := { iss 1 volUser with path := { path0 with mask := 1 } }
theorem witness_WalkerAndListLanesComplete : msVol.issuer = some mxVol ∧ mxVol.clear ∧ mxVol.t.performed = true ∧
    (∀ i ∈ [Instr.vld { h := H0, d := 8, a := 2 }, .vlds { h := H0, sub := 3, d := 8, a := 2 }, .vst { h := H0, d := 8, a := 2 },
      .vactClr { h := H0, d := 8, a := 2 }, .vactSet { h := H0, d := 8, a := 2 }, .vmarch { h := H0, d := 8, a := 2 },
      .vins { h := H0, d := 8, a := 2 }, .vdel { h := H0, d := 8, a := 2 }, .fins { h := H0, d := 8, a := 4 },
      .resolve { h := H0, d := 8, a := 4 }, .resolveClr { h := H0, d := 8, a := 4 }, .lclear { h := H0, d := 8, a := 4 }],
      (match performedLanes msVol mxVol i with
       | some r => !(mxVol.lanes r.h).isEmpty && decide (mxVol.t.counter r.apath < 63) && r.p.failed.isEmpty && (r.p.s.team 1).isSome
       | none => false) = true) := ⟨by decide +kernel, clear_of_none rfl, by decide +kernel, by decide +kernel⟩
/-! Lanes that act on that tree and target, whose leaf 0 and unused leaf 1 are in cached lines, whose voxels (8, 0, 0) and
(16, 0, 0) lie in an inactive and an active tile, and whose pixel (1, 0) has a list of one opaque node. -/

def laneLines : List (Nat × Line) :=
  [lineAt 0x40000 treeDesc, lineAt 0x41000 (le 8 (2 ^ 63) ++ le 8 0), lineAt 0x42000 layerDesc,
   lineAt 0x43000 (le 8 0 ++ le 8 (2 ^ 24 + 256)), lineAt 0x44000 (le 8 0xFFFFFFFF ++ le 8 0 ++ le 4 257 ++ le 4 1),
   lineAt 0x45000 (le 4 0 ++ le 8 0x3C00000000003800 ++ le 4 0), lineAt 0x46400 [], lineAt 0x50000 (le 8 0 ++ le 4 1 ++ le 4 1),
   lineAt 0x60000 (le 8 0 ++ le 4 0 ++ le 4 1 ++ le 16 0 ++ le 12 5 ++ le 4 2)] ++
    (List.range 34).map fun k => lineAt (0x70000 + 128 * k) (if k = 0 then le 13 0 ++ le 1 1 else [])
/-- v8 holds the voxel (1, 1, 1), v16 (8, 0, 0); from v24, v32, v40 and v48 on rays stand still at 0, 16 and 8 from 0 to 1, and one
starts at infinity; v12 is the pixel (1, 0) and v56 (0, 0). -/
def laneUser : Team :=
  { volUser with v := [(8192, 1), (9216, 1), (10240, 1), (12288, 1), (16384, 8), (31744, 0x3F800000), (32768, 0x41800000),
                       (39936, 0x3F800000), (40960, 0x41000000), (48128, 0x3F800000), (49152, 0x7F800000)] }
def msLane : State := { mach sup laneUser 1 with lines := laneLines }
def mxLane : Issuer := { iss 1 laneUser with path := { path0 with mask := 1 } }
def laneTree : Tree := treeOf 0x40000 treeDesc
def laneTarget : Layer := layerOf 0x42000 layerDesc
/-- The operands of an instruction on the tree, and on the target, from lane register d on. -/
def onTree (d : BitVec 6) : UN := { h := H0, d := d, a := 2 }
def onTarget (d : BitVec 6) : UN := { h := H0, d := d, a := 4 }
theorem laneReady {apath : Nat} (h : mxLane.t.counter apath < 63) : LaneReady msLane mxLane H0 apath 0 :=
  ⟨by decide +kernel, by decide +kernel, h, clear_of_none rfl, by decide +kernel, rfl, rfl, rfl, rfl⟩
theorem laneTree_is {top : Nat} (h : okPair (readTree msLane (mxLane.agent msLane) (mxLane.t.zr 2) mxLane.t.vregs top) msLane laneTree
    = true) : treeIs msLane mxLane 2 (mxLane.agent msLane) top laneTree :=
  ⟨by decide +kernel, by decide +kernel, by decide +kernel, msLane.dieCaches, okPair_eq h⟩
theorem laneTarget_is {d : BitVec 6} {fn n : Nat} (h : okPair (readLayer msLane (mxLane.engine msLane) (mxLane.t.zr 4) fn
    (walkerReqs mxLane H0 d.toNat n (mxLane.t.zr 4))) msLane laneTarget = true) :
    targetIs msLane mxLane (onTarget d) fn n laneTarget :=
  ⟨(by decide +kernel : canonicalVa (mxLane.t.zr 4) = true), (by decide +kernel : (mxLane.t.zr 4).toNat % 64 = 0),
    (by decide +kernel : (klook msLane.lines (lineKey (mxLane.engine msLane).gasid (mxLane.t.zr 4).toNat)).isSome = true), msLane.dieCaches, okPair_eq h⟩

/-- A voxel whose walk goes through node 0 to entry e1 of node 1. -/
def reaches (c : Point) : Prop :=
  held msLane 0 (c.rootSlot laneTree) ∧ msLane.cachedNat 0 (c.rootSlot laneTree) 8 = c.rootKey ∧
    msLane.cachedNat 0 (c.rootSlot laneTree + 12) 4 / 4 % 2 = 0 ∧ msLane.cachedNat 0 (c.rootSlot laneTree + 8) 4 = 0 ∧
    held msLane 0 (c.entryOf laneTree 0 128) ∧ msLane.cachedNat 0 (c.entryOf laneTree 0 128) 8 = 0 ∧
    msLane.cachedNat 0 (c.entryOf laneTree 0 128 + 8) 4 = 1 ∧ msLane.cachedNat 0 (c.entryOf laneTree 0 128 + 12) 4 = 1
theorem reaches_e1 {c : Point} (h : reaches c) : Reaches msLane 0 laneTree c (c.entryOf laneTree 1 8) :=
  ⟨0, 0, 1, 1, ⟨h.1, h.2.1, h.2.2.1, h.2.2.2.1, by decide⟩, ⟨h.2.2.2.2.1, h.2.2.2.2.2.1, h.2.2.2.2.2.2.1, h.2.2.2.2.2.2.2⟩,
    by unfold names; decide, by decide, rfl⟩
/-- That entry's VALUE, CHILD and FLAGS. -/
def entry1 (c : Point) (value flags : Nat) : Prop :=
  held msLane 0 (c.entryOf laneTree 1 8) ∧ msLane.cachedNat 0 (c.entryOf laneTree 1 8) 8 = value ∧
    msLane.cachedNat 0 (c.entryOf laneTree 1 8 + 8) 4 = 0 ∧ msLane.cachedNat 0 (c.entryOf laneTree 1 8 + 12) 4 = flags
theorem entry1_is {c : Point} {value flags : Nat} (h : entry1 c value flags) :
    NodeEntry msLane 0 (c.entryOf laneTree 1 8) value 0 flags := ⟨h.1, h.2.1, h.2.2.1, h.2.2.2⟩
/-- Voxel i of vlds at (1, 1, 1) is in leaf 0, as (0, 0, 0) is. -/
def near (i : Nat) : Point := (⟨1, 1, 1⟩ : Point).moved (offsetOf 0 i)
theorem lane_leaf {c : Point} (h : (reaches c ∧ entry1 c 0 1) ∧ held msLane 0 (laneTree.leafAt 0) ∧
    msLane.cachedNat 0 (laneTree.leafAt 0 + 12) 1 = laneTree.vtype) :
    HasLeaf msLane 0 laneTree c (c.entryOf laneTree 1 8) 0 1 0 :=
  ⟨reaches_e1 h.1.1, entry1_is h.1.2, by unfold names; decide, by decide, h.2.1, h.2.2⟩
theorem near_leaf (i : Nat) (h : i < 7) : HasLeaf msLane 0 laneTree (near i) ((near i).entryOf laneTree 1 8) 0 1 0 :=
  lane_leaf (by unfold reaches entry1 held; revert h i; decide +kernel)
theorem near_held (i : Nat) (h : i < 7) : held msLane 0 (dataAt laneTree (near i) 0) ∧ held msLane 0 (maskAt laneTree (near i) 0) := by
  unfold held; revert h i; decide +kernel
theorem near_resolves (i : Nat) (h : i < 7) : ∃ value active, Resolves msLane 0 laneTree (near i) 0 value active :=
  ⟨_, _, .leaf _ _ _ _ (near_leaf i h) (near_held i h).1 (near_held i h).2⟩
/-- A voxel in each kind of tile: regions without a root entry, and level-2 and level-1 entries without a child. -/
theorem witness_Resolves_tiles : Resolves msLane 0 laneTree ⟨0, 2048, 0⟩ 3 (laneTree.background % 256 ^ laneTree.vb) false ∧
    Resolves msLane 0 laneTree ⟨128, 0, 0⟩ 2 0 false ∧ Resolves msLane 0 laneTree ⟨8, 0, 0⟩ 1 0 false ∧
    Resolves msLane 0 laneTree ⟨16, 0, 0⟩ 1 5 true :=
  ⟨.root (by unfold held; decide +kernel) (.inl (by decide +kernel)),
    .upper 0 0 0 0 ⟨by unfold held; decide +kernel, by decide +kernel, by decide +kernel, by decide +kernel, by decide⟩
      ⟨by unfold held; decide +kernel, by decide +kernel, by decide +kernel, by decide +kernel⟩ (by unfold tiles; decide),
    .lower _ 0 0 0 (reaches_e1 (by unfold reaches held; decide +kernel)) (entry1_is (by unfold entry1 held; decide +kernel))
      (by unfold tiles; decide),
    .lower _ 5 0 2 (reaches_e1 (by unfold reaches held; decide +kernel)) (entry1_is (by unfold entry1 held; decide +kernel))
      (by unfold tiles; decide)⟩

theorem witness_VoxelReadsResolve : (∃ (f : UN) (s : State) (x : Issuer) (l level value : Nat) (active : Bool) (tree : Tree),
    LaneReady s x f.h VW l ∧ treeIs s x f.a (x.agent s) (f.d.toNat + 6) tree ∧
      Resolves s (x.agent s).gasid tree (pointOf x f.d.toNat l) level value active) ∧
    ∃ (f : VS) (s : State) (x : Issuer) (l : Nat) (level value : Nat → Nat) (active : Nat → Bool) (tree : Tree),
    LaneReady s x f.h VW l ∧ treeIs s x f.a (x.agent s) (f.d.toNat + 4 + 2 * around f.sub.toNat) tree ∧
    ∀ i, i < around f.sub.toNat →
      Resolves s (x.agent s).gasid tree ((pointOf x f.d.toNat l).moved (offsetOf f.sub.toNat i)) (level i) (value i) (active i) := by
  refine ⟨⟨onTree 8, msLane, mxLane, 0, _, _, _, laneTree, laneReady (by decide +kernel), laneTree_is (by decide +kernel),
    .leaf _ _ _ _ (near_leaf 0 (by decide)) (near_held 0 (by decide)).1 (near_held 0 (by decide)).2⟩,
    { h := H0, sub := 0, d := 8, a := 2 }, msLane, mxLane, 0, fun _ => 0,
    fun i => msLane.cachedNat 0 (dataAt laneTree (near i) 0) laneTree.vb,
    fun i => msLane.cachedNat 0 (maskAt laneTree (near i) 0) 1 / 2 ^ ((near i).index % 8) % 2 == 1,
    laneTree, laneReady (by decide +kernel), laneTree_is (by decide +kernel), fun i hi => ?_⟩
  exact .leaf _ _ _ _ (near_leaf i hi) (near_held i hi).1 (near_held i hi).2
theorem witness_VoxelWritesReachTheLeaf : ∃ (f : UN) (s : State) (x : Issuer) (l e1 value flags h : Nat) (tree : Tree),
    LaneReady s x f.h VW l ∧ treeIs s x f.a (x.agent s) (f.d.toNat + 6) tree ∧ treeIs s x f.a (x.agent s) f.d.toNat tree ∧
    HasLeaf s (x.agent s).gasid tree (pointOf x f.d.toNat l) e1 value flags h ∧
    held s (x.agent s).gasid (dataAt tree (pointOf x f.d.toNat l) h) ∧
    held s (x.agent s).gasid (maskAt tree (pointOf x f.d.toNat l) h) :=
  ⟨onTree 8, msLane, mxLane, 0, _, _, _, _, laneTree, laneReady (by decide +kernel), laneTree_is (by decide +kernel),
    laneTree_is (by decide +kernel), near_leaf 0 (by decide), (near_held 0 (by decide)).1, (near_held 0 (by decide)).2⟩

/-- A ray that stands still in leaf 0, in an active tile and in an inactive one; and one that starts at infinity. -/
theorem witness_MarchesMeetWhatStands : (∀ e ∈ ([(24, 0), (32, 16), (40, 8)] : List (BitVec 6 × Int)),
    LaneReady msLane mxLane (onTree e.1).h VW 0 ∧ treeIs msLane mxLane (onTree e.1).a (mxLane.agent msLane) (onTree e.1).d.toNat laneTree ∧
    (∀ a ∈ [(0, e.2), (1, 0), (2, 0)], wholePart (mxLane.t.vr (e.1.toNat + a.1) 0) a.2 ∧ -(2 ^ 31) ≤ a.2 ∧ a.2 < 2 ^ 31 ∧
      mxLane.t.vr (e.1.toNat + 3 + a.1) 0 = 0) ∧ ¬nonFinite (mxLane.t.vr (e.1.toNat + 6) 0) ∧
    ¬nonFinite (mxLane.t.vr (e.1.toNat + 7) 0) ∧ (FFmt.f32.read (mxLane.t.vr (e.1.toNat + 7) 0).toNat).order
      (FFmt.f32.read (mxLane.t.vr (e.1.toNat + 6) 0).toNat) ≠ .less) ∧
    HasLeaf msLane (mxLane.agent msLane).gasid laneTree (pointAt 0 0 0) ((pointAt 0 0 0).entryOf laneTree 1 8) 0 1 0 ∧
    (Resolves msLane (mxLane.agent msLane).gasid laneTree (pointAt 16 0 0) 1 5 true ∧ laneTree.vb ≠ 8) ∧
    Resolves msLane (mxLane.agent msLane).gasid laneTree (pointAt 8 0 0) 1 0 false ∧
    (LaneReady msLane mxLane (onTree 48).h VW 0 ∧ treeIs msLane mxLane (onTree 48).a (mxLane.agent msLane) (onTree 48).d.toNat laneTree ∧
      nonFinite (mxLane.t.vr 48 0)) := by
  refine ⟨fun e he => ⟨laneReady (by decide +kernel), laneTree_is (by revert e; decide +kernel), ?_⟩,
    lane_leaf (by unfold reaches entry1 held; decide +kernel), ⟨witness_Resolves_tiles.2.2.2, by decide⟩, witness_Resolves_tiles.2.2.1,
    laneReady (by decide +kernel), laneTree_is (by decide +kernel), by unfold nonFinite; decide +kernel⟩
  unfold wholePart nonFinite
  revert e
  decide +kernel

/-- A voxel with a leaf, and one in a tile whose entry can be given leaf 1. -/
theorem witness_CuratorLanesEditTheTree : (∃ (f : UN) (s : State) (x : Issuer) (l e1 value flags h : Nat) (tree : Tree),
    LaneReady s x f.h AL l ∧ treeIs s x f.a (x.agent s) 0 tree ∧
    HasLeaf s (x.agent s).gasid tree (pointOf x f.d.toNat l) e1 value flags h ∧ leafApart (x.t.zr f.a.toNat).toNat e1 tree h) ∧
    ∃ (f : UN) (s : State) (x : Issuer) (l e1 value child flags h : Nat) (tree : Tree),
    LaneReady s x f.h AL l ∧ treeIs s x f.a (x.agent s) 0 tree ∧
    let g := (x.agent s).gasid
    let desc := (x.t.zr f.a.toNat).toNat
    Reaches s g tree (pointOf x f.d.toNat l) e1 ∧ NodeEntry s g e1 value child flags ∧ flags % 2 = 0 ∧ flags / 4 % 2 = 0 ∧
    s.cachedNat g (desc + 0x38) 4 = 0xFFFFFFFF ∧ s.cachedNat g (desc + 0x34) 4 = h ∧ h < tree.leafcap ∧ leafApart desc e1 tree h ∧
    inRange (tree.leafAt h) (128 + 512 * tree.vb) = true ∧
    (∀ k, k ≤ 4 * tree.vb → (klook s.lines (lineKey g (tree.leafAt h + 128 * k))).isSome = true) := by
  refine ⟨⟨onTree 8, msLane, mxLane, 0, _, _, _, _, laneTree, laneReady (by decide +kernel), laneTree_is (by decide +kernel),
    near_leaf 0 (by decide), by unfold leafApart apart; decide +kernel⟩, onTree 16, msLane, mxLane, 0, _, 0, 0, 0, 1, laneTree,
    laneReady (by decide +kernel), laneTree_is (by decide +kernel), reaches_e1 (by unfold reaches held; decide +kernel),
    entry1_is (by unfold entry1 held; decide +kernel), by decide, by decide, by decide +kernel, by decide +kernel, by decide,
    by unfold leafApart apart; decide +kernel, by decide +kernel, by decide +kernel⟩

/-- fins at the empty pixel, and resolve and lclear at the pixel with a node. -/
theorem witness_ListLanesEditTheList : LaneReady msLane mxLane H0 FR 0 ∧ (targetIs msLane mxLane (onTarget 56) 0 5 laneTarget ∧
      targetIs msLane mxLane (onTarget 56) 1 8 laneTarget ∧ targetIs msLane mxLane (onTarget 12) 1 8 laneTarget ∧
      targetIs msLane mxLane (onTarget 12) 2 1 laneTarget) ∧
    (let g := (mxLane.agent msLane).gasid
     (let head := headOf mxLane 56 0 laneTarget
      ListBytes msLane g laneTarget head 257 ∧ msLane.cachedNat g head 8 = 0 ∧ msLane.cachedNat g (laneTarget.pool + 8) 3 = 0 ∧
        msLane.cachedNat g (laneTarget.pool + 16) 4 = 257 ∧ (klook msLane.lines (lineKey g head)).isSome = true) ∧
     let head := headOf mxLane 12 0 laneTarget
     let channel (k : Nat) : Nat := msLane.cachedNat g (nodeOf laneTarget 256 + 4 + 2 * k) 2
     ListBytes msLane g laneTarget head 256 ∧ msLane.cachedNat g head 8 = 2 ^ 24 + 256 ∧
       msLane.cachedNat g (nodeOf laneTarget 256 + 12) 3 = 0 ∧ laneTarget.cfmt = 0 ∧ channel 3 = 0x3C00 ∧
       ∀ k, k < 4 → channel k / 2 ^ 10 % 32 ≠ 31) ∧
    ∀ q ∈ [56, 12], ∀ k, k < 4 → mxLane.t.vr (q + 4 + k) 0 ≠ 0x80000000 ∧ ¬nonFinite (mxLane.t.vr (q + 4 + k) 0) := by
  refine ⟨laneReady (by decide +kernel), ⟨laneTarget_is (by decide +kernel), laneTarget_is (by decide +kernel),
    laneTarget_is (by decide +kernel), laneTarget_is (by decide +kernel)⟩, ⟨⟨⟨by decide, by decide +kernel, by unfold apart; decide +kernel⟩,
    by decide +kernel⟩, ⟨by decide, by decide +kernel, by unfold apart; decide +kernel⟩, by decide +kernel⟩,
    by unfold nonFinite; decide +kernel⟩

/-- A leaf's copy into the scratchpad. -/
theorem witness_LeafCopyIsHandedOver : ∃ (f : UN) (s : State) (x : Issuer) (lane : Nat) (tree : Tree), s.issuer = some x ∧
    x.elected f.h = some lane ∧ x.t.counter VW < 63 ∧ x.t.performed = true ∧ canonicalVa (x.t.zr f.a.toNat) = true ∧
    (x.t.zr f.a.toNat).toNat % 128 = 0 ∧
    (x.t.sr (f.d.toNat + 1)).toNat % 16 = 0 ∧ readTree s (x.engine s) (x.t.zr f.a.toNat) x.t.vregs 0 = .ok (s, .ok tree) ∧
    (x.t.sr (f.d.toNat + 1)).toNat + 128 + 512 * tree.vb ≤ x.t.scratch ∧ (x.t.sr f.d.toNat).toNat < tree.leafcap ∧
    inRange (tree.leafAt (x.t.sr f.d.toNat).toNat) (128 + 512 * tree.vb) = true := by
  refine ⟨{ h := H0, d := 10, a := 2 }, msVol, mxVol, 0, treeOf 0x40000 treeDesc, by decide +kernel, by decide +kernel,
    by decide +kernel, by decide +kernel, by decide +kernel, by decide +kernel, by decide +kernel, ?_, by decide +kernel,
    by decide +kernel, by decide +kernel⟩
  exact okPair_eq (by decide +kernel)

/-! ### Witnesses: privileged instructions, traps -/

/-- The supervisor issues; its registers name TID 1 in s8, path 0 of it in s9, every halt selector's team form in s10. -/
def svTeam : Team := { sup with s := [(4, 0x40000), (8, 1), (9, 1), (10, 0x10000), (11, 0x10100), (12, 0x70000), (13, 7)] }
def withPart (s : State) (p : Part) : State := { s with parts := [(0, p)] }
def sv (rs : List (Nat × Word)) : State := withPart (mach svTeam user 0) (partRegs rs)
def svx : Issuer := iss 0 svTeam
theorem sv_issuer : (sv []).issuer = some svx := by decide +kernel

theorem witness_PrivilegedReadsComplete : ∃ (f : PR) (s : State) (x : Issuer), WellFormed (.rdpr f) = true ∧ s.issuer = some x ∧
    x.t.sup = true := ⟨{ h := H0, i := 0x7C, a := 5 }, sv [], svx, by decide +kernel, sv_issuer, rfl⟩
theorem witness_PrivilegedWritesComplete : ∀ i ∈ ([0x10, 0x0B, 0x7D] : List (BitVec 8)),
    WellFormed (.wrpr { h := H0, i := i, a := 5 }) = true ∧ (∀ v, actionEvent 0 i.toNat v = none) ∧ i.toNat ≠ 0x61 ∧
    (i.toNat = 0x09 ∨ i.toNat = 0x0A ∨ i.toNat = 0x0B → ((sv []).part (pnumOf svx.tk)).heldRecs = []) ∧
    (sv []).issuer = some svx ∧ svx.t.sup = true := by
  intro i hi
  refine ⟨by revert i; decide +kernel, ?_, ?_, fun _ => by decide +kernel, sv_issuer, rfl⟩
  · simp only [List.mem_cons, List.not_mem_nil, or_false] at hi
    rcases hi with rfl | rfl | rfl <;> intro v <;> rfl
  · revert i; decide
theorem witness_ActionWritesAreTheirEvents : (sv []).issuer = some svx ∧ svx.t.sup = true ∧ svx.uacts H0 = true ∧
    (∀ e ∈ ([(0x60, 1), (0x61, 0), (0x61, 0x400000), (0x2A, 0), (0x2A, 0x10000), (0x2B, 0), (0x2B, 0x10000), (0x7C, 0),
      (0x7C, 0x100), (0x7F, 0), (0x7F, 0x100)] : List (Nat × Word)), WellFormed (.wrpr { h := H0, i := BitVec.ofNat 8 e.1, a := 5 }) = true ∧
      (actionEvent 0 e.1 e.2).isSome = true) := by decide +kernel
/-- An empty queue's tqpop, one with an entry, wdog, hint 0, catw with the catalogue off, and dbgh and dbgr of TID 7. -/
theorem witness_SupervisorServicesComplete :
    (∀ i ∈ [Instr.tqpop { h := H0, a := 5 }, .wdog H0, .hint { h := H0, a := 0 }, .catw { h := H0, a := 0 },
      .dbgh { h := H0, a := 13 }, .dbgr { h := H0, a := 13 }], (serviceRow (sv []) svx i).isSome = true) ∧
    (serviceRow (sv [(0x0B, 0x04001000)]) svx (.tqpop { h := H0, a := 5 })).isSome = true := by decide +kernel
/-- A catalogue of 256 records at 0x40000 with kind 6 enabled and one record in it. -/
theorem witness_CatwWritesItsRecord : ∃ (s : State) (x : Issuer), s.issuer = some x ∧ x.t.sup = true ∧ x.uacts H0 = true ∧
    x.tk % 65536 = 0 ∧ x.pi < 64 ∧ s.waits = [] ∧
    (let p := s.part (pnumOf x.tk)
     let ctl := p.reg 0x76
     ctl.getLsbD 0 = true ∧ ctl.getLsbD 22 = true ∧ (ctl.getLsbD 1 = true ∨ (p.reg 0x77).toNat < catRecords ctl) ∧
     p.reg64 0x74 % 4096 = 0 ∧ p.reg64 0x74 + 2 ^ 29 < 2 ^ 51 ∧
     (klook s.lines (lineKey (supAgent s (pnumOf x.tk)).gasid (BitVec.ofNat 64 (p.reg64 0x74 + 32 * ((p.reg 0x77).toNat % catRecords ctl)) : Dword).toNat)).isSome
       = true) :=
  ⟨{ sv [(0x74, 0x40000), (0x76, 0x00400801), (0x77, 1)] with lines := [lineAt 0x40000 []] }, svx, by decide +kernel⟩
theorem witness_DebuggerHoldsOnePath : ∃ (s : State) (x : Issuer) (tid : Nat) (u : Team) (j : Nat) (p : Path),
    s.issuer = some x ∧ x.t.sup = true ∧ x.uacts H0 = true ∧ x.tk % 65536 = 0 ∧ 1 ≤ tid ∧ tid < 65536 ∧ j < 64 ∧
    x.t.sr 8 = word (tid + 65536 * j) ∧ s.team (x.tk + tid) = some u ∧ u.live = true ∧ u.sup = false ∧
    u.path j = some p ∧ (u.paths.map Prod.fst).Nodup ∧ ((s.part (pnumOf x.tk)).reg 0x76).getLsbD 0 = false :=
  ⟨sv [], svx, 1, user, 0, path0, by decide +kernel⟩
/-- The supervisor's path 3, held by a brk; s9 names TID 0 and that path. -/
def brkSup : Team :=
  { svTeam with s := [(9, 0x30000)], paths := [(0, path0), (3, { path0 with hold := true })] }
theorem witness_DebuggerReleasesTheSupervisorsPath : ∃ (s : State) (x : Issuer) (j : Nat) (p : Path), s.issuer = some x ∧
    x.t.sup = true ∧ x.t.live = true ∧ x.uacts H0 = true ∧ x.tk % 65536 = 0 ∧ j < 64 ∧ j ≠ x.pi ∧
    x.t.sr 9 = word (65536 * j) ∧ x.t.path j = some p ∧ (x.t.paths.map Prod.fst).Nodup ∧
    ((s.part (pnumOf x.tk)).reg 0x76).getLsbD 0 = false :=
  ⟨mach brkSup user 0, iss 0 brkSup, 3, { path0 with hold := true }, by decide +kernel⟩
theorem witness_MaintenanceParksThePath : (sv []).issuer = some svx ∧ svx.uacts H0 = true ∧ svx.uacts Hoff = false ∧
    (∀ i ∈ [Instr.cflush { h := H0, a := 4 }, .cwb { h := H0, a := 4 }, .tlbinv { h := H0, a := 4 }],
      (parkRow (sv []) svx i).isSome = true) ∧
    (parkRow (withPart (mach svTeam { user with halted := true } 0) loadedPart) svx (.cswap { h := H0, a := 0 })).isSome = true := by
  decide +kernel
/-- halt and resume of team 1, and of TID 7, which names no team. -/
theorem witness_HaltMarksAndResumeClears : ∃ (s : State) (x : Issuer) (u : Team), s.issuer = some x ∧ x.t.sup = true ∧
    x.uacts H0 = true ∧ x.tk % 65536 = 0 ∧ x.t.sr 10 = word (65536 * 1) ∧ x.t.sr 12 = word (65536 * 7) ∧
    (s.teams.map Prod.fst).Pairwise (· < ·) ∧ s.team (x.tk + 1) = some u ∧ u.live = true ∧ u.sup = false ∧
    u.replayDue = false ∧ u.letGo = [] ∧ (∀ pi k ks, u.wait ≠ .bar pi k true ∧ u.wait ≠ .regroup pi ks) ∧
    s.cmds = [] ∧ (s.peuri (pnumOf x.tk)).queue = [] ∧ s.team (x.tk + 7) = none :=
  ⟨sv [], svx, user, by decide +kernel, by decide +kernel, by decide +kernel, by decide +kernel, by decide +kernel,
    by decide +kernel, by decide +kernel, by decide +kernel, rfl, rfl, rfl, rfl, fun _ _ _ => ⟨TeamWait.noConfusion, TeamWait.noConfusion⟩, rfl,
    by decide +kernel, by decide +kernel⟩
theorem witness_TretReturnsToEpc : ∃ (s : State) (x : Issuer), s.issuer = some x ∧ x.t.sup = true ∧ x.uacts H0 = true ∧
    x.uacts Hoff = false ∧ ((s.part (pnumOf x.tk)).reg 0x01).getLsbD 0 = true ∧ ((sv []).part (pnumOf x.tk)).reg 0x01 = 0 :=
  ⟨sv [(1, 1), (4, 0x2000)], svx, by decide +kernel⟩
theorem witness_PrivilegedInstructionsTrapInUserMode : ∃ (i : Instr) (h : Hdr) (s : State) (x : Issuer),
    privilegedHeader i = some h ∧ s.issuer = some x ∧ x.t.sup = false := ⟨.tret Hoff, Hoff, ms, mx, rfl, ms_issuer, rfl⟩
theorem witness_SupervisorTrapsEnterTheHandler : ∃ (s : State) (x : Issuer), s.issuer = some x ∧ x.t.sup = true ∧
    ((s.part (pnumOf x.tk)).reg 0x01).getLsbD 0 = false ∧
    pairOf ((s.part (pnumOf x.tk)).reg 0x02) ((s.part (pnumOf x.tk)).reg 0x03) ≠ 0 :=
  ⟨sv [(2, 0x8000)], svx, by decide +kernel⟩
/-- INH set with a handler, and no handler. -/
theorem witness_SupervisorTrapsWithoutHandlerFail : ∀ rs ∈ ([[(1, 1), (2, 0x8000)], []] : List (List (Nat × Word))),
    let s := { sv rs with grids := [], cohorts := [] }
    s.issuer = some svx ∧ svx.t.sup = true ∧ svx.tk % 65536 = 0 ∧
    (((s.part 0).reg 0x01).getLsbD 0 = true ∨ pairOf ((s.part 0).reg 0x02) ((s.part 0).reg 0x03) = 0) ∧
    (∀ e ∈ s.grids, e.1 / 65536 ≠ pnumOf svx.tk) := by decide +kernel

/-- A user team of a partition with a supervisor and no trap queue. -/
theorem witness_UserTrapsFaultThePath : ∃ (s : State) (x : Issuer), s.issuer = some x ∧ x.t.sup = false ∧ x.pi < 64 ∧
    hasSupervisor s (pnumOf x.tk) = true ∧ (s.part (pnumOf x.tk)).reg64 0x09 = 0 ∧ (s.part (pnumOf x.tk)).heldRecs = [] ∧
    x.lanes H0 ≠ [] ∧ x.lanes Hoff = [] ∧ x.t.debug = false := ⟨ms, mx, by decide +kernel⟩
theorem witness_TrapAndBrkComplete : ∃ (s : State) (x : Issuer), s.issuer = some x ∧ x.t.debug = true ∧ x.pi < 64 ∧
    x.lanes H0 ≠ [] ∧ (s.part (pnumOf x.tk)).reg64 0x09 = 0 ∧ (s.part (pnumOf x.tk)).heldRecs = [] ∧
    ((s.part (pnumOf x.tk)).reg 0x76).getLsbD 0 = false :=
  ⟨mach sup { user with debug := true } 1, iss 1 { user with debug := true }, by decide +kernel⟩
/-- Lane 1 misaligned and lane 2 not canonical, after lane 0, which passes. -/
def badUser : Team := { user with s := [(2, 0x40000)], v := [(8193, 2), (8194, 0x80000000)] }
theorem witness_GlobalAddressChecksTrap : ∃ (f : M) (s : State) (x : Issuer) (before after : List Nat) (l c : Nat),
    s.issuer = some x ∧ WellFormed (.ldG f) = true ∧ WellFormed (.stG f) = true ∧ x.lanes f.h = before ++ l :: after ∧
    (∀ k ∈ before, addressCause (sizeBytes f.sz.toNat) (globalAt x f k) = none) ∧
    addressCause (sizeBytes f.sz.toNat) (globalAt x f l) = some c :=
  ⟨{ h := H0, sz := 4, zb := 1, i := 8, d := 10 }, mach sup badUser 1, iss 1 badUser, [0], [2, 3], 1, 8, by decide +kernel⟩
/-- A queue of 16 records at 0x40000 with one record, and the lines of its header and of the next record. -/
def tqState : State :=
  { withPart (mach svTeam user 0) (partRegs [(0x09, 0x40000), (0x0B, 0x04001000)]) with
    lines := [lineAt 0x40000 [], lineAt 0x40080 []] }
theorem witness_TrapQueueDelivery : ∃ (s : State) (pn log tail head : Nat) (top : Word) (bs : List Byte), bs.length = 64 ∧
    s.waits = [] ∧ 4 ≤ log ∧ log ≤ 12 ∧ tail < 2 ^ log ∧ head < 2 ^ log ∧ (tail + 1) % 2 ^ log ≠ head ∧ pn < 8 ∧
    (s.part pn).reg 0x0B = word (head + 4096 * tail + 2 ^ 24 * log) ||| (top &&& 0xF0000000) ∧ (s.part pn).heldRecs = [] ∧
    (s.part pn).reg64 0x09 ≠ 0 ∧ (s.part pn).reg64 0x09 % 4096 = 0 ∧ (s.part pn).reg64 0x09 + 64 * 4097 < 2 ^ 51 ∧
    (klook s.lines (lineKey (supAgent s pn).gasid ((s.part pn).reg64 0x09))).isSome = true ∧
    (klook s.lines (lineKey (supAgent s pn).gasid ((s.part pn).reg64 0x09 + 64 * (tail + 1)))).isSome = true :=
  ⟨tqState, 0, 4, 1, 0, 0, le 64 7, by decide +kernel⟩

/-- launch; fetchw with no lane, of a DENSE grid, of a FETCH grid with work left and with none, and of a SPLIT grid. -/
def lauUser : Team := { user with s := [(8, 0x40000)] }
def gridWith (g : Grid → Grid) : State := { ms with grids := [(1, g loadedGrid)] }
def fetchGrid (work : Nat) (g : Grid) : Grid :=
  { g with lpb := { g.lpb with mode := 2, modef := [2, 1, 1, 64, 0] }, work := work }
def splitGrid (g : Grid) : Grid := { g with lpb := { g.lpb with mode := 3, modef := [4, 3, 0] } }
theorem witness_LaunchAndFetchwComplete :
    (let s := mach sup lauUser 1; let x := iss 1 lauUser
     s.issuer = some x ∧ x.elected H0 = some 0 ∧ canonicalVa (x.t.zr 8) = true ∧ (x.t.zr 8).toNat % 64 = 0 ∧ teamDepth s x.t < 10) ∧
    ms.issuer = some mx ∧ mx.lanes H0 ≠ [] ∧ mx.lanes Hoff = [] ∧ mx.t.sup = false ∧
    ((ms.grid mx.t.gid).map fun g => g.lpb.mode) = some 0 ∧
    (∀ w ∈ [1, 2], let s := gridWith (fetchGrid w); s.issuer = some mx ∧
      ((s.grid mx.t.gid).map fun g => (g.lpb.mode, g.lpb.modef)) = some (2, [2, 1, 1, 64, 0]) ∧ 64 + 16 ≤ mx.t.scratch) ∧
    (let s := gridWith splitGrid; s.issuer = some mx ∧
      ((s.grid mx.t.gid).map fun g => (g.lpb.mode, g.lpb.modef)) = some (3, [4, 3, 0])) := by decide +kernel

/-! ### Witnesses: results, waits and fills -/

theorem klook_mem {α : Type} {m : List (Nat × α)} {k : Nat} {x : α} (h : klook m k = some x) : (k, x) ∈ m := by
  induction m with
  | nil => cases h
  | cons e t ih =>
    obtain ⟨a, y⟩ := e
    by_cases hk : k = a
    · subst hk; simp [klook] at h; simp [h]
    · simp only [klook, if_neg hk] at h; exact List.mem_cons_of_mem _ (ih h)
theorem noTeamWaits_of {s : State} (h : ∀ e ∈ s.teams, e.2.wait = .none) : noTeamWaits s :=
  fun k u hu => h (k, u) (klook_mem hu)
def countingPath (p : Path) : Bool := match p.st with
  | .counting _ _ => true
  | _ => false
theorem noCounting_of {u : Team} (h : ∀ e ∈ u.paths, countingPath e.2 = false) :
    ∀ j p, u.path j = some p → ∀ a b, p.st ≠ .counting a b := by
  intro j p hp a b hst
  have := h (j, p) (klook_mem hp)
  simp [countingPath, hst] at this

/-- A parked path, and a result in flight to v8 of lanes 0 and 1 with flags: it returns whole, or for lane 1. -/
def longRes : LongRes := { op := none, owners := [], writes := [.v 8 0 5, .v 8 1 6], flags := 1 }
def longUser : Team := { user with long := [longRes], paths := [(0, { path0 with st := .parked })] }
theorem witness_LongResultsReturn : ∃ (s : State) (tk k : Nat) (u : Team) (r : LongRes), s.team tk = some u ∧ u.long[k]? = some r ∧
    noTeamWaits s ∧ lanesInRange r.writes ∧ r.writes.filter (returned (some 1)) ≠ [] ∧
    (r.writes.filter fun w => !returned (some 1) w) ≠ [] :=
  ⟨mach sup longUser 1, 1, 0, longUser, longRes, by decide +kernel, rfl, noTeamWaits_of (by decide +kernel), by
    intro w hw
    simp only [longRes, List.mem_cons, List.not_mem_nil, or_false] at hw
    rcases hw with rfl | rfl <;>
      exact ⟨fun r l y h => by injection h; omega, fun k l y h => by cases h⟩, by decide, by decide⟩

/-- A replay entry of an instruction fetch by path 0, not yet reported. -/
def entry0 : Replay :=
  { seq := 0, path := 0, pc := 0x10000, time := 0, cause := 0x0A, sub := 0, access := .fetch, lanes := [{ lane := 0, addr := 0, data := [] }],
    op := none, owners := [], uniform := true, reported := false, before := [],
    issued := 0, merged := false }
def withPath (p : Path) : Team := { user with paths := [(0, p)] }
def msPath (st : PathState) : State := mach sup (withPath { path0 with st := st }) 1
theorem witness_WaitsEnd_report : ∃ (s : State) (tk k : Nat) (u : Team) (r : Replay), s.team tk = some u ∧ u.replay[k]? = some r ∧
    pathWaitsAt r.access = true :=
  ⟨mach sup { user with replay := [entry0] } 1, 1, 0, { user with replay := [entry0] }, entry0, by decide +kernel⟩
theorem witness_WaitsEnd_fence : ∃ (s : State) (tk pi scope ord upTo : Nat) (u : Team) (p : Path), s.team tk = some u ∧
    u.path pi = some p ∧ p.st = .waiting (.fence scope ord upTo) ∧ u.finishedTo upTo ∧ u.replay ≠ [] := by
  refine ⟨mach sup { withPath { path0 with st := .waiting (.fence 2 4 3) } with replay := [{ entry0 with issued := 3 }] } 1, 1, 0, 2, 4, 3,
    { withPath { path0 with st := .waiting (.fence 2 4 3) } with replay := [{ entry0 with issued := 3 }] },
    { path0 with st := .waiting (.fence 2 4 3) }, by decide +kernel, rfl, rfl, ?_, by simp⟩
  intro r hr
  rw [List.mem_singleton.mp (show r ∈ [{ entry0 with issued := 3 }] from hr)]
  exact fun _ => Nat.le_refl 3
def opUser : Team := { withPath { path0 with st := .counting 0 0 } with ops := [{ id := 7, apath := 0, done := false }] }
theorem witness_WaitsEnd_operation : ∃ (s : State) (tk : Nat) (u : Team) (o : AsyncOp), s.team tk = some u ∧ u.ops = [o] ∧
    o.done = false ∧ (∀ r ∈ u.long, r.op ≠ some o.id) ∧ (∀ r ∈ u.replay, r.op ≠ some o.id) ∧ (∀ c ∈ s.cmds, c.op ≠ o.id) ∧
    noTeamWaits s ∧ (u.paths.map Prod.fst).Nodup :=
  ⟨mach sup opUser 1, 1, opUser, { id := 7, apath := 0, done := false }, by decide +kernel, rfl, rfl, by decide, by decide,
    by decide, noTeamWaits_of (by decide +kernel), by decide⟩
def wokenUser : Team := { waitUser with wait := .waitc 0 0x40000 0 7 0xFFFFFFFF 0 true }
theorem witness_WaitsEnd_waitc : ∃ (s : State) (tk pi cmp lane : Nat) (addr : Dword) (e m v : Word) (u : Team) (p : Path),
    s.team tk = some u ∧ u.path pi = some p ∧ u.wait = .waitc pi addr cmp e m lane true ∧ cmp < 6 ∧ u.halted = false ∧
    onCore s u = true ∧ (∀ r ∈ u.replay, r.access ≠ .waitc cmp e m) ∧ canonicalVa addr = true ∧ s.cachedWord (teamAgent s tk u).gasid addr.toNat = some v ∧
    waitHolds cmp v e m = true :=
  ⟨{ mach sup wokenUser 1 with lines := [lineAt 0x40000 [7, 0, 0, 0]] }, 1, 0, 0, 0, 0x40000, 7, 0xFFFFFFFF, 7, wokenUser, path0,
    by decide +kernel⟩
/-- cflush of a cached line, and cwb of a line that no cache holds. -/
theorem witness_WaitsEnd_maintenance : ∀ e ∈ [(true, [lineAt 0x40000 [7]]), (false, [])], ∃ (s : State) (tk pi upTo : Nat) (va : Dword)
    (u : Team) (p : Path), s.lines = e.2 ∧ s.team tk = some u ∧ u.path pi = some p ∧ p.st = .waiting (.maintenance va e.1 upTo) ∧
    u.finishedTo upTo ∧ ∀ l, klook s.lines (lineKey (teamAgent s tk u).gasid va.toNat) = some l → l.dirty = 0 := by
  have clean : ∀ ls : List (Nat × Line), (∀ q ∈ ls, q.2.dirty = 0) → ∀ k l, klook ls k = some l → l.dirty = 0 :=
    fun ls h k l hl => h (k, l) (klook_mem hl)
  have finished (st : PathState) : (withPath { path0 with st := st }).finishedTo 0 := fun r hr => by cases hr
  intro e he
  simp only [List.mem_cons, List.not_mem_nil, or_false] at he
  rcases he with rfl | rfl
  · exact ⟨{ msPath (.waiting (.maintenance 0x40000 true 0)) with lines := [lineAt 0x40000 [7]] }, 1, 0, 0, 0x40000,
      withPath { path0 with st := .waiting (.maintenance 0x40000 true 0) }, { path0 with st := .waiting (.maintenance 0x40000 true 0) },
      rfl, by decide +kernel, by decide +kernel, rfl, finished _, clean _ (by decide +kernel) _⟩
  · exact ⟨{ msPath (.waiting (.maintenance 0x40000 false 0)) with lines := [] }, 1, 0, 0, 0x40000,
      withPath { path0 with st := .waiting (.maintenance 0x40000 false 0) }, { path0 with st := .waiting (.maintenance 0x40000 false 0) },
      rfl, by decide +kernel, by decide +kernel, rfl, finished _, clean _ (by decide +kernel) _⟩

/-- Breakpoint 1 at the path's PC, breakpoint 0 off, for ASID 0. -/
def bpUser : Team := { user with debug := true }
theorem witness_BreakpointsHoldThePath : ∃ (s : State) (tk n asid : Nat) (u : Team) (p : Path), s.team tk = some u ∧
    u.paths = [(0, p)] ∧ u.debug = true ∧ u.live = true ∧ u.halted = false ∧ u.wait = .none ∧ onCore s u = true ∧
    u.replay = [] ∧ p.st = .ready ∧ p.hold = false ∧ p.skipBp = 0 ∧ n < 2 ∧ asid < 8192 ∧
    asid = (if u.sup then ((s.part (pnumOf tk)).reg 0x25).toNat % 8192 else u.asid) ∧
    (s.part (pnumOf tk)).reg (0x70 + 3 * n) = word (1 + 65536 * asid) ∧
    (s.part (pnumOf tk)).reg64 (0x6E + 3 * n) = p.pc.toNat ∧ (n = 1 → ((s.part (pnumOf tk)).reg 0x70).getLsbD 0 = false) ∧
    (s.part (pnumOf tk)).reg64 0x09 = 0 ∧ (s.part (pnumOf tk)).heldRecs = [] ∧
    ((s.part (pnumOf tk)).reg 0x76).getLsbD 0 = false :=
  ⟨withPart (mach sup bpUser 1) (partRegs [(0x71, 0x10000), (0x73, 1)]), 1, 1, 0, bpUser, path0, by decide +kernel⟩
/-- Breakpoint 0 at the supervisor's PC under its SVASID, 5. -/
def bpSup : Team := { sup with debug := true }
theorem witness_BreakpointsHoldThePath_supervisor : ∃ (s : State) (asid : Nat) (p : Path), s.team 0 = some bpSup ∧
    bpSup.paths = [(0, p)] ∧ bpSup.live = true ∧ bpSup.halted = false ∧ bpSup.wait = .none ∧ onCore s bpSup = true ∧
    bpSup.replay = [] ∧ p.st = .ready ∧ p.hold = false ∧ p.skipBp = 0 ∧
    asid = (if bpSup.sup then ((s.part 0).reg 0x25).toNat % 8192 else bpSup.asid) ∧
    (s.part 0).reg 0x70 = word (1 + 65536 * asid) ∧ (s.part 0).reg64 0x6E = p.pc.toNat ∧ (s.part 0).reg64 0x09 = 0 ∧
    (s.part 0).heldRecs = [] ∧ ((s.part 0).reg 0x76).getLsbD 0 = false :=
  ⟨withPart (mach bpSup user 1) (partRegs [(0x25, 5), (0x6E, 0x10000), (0x70, 0x50001)]), 5, path0, by decide +kernel⟩

def fill0 : Fill := { tk := 1, path := 0, core := 1, gasid := 0, va := 0x10000, second := false, ahead := false }
theorem witness_Fills : ∃ (s : State) (k : Nat) (f : Fill) (u : Team) (l : Line), s.fills[k]? = some f ∧ s.team f.tk = some u ∧
    canonicalVa f.va = true ∧ klook s.lines (lineKey (pnumOf f.tk * 8192 + f.gasid % 8192) f.va.toNat) = some l :=
  ⟨{ ms with fills := [fill0], lines := [lineAt 0x10000 [1]] }, 0, fill0, user, (lineAt 0x10000 [1]).2, by decide +kernel⟩
/-- A line whose byte 3 has an uncorrectable error, fetched, and asked for ahead. -/
def badLine (va : Nat) : Nat × Line := ((lineAt va [1]).1, { (lineAt va [1]).2 with bad := 8 })
theorem witness_Fills_bad : ∀ ahead, ∃ (s : State) (f : Fill) (l : Line), s.fills[0]? = some f ∧ s.team f.tk = some user ∧
    f.ahead = ahead ∧ canonicalVa f.va = true ∧ klook s.lines (lineKey (pnumOf f.tk * 8192 + f.gasid % 8192) f.va.toNat) = some l ∧
    l.bad ≠ 0 := by
  intro ahead
  refine ⟨{ ms with fills := [{ fill0 with ahead := ahead }], lines := [badLine 0x10000] }, { fill0 with ahead := ahead },
    (badLine 0x10000).2, rfl, ?_, rfl, ?_, ?_, by decide +kernel⟩ <;> cases ahead <;> decide +kernel
/-- An instruction cache with room, and one that holds 512 other lines. -/
theorem witness_Fills_room : ∀ n ∈ [0, 512], ∃ (s : State) (f : Fill) (l : Line), s.fills[0]? = some f ∧ s.team f.tk = some user ∧
    canonicalVa f.va = true ∧ klook s.lines (lineKey (pnumOf f.tk * 8192 + f.gasid % 8192) f.va.toNat) = some l ∧ l.bad = 0 ∧
    ((s.icache.map Prod.fst).filter fun e => e / 2 ^ 61 == f.core &&
      e != f.core * 2 ^ 61 + lineKey f.gasid (f.va.toNat / 128 * 128)).length = n := by
  intro n hn
  refine ⟨{ ms with fills := [fill0], lines := [lineAt 0x10000 [1]],
                    icache := (List.range n).map fun k => (fill0.core * 2 ^ 61 + k, 0) }, fill0, (lineAt 0x10000 [1]).2, rfl, ?_⟩
  simp only [List.mem_cons, List.not_mem_nil, or_false] at hn
  rcases hn with rfl | rfl <;> decide +kernel
/-- Lines without an uncorrectable error. -/
theorem witness_sound : ∀ g va, msMem.sound g va := by
  intro g va l hl
  have := klook_mem hl
  revert this
  revert l
  simp only [msMem, List.mem_singleton, lineAt]
  rintro l - h
  injection h with _ h
  rw [h]
/-- The die cache of die 0, empty, takes a line homed there into way 0 of the partition's, and holds it for the next request. -/
theorem witness_DieFillsStayInTheirWays : ∃ (s : State) (a : Agent) (key home : Nat), home / 2 = a.die ∧ s.dieCaches.lines = [] ∧
    (passDie s a key home).dieCaches.lines.map (fun l => (l.die, l.key, l.way)) = [(0, key, 0)] ∧
    ∃ l ∈ (passDie s a key home).dieCaches.lines, l.die = a.die ∧ l.key = key :=
  ⟨msMem, mxMem.agent msMem, 2048, 1, by decide +kernel⟩
def fetchState (work : Nat) : State := gridWith (fetchGrid work)
theorem witness_Mails : ∃ (s : State) (k tk : Nat) (bs : List Byte) (u : Team) (g : Grid), s.mails[k]? = some (tk, bs) ∧
    bs.length = 16 ∧ s.team tk = some u ∧ s.grid u.gid = some g ∧ s.waits = [] ∧ g.lpb.mf 3 = 64 :=
  ⟨{ fetchState 1 with mails := [(1, le 16 5)] }, 0, 1, le 16 5, user, fetchGrid 1 loadedGrid, by decide +kernel⟩
/-- A Curator command whose lane 0 waited: vins at the tree of the walker witnesses. -/
def curCmd (kind : Nat) : Cmd :=
  { id := 0, tk := 1, op := 0, seq := 0, kind := kind, sub := 0, path := 0, lane := 0, pc := 0x10000, args := [0x40000, 8], bytes := [],
    fpm := 0, fmt := 0, flags := 0, prog := 0, stop := none, started := false, lanes := [{ lane := 0, addr := 0, data := [0, 0, 0] }],
    upTo := 0, token := false, asked := false, broken := false }
theorem witness_CuratorRetry : ∀ kind ∈ [kindVol + 6, kindVol + 7], ∃ (s s0 : State) (c : Cmd) (u u' : Team) (tree : Tree),
    s.cmd 0 = some c ∧ s.team 1 = some u ∧ c.tk = 1 ∧ c.stop = none ∧ u.live = true ∧ c.kind = kind ∧ c.lanes ≠ [] ∧
    readTree s (cmdAgent s c u) (BitVec.ofNat 64 (c.args.getD 0 0)) u.vregs 0 = .ok (s0, .ok tree) ∧
    let p := performWith { s0 with cmds := s0.cmds.filter fun d => d.id != c.id }
      (fun s r => curatorLane s (cmdAgent s c u) tree (c.kind - kindVol) (c.args.getD 1 0) c.tk c.op r) c.lanes
    p.failed = [] ∧ p.s.team 1 = some u' ∧ ∀ e ∈ p.s.teams, e.2.wait = .none := by
  intro kind hk
  simp only [List.mem_cons, List.not_mem_nil, or_false] at hk
  rcases hk with rfl | rfl
  · exact ⟨{ msVol with cmds := [curCmd 390] }, { msVol with cmds := [curCmd 390] }, curCmd 390, volUser, volUser, treeOf 0x40000 treeDesc,
      rfl, by decide +kernel, rfl, rfl, by decide +kernel, rfl, by simp [curCmd], okPair_eq (by decide +kernel), by decide +kernel⟩
  · exact ⟨{ msVol with cmds := [curCmd 391] }, { msVol with cmds := [curCmd 391] }, curCmd 391, volUser, volUser, treeOf 0x40000 treeDesc,
      rfl, by decide +kernel, rfl, rfl, by decide +kernel, rfl, by simp [curCmd], okPair_eq (by decide +kernel), by decide +kernel⟩

/-- A child's block at 0x40000: DENSE 1 x 1 x 1, one team of 32 lanes, 1 register of each kind. -/
def childLpb : List Byte :=
  le 8 0x20000 ++ le 2 32 ++ le 6 0x010101010101 ++ le 8 0 ++ le 8 0 ++ le 12 0x000000010000000100000001 ++ le 212 0
def okBytes (r : Except (State × AccFault) (State × List Byte)) (s : State) (b : List Byte) : Bool :=
  match r with
  | .ok (t, c) => decide (t = s) && decide (c = b)
  | _ => false
theorem okBytes_eq {r : Except (State × AccFault) (State × List Byte)} {s : State} {b : List Byte} (h : okBytes r s b = true) :
    r = .ok (s, b) := by
  unfold okBytes at h
  split at h
  · simp only [Bool.and_eq_true, decide_eq_true_eq] at h; rw [h.1, h.2]
  · cases h
def launcher : Team := withPath { path0 with st := .waiting (.launch 0x40000 0 0) }
def msLaunch : State :=
  { mach sup launcher 1 with lines := [lineAt 0x40000 (childLpb.take 128), lineAt 0x40080 (childLpb.drop 128)] }
theorem witness_LaunchStartsTheChild : ∃ (s : State) (tk pi n lane upTo : Nat) (addr : Dword) (u : Team) (p : Path) (pg : Grid)
    (bs : List Byte), u.finishedTo upTo ∧ (∀ r ∈ u.replay, r.access = .launch → r.path ≠ pi) ∧
    (s.team tk = some u ∧ u.sup = false ∧ u.halted = false ∧ u.path pi = some p ∧
    p.st = .waiting (.launch addr lane upTo) ∧ s.grid u.gid = some pg ∧ canonicalVa addr = true ∧ addr.toNat < 2 ^ 51 ∧
    addr.toNat % 64 = 0 ∧ s.waits = [] ∧ unplacedChildren s (pnumOf tk) < 1024 ∧
    (∀ j, j < 4 → (klook s.lines (lineKey (teamAgent s tk u).gasid (addr.toNat + 64 * j))).isSome = true)) ∧
    vread s (teamAgent s tk u) addr.toNat 256 = .ok (s, bs) ∧ (lpbOf bs).valid = true ∧ (lpbOf bs).mode = 0 ∧
    1 ≤ n ∧ n < 65536 ∧ s.grid (pnumOf tk * 65536 + n) = none ∧
    (∀ k, 1 ≤ k → k < n → (s.grid (pnumOf tk * 65536 + k)).isSome = true) := by
  refine ⟨msLaunch, 1, 0, 2, 0, 0, 0x40000, launcher, { path0 with st := .waiting (.launch 0x40000 0 0) }, loadedGrid, childLpb,
    (show launcher.finishedTo 0 from fun r h => by cases h), (show ∀ r ∈ launcher.replay, r.access = .launch → r.path ≠ 0 from fun r h => by cases h), by decide +kernel,
    okBytes_eq (by decide +kernel), by decide +kernel, by decide +kernel, by decide, by decide, by decide +kernel, ?_⟩
  intro k h1 h2
  obtain rfl : k = 1 := by omega
  decide +kernel

/-! ### Witnesses: engine events -/

/-- A command of user team 1, the only one of its counter, whose operation is number 0. -/
def cmdW (kind sub : Nat) (args : List Nat) (bytes : List Byte) (started token : Bool) (prog : Nat) : Cmd :=
  { id := 0, tk := 1, op := 0, seq := 0, kind := kind, sub := sub, path := 0, lane := 0, pc := 0x10000, args := args, bytes := bytes,
    fpm := 0, fmt := 0xE7, flags := 0, prog := prog, stop := none, started := started, lanes := [], upTo := 0, token := token, asked := false, broken := false }
def cmdUser : Team := { engUser with ops := [{ id := 0, apath := 0, done := false }] }
/-- A machine with that command, at the head of partition 0's array set, and a sent packet of it. -/
def msCmd (c : Cmd) : State :=
  withPart { mach sup cmdUser 1 with cmds := [c], lines := treeLines } { loadedPart with peuri := { PeuriSet.empty with queue := [0] } }
/-- A copy of one FP32 row, a task that clears tile 0, a halo header without entries, and a raster of an empty triangle. -/
def cpBytes : List Byte := cellsRead engScr 0 64
/-- Two rows of 16 FP32 values, one after the other, from 4096 to 8192. -/
def cpTwo : List Byte :=
  le 1 0 ++ le 1 0x11 ++ le 6 0 ++ le 8 4096 ++ le 8 8192 ++ le 4 2 ++ le 4 16 ++ le 8 64 ++ le 8 64 ++ le 16 0
def haloBytes (n : Nat) : List Byte := le 8 0x40000 ++ le 8 0 ++ le 4 n ++ le 4 256 ++ le 8 0
def taskBytes (op : Nat) : List Byte := le 4 9 ++ le 8 0 ++ le 4 op ++ le 4 0x80E7 ++ le 4 32 ++ le 8 0 ++ le 32 0
def stepArgs (fmt : Nat) : List Nat := [0, fmt, 32, 0, 4096, 0x90000, 0, 0, 0]

/-- Everything that EngineCommandsComplete asks of a state and an event. -/
def endsWell (s : State) (i : Instr) : Bool :=
  match endingRow s i with
  | some e => match e.s.team e.c.tk with
    | some u => decide ((u.ops.head?.map AsyncOp.id) = some e.c.op) && (u.ops.all fun q => !q.done)
        && decide ((u.ops.map AsyncOp.id).Nodup) && decide (∀ q ∈ u.paths, countingPath q.2 = false)
        && decide ((u.paths.map Prod.fst).Nodup) && decide (∀ q ∈ e.s.teams, q.2.wait = .none)
    | none => false
  | none => false
theorem endsWell_meets {s : State} {i : Instr} (h : endsWell s i = true) : ∃ (e : Ending) (u : Team) (o : AsyncOp),
    endingRow s i = some e ∧ e.s.team e.c.tk = some u ∧ u.ops.head? = some o ∧ o.id = e.c.op ∧ (∀ q ∈ u.ops, q.done = false) ∧
    (u.ops.map AsyncOp.id).Nodup ∧ (∀ j p, u.path j = some p → ∀ a b, p.st ≠ .counting a b) ∧ (u.paths.map Prod.fst).Nodup ∧
    noTeamWaits e.s := by
  unfold endsWell at h
  split at h
  · split at h
    · rename_i _ e he _ u hu
      simp only [Bool.and_eq_true, decide_eq_true_eq, List.all_eq_true, Bool.not_eq_true'] at h
      obtain ⟨⟨⟨⟨⟨h1, h2⟩, h3⟩, h4⟩, h5⟩, h6⟩ := h
      cases ho : u.ops.head? with
      | none => simp [ho] at h1
      | some o =>
        simp [ho] at h1
        exact ⟨e, u, o, he, hu, ho, h1, h2, h3, noCounting_of h4, h5, noTeamWaits_of h6⟩
    · cases h
  · cases h

/-- Every row of the table of completion events. -/
theorem witness_EngineCommandsComplete : ∀ e ∈ ([(cmdW kindCp 0 [] cpBytes false false 0, .copyCommandComplete 0),
    (cmdW kindMma 0 (stepArgs 0xE7) [] false true 1, .mmaStepComplete 0),
    (cmdW kindAcc 0 [0] [] false false 0, .accumulatorCommandComplete 0),
    (cmdW (kindAcc + 7) 0 [0, 1, 2, 5] [] false false 0, .accumulatorCommandComplete 0),
    (cmdW kindMscl 1 [0x40000, 0] [] false false 0, .accumulatorCommandComplete 0),
    (cmdW (kindAcc + 1) 0 [0, 17, 0, 0, 0] [] false false 0, .accumulatorCommandComplete 0),
    (cmdW kindTtq 0 [] (taskBytes 0) true true 1, .tileTaskComplete 0), (cmdW kindTtq 0 [] (taskBytes 1) true true 0, .tileTaskComplete 0),
    (cmdW kindTtq 0 [] (taskBytes 3) true true 1, .tileTaskComplete 0),
    (cmdW (kindVol + 8) 0 [] (haloBytes 0) false false 0, .haloCommandComplete 0),
    (cmdW kindPeuri 0 [0x48000] [] true false 0, .peuriCommandComplete 0), (cmdW (kindPeuri + 1) 3 [] [] true false 0, .peuriCommandComplete 0),
    (cmdW (kindPeuri + 3) 0 [4, 0] [] true false 0, .peuriCommandComplete 0), (cmdW (kindPeuri + 5) 3 [] [] true false 0, .peuriCommandComplete 0),
    (cmdW (kindVol + 2) 0 [0x40000, 128, 1024] [] false false 0, .asyncCompletion 1 0),
    (cmdW (kindLayer + 3) 0 (4 :: 1 :: List.replicate 11 0) [] false false 0, .asyncCompletion 1 0)] : List (Cmd × Instr)),
    endsWell { msCmd e.1 with lines := treeLines ++ [lineAt 0x48000 (le 4 1 ++ le 4 1 ++ le 8 0 ++ le 8 0x48080 ++ le 40 0), lineAt 0x48080 []] } e.2
      = true := by decide +kernel
theorem witness_rdmaAcknowledgement :
    endsWell { msCmd (cmdW kindCp 0 [] cpBytes true false 0) with sends := [(0, 2)] } (.rdmaAcknowledgement 0) = true := by decide +kernel

/-- A fault event of a run stopped by an access to a page that no table maps. -/
def faultsWell (s : State) (i : Instr) : Bool :=
  match faultRow s i with
  | some (c, _, .stopped s1 _ _ cause _ _ _) => match s1.team c.tk, s1.cmd c.id with
    | some u, some d => !u.sup && (d.token == c.token) && d.stop.isNone && hasSupervisor s1 (pnumOf c.tk)
        && (cause == 0x0A || cause == 0x0B)
        && decide ((s1.part (pnumOf c.tk)).batch.length + 1 < max 1 (min 256 (((s1.part (pnumOf c.tk)).reg 0x29).toNat / 65536 % 512)))
    | _, _ => false
  | _ => false
/-- A copy from address 0x90000. -/
def cpFar : List Byte := le 1 0 ++ le 1 0x10 ++ le 6 0 ++ le 8 0x90000 ++ le 8 8192 ++ le 4 1 ++ le 4 16 ++ le 32 0
theorem witness_EngineFaultsStopCommands : ∀ e ∈ ([(cmdW kindCp 0 [] cpFar false false 0, .copyFaultStop 0),
    (cmdW kindMma 0 (stepArgs 0x80E7) [] false true 0, .mmaStepFaultStop 0),
    (cmdW kindTtq 0 [] (le 4 9 ++ le 8 0 ++ le 4 0 ++ le 4 0x80E7 ++ le 4 32 ++ le 8 0 ++ le 8 0x90000 ++ le 24 0) true true 0, .mmaStepFaultStop 0),
    (cmdW (kindAcc + 2) 0 [0, 17, 0x90000, 0, 0] [] false false 0, .accumulatorFaultStop 0),
    (cmdW kindTtq 0 [] (le 4 9 ++ le 8 0 ++ le 4 2 ++ le 4 0 ++ le 4 0 ++ le 8 0 ++ le 8 0x90000 ++ le 24 0) true true 0, .accumulatorFaultStop 0),
    (cmdW (kindVol + 8) 0 [] (le 8 0x90000 ++ le 8 0 ++ le 4 1 ++ le 4 256) false false 0, .haloFaultStop 0),
    (cmdW kindPeuri 0 [0x90000] [] true false 0, .peuriLoadFault 0),
    (cmdW (kindPeuri + 4) 1 [0x90000, 0, 1] [] true false 0, .peuriLoadFault 0)] : List (Cmd × Instr)),
    faultsWell (msCmd e.1) e.2 = true := by decide +kernel

theorem witness_PlainCopyMovesItsBytes : ∃ (s : State) (c : Cmd) (u : Team), mayProceed s c.id = some (c, u) ∧ c.kind = kindCp ∧
    c.started = false ∧ c.prog = 0 ∧ s.waits = [] ∧ (let k := copyOf c.bytes
      let row := k.elems * fmtBits k.sf / 8
      k.kind = 0 ∧ k.ssp = 1 ∧ k.dsp = 1 ∧ k.conv = 0 ∧ k.df = k.sf ∧ 1 ≤ k.elems ∧ k.elems * fmtBits k.sf % 8 = 0 ∧
      k.sstr = row ∧ k.dstr = row ∧ (k.src + k.rows * row ≤ k.dst ∨ k.dst + k.rows * row ≤ k.src) ∧ 2 ≤ k.rows) :=
  ⟨msCmd (cmdW kindCp 0 [] cpTwo false false 0), cmdW kindCp 0 [] cpTwo false false 0, cmdUser, by decide +kernel⟩
theorem witness_Int8StepAccumulatesProducts : ∃ (s : State) (c : Cmd) (u : Team) (nb m n : Nat), mayProceed s c.id = some (c, u) ∧
    c.kind = kindMma ∧ c.token = true ∧ matrixTurn s c u = true ∧ c.prog = 0 ∧ c.step.fmt.toNat % 2 ^ 10 = 7 + 32 * 7 ∧
    c.step.fmt.toNat / 2 ^ 15 = 0 ∧ c.step.k = 32 * nb ∧ nb ≤ 256 ∧ m < 128 ∧ n < 128 ∧
    (dget 0 u.tiles (16384 * c.step.acc + 128 * m + n)).toInt ≤ 2 ^ 126 ∧
    -(2 ^ 126) ≤ (dget 0 u.tiles (16384 * c.step.acc + 128 * m + n)).toInt ∧ 1 ≤ nb :=
  ⟨msCmd (cmdW kindMma 0 (stepArgs 0xE7) [] false true 0), cmdW kindMma 0 (stepArgs 0xE7) [] false true 0, cmdUser, 1, 127, 0, by decide +kernel⟩
theorem witness_TaskStarts : ∃ (s : State) (c : Cmd) (u : Team), mayProceed s c.id = some (c, u) ∧ taskReady s c u = true ∧
    c.token = true ∧ olderStartable s c u = false ∧ (s.cmds.map Cmd.id).Nodup :=
  ⟨msCmd (cmdW kindTtq 0 [] (taskBytes 0) false true 0), cmdW kindTtq 0 [] (taskBytes 0) false true 0, cmdUser, by decide +kernel⟩
theorem witness_ArrayStarts : ∃ (s : State) (pn : Nat) (c : Cmd) (u : Team), peuriNext s pn = some (c, u) ∧ startFails s c u = none ∧
    c.kind ≠ kindPeuri ∧ c.kind ≠ kindPeuri + 2 ∧ s.cmd c.id = some c :=
  ⟨msCmd (cmdW (kindPeuri + 1) 3 [] [] false false 0), 0, cmdW (kindPeuri + 1) 3 [] [] false false 0, cmdUser, by decide +kernel⟩
/-- A packet that may be sent again, and one that has been sent seven times more. -/
theorem witness_RdmaRetry : ∀ n ∈ [0, 7], klook ({ ms with sends := [(0, n)] } : State).sends 0 = some n := by decide
theorem witness_NetworkFailure : ∃ (s : State) (c : Cmd) (n : Nat) (u : Team), klook s.sends c.id = some n ∧ s.cmd c.id = some c ∧
    s.team c.tk = some u ∧ u.sup = false ∧ c.token = false ∧ hasSupervisor s (pnumOf c.tk) = true ∧
    (s.part (pnumOf c.tk)).reg64 0x09 = 0 ∧ (s.part (pnumOf c.tk)).heldRecs = [] ∧ s.waits = [] ∧ c.path < 256 ∧
    (s.grid u.gid).isSome = true :=
  ⟨{ msCmd (cmdW kindCp 0 [] cpBytes true false 0) with sends := [(0, 7)] }, cmdW kindCp 0 [] cpBytes true false 0, 7, cmdUser,
    by decide +kernel⟩

/-- A ring command that goes through, and one that does not: ring 3 empty, or with 64 entries. -/
def ringCmd (fn sub : Nat) : Cmd := cmdW (kindLayer + fn) sub [3, 0, 5] [] false false 0
def ringState (fn sub n : Nat) : State :=
  { msCmd (ringCmd fn sub) with rings := dput Ring.empty [] 3 { Ring.empty with push := BitVec.ofNat 32 n } }
theorem witness_RingCommandsPerform : ∀ fn ∈ [4, 5], ∀ sub ∈ [0, 1], ∀ n ∈ [0, 64], ∃ (s : State) (c : Cmd) (u : Team) (o : AsyncOp),
    s.ring 3 = { Ring.empty with push := BitVec.ofNat 32 n } ∧ c.args.getD 0 0 = 3 ∧ c.kind = kindLayer + fn ∧ c.sub = sub ∧
    (mayProceed s c.id = some (c, u) ∧ c.started = false ∧ c.token = false ∧
    (∀ d ∈ s.cmds, d.tk = c.tk → d.id ≠ c.id → d.kind ≠ kindLayer + 4 ∧ d.kind ≠ kindLayer + 5) ∧
    u.ops.head? = some o ∧ o.id = c.op ∧ (∀ q ∈ u.ops, q.done = false) ∧ (u.ops.map AsyncOp.id).Nodup ∧
    (u.paths.map Prod.fst).Nodup ∧ s.waits = [] ∧ (s.cmds.map Cmd.id).Nodup) ∧
    (∀ j p, u.path j = some p → ∀ a b, p.st ≠ .counting a b) ∧ noTeamWaits s := by
  have all : ∀ fn ∈ [4, 5], ∀ sub ∈ [0, 1], ∀ n ∈ [0, 64], (ringState fn sub n).ring 3 = { Ring.empty with push := BitVec.ofNat 32 n } ∧
      mayProceed (ringState fn sub n) 0 = some (ringCmd fn sub, cmdUser) ∧ (∀ e ∈ (ringState fn sub n).teams, e.2.wait = .none) := by
    decide +kernel
  intro fn hf sub hs n hn
  obtain ⟨h1, h2, h3⟩ := all fn hf sub hs n hn
  refine ⟨ringState fn sub n, ringCmd fn sub, cmdUser, { id := 0, apath := 0, done := false }, h1, rfl, rfl, rfl,
    ⟨h2, rfl, rfl, ?_, rfl, rfl, by decide, by decide, by decide, rfl, List.pairwise_singleton _ _⟩, noCounting_of (by decide), noTeamWaits_of h3⟩
  intro d hd _ hne
  exact absurd (List.mem_singleton.mp (show d ∈ [ringCmd fn sub] from hd)) (fun h => hne (by rw [h]))

/-! ### Witnesses: partitions, the supervisor's waits, resolution -/

def pst (f : Part → Part) : State := withPart ms (f loadedPart)
def regsOf (rs : List (Nat × Word)) (s : State) : State := s.modPart 0 fun p => { p with regs := (partRegs rs).regs }
/-- Every row of the table of partition events; a clock lock at an operating point that every die has. -/
theorem witness_PartitionEventsComplete : ∀ e ∈ ([(pst fun p => { p with tokenReqs := [(true, 0)] }, .powerTokenGrant 0),
    (pst fun p => { p with tokenReqs := [(false, 1)] }, .powerTokenGrant 0),
    ({ regsOf [(0x12, 1)] ms with clock := 1024 }, .supervisorWatchdogExpiry 0), (ms, .reginvAsid 0 8191), (ms, .reginvAll 0),
    (ms, .progressCounterClear 0 0x103), (ms, .trapQueueConfigWrite 0 0x09 0x40000), (ms, .trapQueueConfigWrite 0 0x0A 1),
    (ms, .trapQueueConfigWrite 0 0x0B 0x85000000), (ms, .causalTrialStart 0 0x100), (regsOf [(0x7C, 0x100)] ms, .causalTrialEnd 0 0),
    (ms, .clockLockRequest 0 0x104), (regsOf [(0x7F, 0x304)] ms, .clockLockRelease 0 4), (regsOf [(0x7F, 0x104)] ms, .clockLockRelease 0 4),
    (regsOf [(0x7F, 0x104)] (pst fun p => { p with lockPoint := 4 }), .clockLockGrant 0)] : List (State × Instr)),
    (partitionRow e.1 e.2).isSome = true := by decide +kernel

/-- The supervisor waits at path 3 for w; the user team is halted. -/
def supW (w : PathWait) : Team := { sup with paths := [(3, { path0 with st := .waiting w })] }
def msW (w : PathWait) : State := mach (supW w) { user with halted := true } 0
theorem supW_waits (w : PathWait) : SupervisorWaits (msW w) 0 3 (supW w) { path0 with st := .waiting w } w := ⟨rfl, rfl, rfl⟩
theorem witness_SupervisorWaitsEnd_halt : ∃ (s : State) (pn pi : Nat) (sel : Word) (u : Team) (p : Path),
    SupervisorWaits s pn pi u p (.halt sel) ∧ namedTeams s pn sel ≠ [] ∧ ∀ k ∈ namedTeams s pn sel, settled s k = true :=
  ⟨msW (.halt 0x10000), 0, 3, 0x10000, _, _, supW_waits _, by decide +kernel⟩
theorem witness_SupervisorWaitsEnd_tlbinv : ∃ (s : State) (pn pi : Nat) (sel : Dword) (u : Team) (p : Path),
    SupervisorWaits s pn pi u p (.tlbinv sel) := ⟨msW (.tlbinv 0x20000000000000), 0, 3, _, _, _, supW_waits _⟩
theorem witness_SupervisorWaitsEnd_exchange : ∃ (s : State) (pn pi : Nat) (u : Team) (p : Path),
    SupervisorWaits s pn pi u p .exchange ∧ u.sup = true ∧ (s.part pn).cellar = none ∧
    (∀ e ∈ s.cohorts, e.2.gid / 65536 = pn → e.2.place ≠ .shadow) ∧ usersOf s pn ≠ [] ∧
    (∀ e ∈ usersOf s pn, e.1 ≠ pn * 65536 ∧ settled s e.1 = true) :=
  ⟨msW .exchange, 0, 3, _, _, supW_waits _, by decide +kernel⟩
def trap0 : Trap :=
  { cause := 0x11, sub := 2, pc := 0x10000, addr := 0x40000, path := 3, mask := 1, fl := 0, code := 0, time := 0, seq := 0 }
theorem witness_SupervisorWaitsEnd_fault : ∃ (s : State) (pn id : Nat) (tr : Trap) (u : Team) (p : Path),
    s.team (pn * 65536) = some u ∧ u.halted = false ∧
    s.parts.find? (fun e => e.2.svPending.any fun q => q.1 == id) = some (pn, s.part pn) ∧ (s.part pn).svPending = [(id, tr)] ∧
    u.path tr.path = some p ∧ (∀ c, s.cmd id = some c → c.path = tr.path) ∧ (s.part pn).reg 0x01 = 0 ∧
    (s.part pn).reg64 0x02 ≠ 0 ∧ tr.cause < 64 ∧ tr.sub < 256 ∧ u.sup = true ∧
    (s.cmd id).map Cmd.kind ≠ some kindEnded :=
  ⟨withPart (msW (.halt 0)) { partRegs [(2, 0x8000)] with svPending := [(5, trap0)] }, 0, 5, trap0, supW (.halt 0),
    { path0 with st := .waiting (.halt 0) }, by decide +kernel, by decide +kernel, by decide +kernel, by decide +kernel,
    by decide +kernel, (fun c h => by cases h), by decide +kernel, by decide +kernel, by decide +kernel, by decide +kernel,
    by decide +kernel, by decide +kernel⟩
/-- A command that its trap has ended, the only one and the first of its counter. -/
def endedSup : Team := { sup with paths := [(3, path0)], ops := [{ id := 0, apath := 0, done := false }] }
theorem witness_SupervisorWaitsEnd_ended : ∃ (s : State) (id : Nat) (u : Team) (c : Cmd) (o : AsyncOp), s.team 0 = some u ∧
    ¬u.counts ∧ s.cmds = [c] ∧ c.id = id ∧ c.kind = kindEnded ∧ u.ops = [o] ∧ o.id = c.op ∧ u.opSettled o.id = true := by
  refine ⟨{ mach endedSup user 0 with cmds := [{ curCmd kindEnded with tk := 0 }] }, 0, endedSup, { curCmd kindEnded with tk := 0 },
    { id := 0, apath := 0, done := false }, by decide +kernel, ?_, rfl, rfl, rfl, rfl, rfl, by decide +kernel⟩
  rintro ⟨j, p, a, b, hp, hst⟩
  exact noCounting_of (u := endedSup) (by decide) j p hp a b hst
def context0 : Context := { teams := [(1, user)], cohorts := [], cmds := [], waits := [], mails := [], regs := [] }
theorem witness_CellarTransfersEnd : (∃ (s : State) (pn : Nat) (c : Context), (s.part pn).cellar = some c ∧ (s.part pn).cellarOp = 1) ∧
    ∃ (s : State) (pn : Nat), (s.part pn).cellarOp = 2 :=
  ⟨⟨pst fun p => { p with cellar := some context0, cellarOp := 1 }, 0, context0, by decide +kernel⟩,
    pst fun p => { p with cellarOp := 2 }, 0, by decide +kernel⟩

def trapped : Path := { path0 with st := .faulted, trap := some { trap0 with cause := 4, path := 0 } }
theorem witness_PresContinue : ∃ (s : State) (pn tid pi : Nat) (u : Team) (p : Path) (tr : Trap), 1 ≤ tid ∧ tid < 65536 ∧ pi < 64 ∧
    s.team (pn * 65536 + tid) = some u ∧ u.live = true ∧ u.sup = false ∧ u.path pi = some p ∧ p.trap = some tr ∧ tr.cause = 0x04 :=
  ⟨mach sup (withPath trapped) 0, 0, 1, 0, withPath trapped, trapped, { trap0 with cause := 4, path := 0 }, by decide +kernel⟩
/-- Grid 1 counts its completion at 0x40000. -/
def doneGrid : Grid := { loadedGrid with lpb := { loadedLpb with done := 0x40000 } }
def msDone : State := { ms with grids := [(1, doneGrid)], lines := [lineAt 0x40000 (le 8 0xFFFFFFFFFFFFFFFF)] }
theorem witness_Gend : ∃ (s : State) (pn id : Nat) (g : Grid), id < 65536 ∧ s.grid (pn * 65536 + id) = some g ∧
    (∀ e ∈ s.grids, e.2.parent ≠ some (pn * 65536 + id)) ∧ (s.grids.map Prod.fst).Nodup ∧ g.depth ≤ 10 ∧ g.lpb.errec = 0 ∧
    g.lpb.done.toNat % 8 = 0 ∧ canonicalVa g.lpb.done = true ∧ s.waits = [] ∧
    (klook s.lines (lineKey (pn * 8192 + g.asid % 8192) g.lpb.done.toNat)).isSome = true := ⟨msDone, 0, 1, doneGrid, by decide +kernel⟩
def report0 : Report := { asid := 0, page := 4, cause := 0x0A, sub := 2, acc := 1, tid := 1 }
theorem witness_Batch : ∃ (s : State) (pn : Nat) (r : Report), (s.part pn).batch = [r] ∧
    (s.part pn).batchAt + max 1 (((s.part pn).reg 0x29).toNat % 65536) ≤ s.clock ∧ (s.part pn).reg64 0x09 = 0 ∧
    (s.part pn).heldRecs = [] :=
  ⟨{ pst (fun p => { p with batch := [report0] }) with clock := 0x834 }, 0, report0, by decide +kernel⟩

/-- A load of 8 bytes held in lanes 0 and 1 by a fault (cause 0x0A) or a watchpoint (cause 0x07). -/
def heldLoad (cause : Nat) : Replay :=
  { seq := 0, path := 0, pc := 0x10000, time := 0, cause := cause, sub := 0, access := .load 5 10,
    lanes := [{ lane := 0, addr := 0x40000, data := [] }, { lane := 1, addr := 0x40078, data := [] }], op := none, owners := [], uniform := false,
    reported := true, before := [], issued := 0, merged := false }
def heldUser (cause : Nat) : Team := { withPath { path0 with st := .faulted } with replay := [heldLoad cause] }
def heldState (cause : Nat) : State := { ms with teams := [(1, heldUser cause)], lines := [lineAt 0x40000 (le 8 77)] }
theorem witness_ReplayPerformsHeldLanes : ∀ e ∈ ([(.presPerformHeld 0 (word (1 + 65536 * 0 + 2 ^ 22)), 0x07), (.replayAll 0, 0x0A),
      (.replayAsid 0 0, 0x0A)] : List (Instr × Nat)), ∃ (s : State) (pn tid pi sz d : Nat) (u : Team) (p : Path) (r : Replay),
    (1 ≤ tid ∧ tid < 65536 ∧ pn < 8 ∧ pi < 64 ∧ s.teams = [(pn * 65536 + tid, u)] ∧ u.live = true ∧ u.sup = false ∧
    u.halted = false ∧ u.wait = .none ∧ u.asid < 8192 ∧ u.paths = [(pi, p)] ∧ p.st = .faulted ∧ p.trap = none ∧
    u.replay = [r] ∧ r.path = pi ∧ r.access = .load sz d ∧ sz ≤ 6 ∧ r.uniform = false ∧ r.op = none ∧ s.cmds = [] ∧
    r.lanes ≠ [] ∧
    (∀ q ∈ r.lanes, p.mask.getLsbD q.lane = true ∧ q.lane < 1024 ∧ canonicalVa q.addr = true ∧
      q.addr.toNat % sizeBytes sz = 0 ∧ (klook s.lines (lineKey (pn * 8192 + u.asid) q.addr.toNat)).isSome = true)) ∧
    ((r.cause = 0x07 ∧ e.1 = .presPerformHeld pn (word (tid + 65536 * pi + 2 ^ 22))) ∨
      (r.cause = 0x0A ∧ (e.1 = .replayAll pn ∨ e.1 = .replayAsid pn u.asid))) := by
  intro e he
  simp only [List.mem_cons, List.not_mem_nil, or_false] at he
  rcases he with rfl | rfl | rfl
  · exact ⟨heldState 0x07, 0, 1, 0, 5, 10, heldUser 0x07, { path0 with st := .faulted }, heldLoad 0x07, by decide +kernel, .inl ⟨rfl, rfl⟩⟩
  · exact ⟨heldState 0x0A, 0, 1, 0, 5, 10, heldUser 0x0A, { path0 with st := .faulted }, heldLoad 0x0A, by decide +kernel, .inr ⟨rfl, .inl rfl⟩⟩
  · exact ⟨heldState 0x0A, 0, 1, 0, 5, 10, heldUser 0x0A, { path0 with st := .faulted }, heldLoad 0x0A, by decide +kernel, .inr ⟨rfl, .inr rfl⟩⟩

/-! ### Witnesses: cohorts, teams and grids -/

/-- The cohort of team 1, whose team waits by waitc, woken or not; and the swap limit 1. -/
def cohort1 (place : CohortPlace) : Cohort :=
  { gid := 1, idx := 0, die := 0, cluster := 0, span := 1, block := none, teams := [1], place := place, barSkew := [], draining := place == .shadow }
def waitcUser (woken : Bool) : Team := { user with wait := .waitc 0 0x40000 0 7 0xFFFFFFFF 0 woken }
def msCohort (place : CohortPlace) (woken : Bool) : State :=
  regsOf [(0x28, 1)] { mach sup (waitcUser woken) 0 with cohorts := [(0, cohort1 place)] }
theorem witness_CohortsSwap_out : ∃ (s : State) (cid tk : Nat) (c : Cohort) (u : Team), klook s.cohorts cid = some c ∧
    c.place = .resident ∧ Idles s c tk u ∧ (s.part (c.gid / 65536)).cellar = none ∧ (∀ e ∈ s.cohorts, e.2.place = .resident) ∧
    1 ≤ ((s.part (c.gid / 65536)).reg 0x28).toNat % 65536 := by
  refine ⟨msCohort .resident false, 0, 1, cohort1 .resident, waitcUser false, by decide +kernel, rfl, ⟨rfl, by decide +kernel, by decide +kernel,
    ⟨0, 0x40000, 0, 7, 0xFFFFFFFF, 0, false, rfl⟩⟩, by decide +kernel, by decide +kernel, by decide +kernel⟩
theorem witness_CohortsSwap_drain : ∃ (s : State) (cid : Nat) (c : Cohort), klook s.cohorts cid = some c ∧ c.place = .shadow ∧
    c.draining = true ∧ (∀ e ∈ s.cohorts, ∀ n, e.2.place ≠ .drained n) :=
  ⟨msCohort .shadow false, 0, cohort1 .shadow, by decide +kernel, rfl, rfl, by
    intro e he n
    rw [List.mem_singleton.mp (show e ∈ [(0, cohort1 .shadow)] from he)]
    exact fun h => by cases h⟩
/-- A cohort of one team that fits, as a test that evaluates. -/
def oneFit (r : Option (Nat × Option Nat × List Resv)) : Bool := match r with
  | some (_, _, [_]) => true
  | _ => false
theorem oneFit_some {r : Option (Nat × Option Nat × List Resv)} (h : oneFit r = true) : ∃ c b x, r = some (c, b, [x]) := by
  unfold oneFit at h
  split at h
  · exact ⟨_, _, _, rfl⟩
  · cases h
theorem witness_CohortsSwap_in : ∃ (s : State) (cid tk cluster : Nat) (c : Cohort) (block : Option Nat) (r : Resv) (u : Team)
    (p cmp lane : Nat) (addr : Dword) (e m : Word), klook s.cohorts cid = some c ∧ c.place ≠ .resident ∧ c.teams = [tk] ∧
    s.team tk = some u ∧ u.live = true ∧ u.wait = .waitc p addr cmp e m lane true ∧ swapInFit s c = some (cluster, block, [r]) := by
  obtain ⟨c, b, x, h⟩ := oneFit_some (r := swapInFit (msCohort (.drained 0) true) (cohort1 (.drained 0))) (by decide +kernel)
  exact ⟨msCohort (.drained 0) true, 0, 1, c, cohort1 (.drained 0), b, x, waitcUser true, 0, 0, 0, 0x40000, 7, 0xFFFFFFFF, by decide +kernel,
    by decide, rfl, by decide +kernel, by decide +kernel, rfl, h⟩

/-- A grid of two cohorts at the head of die 0's processor: none claimed, the ticket at 0x40000 holding v; or cohort 0 claimed. -/
def headG (unplaced : List (Nat × Nat)) : Grid :=
  { loadedGrid with lpb := { loadedLpb with ticket := 0x40000, scratch := 1024, vregs := 8, acct := 0, modef := [2, 1, 1] }, n := 2, claiming := [0],
                    unplaced := unplaced }
def msHead (unplaced : List (Nat × Nat)) (v : Nat) : State :=
  withPart { mach sup user 0 with grids := [(1, headG unplaced)], lines := [lineAt 0x40000 (le 8 v)] }
    { loadedPart with procs := [(0, { ptr := 16, pending := [1] })] }
theorem witness_ClaimsTakeTheTicket : ∀ v ∈ [1, 2], ∃ (s : State) (pn die gid : Nat) (g : Grid), headGrid s pn die = some (gid, g) ∧
    g.claiming.contains die = true ∧ (∀ e ∈ g.unplaced, e.1 ≠ die) ∧ heldBack s gid g = false ∧ s.grid gid = some g ∧
    g.lpb.ticket.toNat % 8 = 0 ∧ s.waits = [] ∧ g.n = 2 ∧
    s.cachedNat (gid / 65536 * 8192 + g.asid % 8192) g.lpb.ticket.toNat 8 = v ∧
    (klook s.lines (lineKey (gid / 65536 * 8192 + g.asid % 8192) g.lpb.ticket.toNat)).isSome = true := by
  intro v hv
  refine ⟨msHead [] v, 0, 0, 1, headG [], ?_⟩
  revert v; decide +kernel
def oneHeadFit (r : Option (Nat × Grid × Nat × Nat × Option Nat × List Resv)) (g : Grid) : Bool := match r with
  | some (1, h, 0, _, _, [_]) => decide (h = g)
  | _ => false
theorem oneHeadFit_some {r : Option (Nat × Grid × Nat × Nat × Option Nat × List Resv)} {g : Grid} (h : oneHeadFit r g = true) :
    ∃ c b x, r = some (1, g, 0, c, b, [x]) := by
  unfold oneHeadFit at h
  split at h
  · rw [decide_eq_true_eq] at h; subst h; exact ⟨_, _, _, rfl⟩
  · cases h
theorem witness_PlacementStartsTheTeam : ∃ (s : State) (pn die gid idx n cluster tid : Nat) (g : Grid) (block : Option Nat) (r : Resv),
    headFit s pn die = some (gid, g, idx, (cluster, block, [r])) ∧ s.grid gid = some g ∧ gid / 65536 = pn ∧
    createdTeams g idx = [n] ∧ g.lpb.mode = 0 ∧ 1 ≤ tid ∧ tid < 65536 ∧
    (takenKeys s pn).contains (pn * 65536 + tid) = false ∧ s.team (pn * 65536 + tid) = none ∧
    (∀ k, 1 ≤ k → k < tid → (s.team (pn * 65536 + k)).isSome = true ∨ (takenKeys s pn).contains (pn * 65536 + k) = true) := by
  obtain ⟨c, b, x, h⟩ := oneHeadFit_some (r := headFit (msHead [(0, 0)] 1) 0 0) (g := headG [(0, 0)]) (by decide +kernel)
  refine ⟨msHead [(0, 0)] 1, 0, 0, 1, 0, 0, c, 2, headG [(0, 0)], b, x, h, by decide +kernel, rfl, by decide +kernel, rfl, by decide, by decide, by decide +kernel,
    by decide +kernel, ?_⟩
  intro k h1 h2
  obtain rfl : k = 1 := by omega
  exact .inl (by decide +kernel)

def spentUser : Team := { user with paths := [] }
theorem witness_TeamRetires : ∃ (s : State) (tk : Nat) (u : Team) (c : Cohort), s.team tk = some u ∧ Team.spent s tk u = true ∧
    u.sup = false ∧ klook s.cohorts u.cid = some c ∧ c.teams = [tk] :=
  ⟨{ mach sup spentUser 0 with cohorts := [(0, cohort1 .resident)] }, 1, spentUser, cohort1 .resident, by decide +kernel⟩
theorem witness_SupervisorExits : ∃ (s : State) (pn : Nat) (u : Team), s.team (pn * 65536) = some u ∧
    Team.spent s (pn * 65536) u = true ∧ u.sup = true ∧ (∀ e ∈ s.grids, e.1 / 65536 ≠ pn) :=
  ⟨{ mach { sup with paths := [] } user 1 with grids := [] }, 0, { sup with paths := [] }, by decide +kernel⟩
theorem witness_GridRetires : ∃ (s : State) (gid : Nat) (g : Grid), s.grid gid = some g ∧ Grid.spent s gid g = true ∧ g.error = none ∧
    g.lpb.done.toNat % 8 = 0 ∧ s.waits = [] ∧
    (klook s.lines (lineKey (gid / 65536 * 8192 + g.asid % 8192) g.lpb.done.toNat)).isSome = true :=
  ⟨{ msDone with cohorts := [], teams := [(0, sup)] }, 1, doneGrid, by decide +kernel⟩

/-- Both counts at their limit of 1,024 clocks. -/
def countUser : Team := { user with wdcnt := 1024, fscnt := 1024 }
theorem witness_CountsExpire : ∀ i ∈ [Instr.watchdogExpiry 1, .faultStallExpiry 1], ∃ (s : State) (tk reg cause n : Nat) (u : Team) (c : Cohort),
    s.team tk = some u ∧ countRow u tk i = some (reg, cause, n) ∧ u.live = true ∧ u.sup = false ∧
    (∀ tr ∈ u.expired, tr.cause ≠ cause) ∧ (∀ d ∈ s.cmds, d.tk ≠ tk) ∧ klook s.cohorts u.cid = some c ∧ c.teams = [tk] ∧ ((s.part (pnumOf tk)).reg reg).toNat ≠ 0 ∧
    1024 * ((s.part (pnumOf tk)).reg reg).toNat ≤ n ∧ (s.part (pnumOf tk)).peuri.queue = [] ∧ hasSupervisor s (pnumOf tk) = true ∧
    (s.part (pnumOf tk)).reg64 0x09 = 0 ∧ (s.part (pnumOf tk)).heldRecs = [] := by
  intro i hi
  simp only [List.mem_cons, List.not_mem_nil, or_false] at hi
  rcases hi with rfl | rfl
  · exact ⟨regsOf [(0x10, 1), (0x11, 1)] { mach sup countUser 0 with cohorts := [(0, cohort1 .resident)] }, 1, 0x10, 0x1B, 1024, countUser,
      cohort1 .resident, by decide +kernel⟩
  · exact ⟨regsOf [(0x10, 1), (0x11, 1)] { mach sup countUser 0 with cohorts := [(0, cohort1 .resident)] }, 1, 0x11, 0x1C, 1024, countUser,
      cohort1 .resident, by decide +kernel⟩

def relaunchGrid (flags : BitVec 8) (done : Dword) : Grid := { loadedGrid with lpb := { loadedLpb with flags := flags, done := done }, retry := 2 }
def msErr (flags : BitVec 8) (done : Dword) : State :=
  { mach sup user 0 with grids := [(1, relaunchGrid flags done)], cohorts := [(0, cohort1 .resident)] }
theorem witness_UncorrectableErrors_relaunch : ∃ (s : State) (tk : Nat) (u : Team) (c : Cohort) (g : Grid), s.team tk = some u ∧
    u.sup = false ∧ klook s.cohorts u.cid = some c ∧ c.teams = [tk] ∧ s.grid u.gid = some g ∧ g.lpb.flags.getLsbD 0 = true ∧
    g.lpb.mode ≠ 2 ∧ g.retry < 3 ∧ noQueue (s.part (pnumOf tk)) := ⟨msErr 1 0, 1, user, cohort1 .resident, relaunchGrid 1 0, by unfold noQueue; decide +kernel⟩
theorem witness_UncorrectableErrors_end : ∃ (s : State) (tk : Nat) (u : Team) (c : Cohort) (g : Grid), s.team tk = some u ∧
    u.sup = false ∧ klook s.cohorts u.cid = some c ∧ c.teams = [tk] ∧ s.grid u.gid = some g ∧ g.lpb.flags.getLsbD 0 = false ∧
    noQueue (s.part (pnumOf tk)) ∧ (∀ e ∈ s.grids, e.2.parent ≠ some u.gid) ∧ g.depth ≤ 10 ∧ g.lpb.errec = 0 ∧ g.lpb.done.toNat % 8 = 0 ∧ s.waits = [] ∧
    (klook s.lines (lineKey (u.gid / 65536 * 8192 + g.asid % 8192) g.lpb.done.toNat)).isSome = true :=
  ⟨{ msErr 0 0x40000 with lines := [lineAt 0x40000 []] }, 1, user, cohort1 .resident, relaunchGrid 0 0x40000, by unfold noQueue; decide +kernel⟩

/-! ### Witnesses: queues, the host, the network -/

/-- A queue of partition 0 at 0x50000 with one entry, whose bytes are bs, and the counter 5 at 0x40000. -/
def queue0 (w : Option (Bool × Dword × Nat)) : Queue :=
  { Queue.reset with base := 0x50000, sizelog := 6, enable := true, tail := 64, head := 63, waiting := w }
def qEntry (op : Nat) (addr val : Nat) : List Byte := le 1 op ++ le 7 0 ++ le 8 addr ++ le 8 val ++ le 40 0
def msQ (bs : List Byte) : State :=
  withPart { ms with lines := [lineAt 0x40000 (le 8 5), lineAt 0x42000 (childLpb.take 128), lineAt 0x42080 (childLpb.drop 128),
    lineAt 0x50F80 (le 64 0 ++ bs)] } { loadedPart with queues := [(2, queue0 none)] }
def entryOk (s : State) (pn k : Nat) (q : Queue) (bs : List Byte) : Bool :=
  decide (k < 4) && decide ((s.part pn).queue k = q) && q.enable && (s.part pn).enable && decide (q.head ≠ q.tail) && q.waiting.isNone
    && okBytes (vread s (queueAgent s pn k) (q.base.toNat + 64 * (q.head.toNat % 2 ^ q.log)) 64) s bs
    && (List.range 64).all fun j => !(decide (1 ≤ j ∧ j < 8) || decide (24 ≤ j)) || byteAt bs j == 0
theorem entryOk_at {s : State} {pn k : Nat} {q : Queue} {bs : List Byte} (h : entryOk s pn k q bs = true) : EntryAt s pn k q bs := by
  unfold entryOk at h
  simp only [Bool.and_eq_true, decide_eq_true_eq, Option.isNone_iff_eq_none] at h
  obtain ⟨⟨⟨⟨⟨⟨⟨h1, h2⟩, h3⟩, h4⟩, h5⟩, h6⟩, h7⟩, h8⟩ := h
  refine ⟨h1, h2, ⟨h3, h4⟩, ⟨h5, h6⟩, ⟨s.dieCaches, okBytes_eq h7⟩, fun j hj => ?_⟩
  have := List.all_eq_true.mp h8 j (List.mem_range.mpr (by omega))
  rcases hj with hj | hj
  · simpa [hj] using this
  · simpa [hj.1] using this
theorem witness_QueueEntries_nop_and_bad : ∀ op ∈ [3, 4, 255], ∃ (s : State) (pn k : Nat) (q : Queue) (bs : List Byte),
    EntryAt s pn k q bs ∧ byteAt bs 0 = op := by
  intro op h
  refine ⟨msQ (qEntry op 0 0), 0, 2, queue0 none, qEntry op 0 0, entryOk_at ?_, ?_⟩ <;> revert op <;> decide +kernel
theorem witness_QueueEntries_signal : ∃ (s : State) (pn k : Nat) (q : Queue) (bs : List Byte) (addr : Dword), EntryAt s pn k q bs ∧
    byteAt bs 0 = 2 ∧ addr = dword (fieldAt bs 8 8) ∧ canonicalVa addr = true ∧ addr.toNat % 8 = 0 ∧ s.waits = [] ∧
    (klook s.lines (lineKey (queueAgent s pn k).gasid addr.toNat)).isSome = true :=
  ⟨msQ (qEntry 2 0x40000 9), 0, 2, queue0 none, qEntry 2 0x40000 9, 0x40000, entryOk_at (by decide +kernel), by decide +kernel⟩
/-- A wait for 5, which the counter has reached, and one for 6. -/
theorem witness_QueueEntries_wait : ∀ v ∈ [5, 6], ∃ (s : State) (pn k : Nat) (q : Queue) (bs : List Byte) (addr : Dword),
    EntryAt s pn k q bs ∧ byteAt bs 0 = 1 ∧ addr = dword (fieldAt bs 8 8) ∧ canonicalVa addr = true ∧ addr.toNat % 8 = 0 ∧
    s.waits.length < 16 ∧ (klook s.lines (lineKey (queueAgent s pn k).gasid addr.toNat)).isSome = true ∧ fieldAt bs 16 8 = v ∧
    s.cachedNat (queueAgent s pn k).gasid addr.toNat 8 = 5 := by
  intro v h
  refine ⟨msQ (qEntry 1 0x40000 v), 0, 2, queue0 none, qEntry 1 0x40000 v, 0x40000, entryOk_at ?_, ?_⟩ <;> revert v <;> decide +kernel
theorem witness_QueueEntries_reread : ∃ (s : State) (pn k : Nat) (q : Queue) (addr : Dword) (bound : Nat), (s.part pn).queue k = q ∧
    q.waiting = some (true, addr, bound) ∧ (s.part pn).enable = true ∧
    (klook s.lines (lineKey (queueAgent s pn k).gasid addr.toNat)).isSome = true ∧
    bound ≤ s.cachedNat (queueAgent s pn k).gasid addr.toNat 8 :=
  ⟨withPart (msQ []) { loadedPart with queues := [(2, queue0 (some (true, 0x40000, 5)))] }, 0, 2, queue0 (some (true, 0x40000, 5)),
    0x40000, 5, by decide +kernel⟩
theorem witness_QueueEntries_launch : ∃ (s : State) (pn k : Nat) (q : Queue) (bs blk : List Byte) (n : Nat) (addr : Dword),
    EntryAt s pn k q bs ∧ byteAt bs 0 = 0 ∧ addr = dword (fieldAt bs 8 8) ∧ canonicalVa addr = true ∧ addr.toNat % 64 = 0 ∧
    s.waits = [] ∧ (∀ j, j < 4 → (klook s.lines (lineKey (queueAgent s pn k).gasid (addr.toNat + 64 * j))).isSome = true) ∧
    vread s (queueAgent s pn k) addr.toNat 256 = .ok (s, blk) ∧ (lpbOf blk).valid = true ∧ (lpbOf blk).mode = 0 ∧
    1 ≤ n ∧ n < 65536 ∧ s.grid (pn * 65536 + n) = none ∧
    (∀ j, 1 ≤ j → j < n → (s.grid (pn * 65536 + j)).isSome = true) := by
  refine ⟨msQ (qEntry 0 0x42000 0), 0, 2, queue0 none, qEntry 0 0x42000 0, childLpb, 2, 0x42000, entryOk_at (by decide +kernel), by decide +kernel,
    by decide +kernel, by decide +kernel, by decide +kernel, by decide +kernel, by decide +kernel, okBytes_eq (by decide +kernel), by decide +kernel,
    by decide +kernel, by decide, by decide, by decide +kernel, fun j h1 h2 => ?_⟩
  obtain rfl : j = 1 := by omega
  decide +kernel

/-- The loaded machine with another host record. -/
def hst (f : HostRegs → HostRegs) : State := { ms with host := f ms.host }
def running (link : Bool) (n v : Nat) : State := hst fun h => { h with running := some (link, n, v) }
/-- A partition that is not listed takes no record, and a listed one as its entry says. -/
theorem catOff_all {s : State} (h : ∀ e ∈ s.parts, e.2.catOff = true) (pn : Nat) : (s.part pn).catOff = true := by
  unfold State.part dget
  cases hk : klook s.parts pn with
  | none => decide
  | some p => exact h _ (klook_mem hk)
/-- Partition 0 holds a clock lock at point 3. -/
def msLock : State := (hst fun h => { h with fallback := true, thermAt := some 0, alert := 1 }).modPart 0 fun p => p.setReg 0x7F 0x303
/-- Every row of the table of host events, and those that break the lock. -/
theorem witness_HostEventsComplete : ∀ e ∈ ([(ms, .pwrcapWrite 4095), (ms, .pscmdWrite 3 6),
    (msLock, .pscmdWrite 0 2), (msLock, .thermalAlert 0), ({ msLock with clock := 1050000 }, .thermalExamination), (msLock, .fallbackExit 0x10), (hst fun h => { h with fallback := true }, .pscmdWrite 0 2),
    (ms, .linkcmdWrite 14 3), (hst fun h => { h with pending := [(true, 4, 2)] }, .sequencerLinkApply),
    (hst fun h => { h with pending := [(false, 2, 5), (true, 4, 2)] }, .sequencerLinkApply),
    (hst fun h => { h with pending := [(false, 2, 5), (true, 4, 2)] }, .sequencerFrequencyApply),
    (hst fun h => { h with pending := [(false, 1, 5), (true, 4, 2)] }, .sequencerFrequencyApply),
    (hst fun h => { h with pending := [(false, 1, 5)] }, .sequencerFrequencyApply), (running true 4 3, .linkRetrainComplete),
    (running false 1 5, .clockChangeComplete), (ms, .thermalAlert 2),
    ({ hst (fun h => { h with thermAt := some 0, alert := 1, running := some (true, 4, 2) }) with clock := 1050000 }, .thermalExamination),
    ({ hst (fun h => { h with thermAt := some 0 }) with clock := 1050000 }, .thermalExamination),
    (hst fun h => { h with fallback := true }, .fallbackExit 0x04B00015), (ms, .fallbackExit 0x04B00015),
    ({ State.reset with host := { HostRegs.reset with stage := 2 } }, .hbmTrainingComplete 0 0),
    ({ State.reset with host := { HostRegs.reset with stage := 2, replace := true } }, .hbmTrainingComplete 1 2),
    ({ State.reset with host := { HostRegs.reset with stage := 2, hbmdone := true } }, .fullServiceEntry), (ms, .firmwareLoad),
    (hst fun h => { h with fwBusy := true }, .firmwareVerifyComplete), (ms, .retiredWrite 0x18 4096), (ms, .retiredWrite 0x1C 0),
    (ms, .registerWrite 0x10 0), (ms, .registerWrite 0x0C 0xFF), (ms, .hostLinkTraining 16 6), (ms, .allotWrite 0 1023),
    (ms, .queueDoorbell 7 3 9), (ms, .queueEnable 0 0 0x106), (ms, .queueDisable 0 0 6)] : List (State × Instr)),
    (hostRow e.1 e.2).isSome = true ∧ ∀ pn, (e.1.part pn).catOff = true := by
  intro e he
  have h : (hostRow e.1 e.2).isSome = true ∧ ∀ q ∈ e.1.parts, q.2.catOff = true := by revert e; decide +kernel
  exact ⟨h.1, catOff_all h.2⟩

/-- Registers answer, and with STAGE 15 only those of the module. -/
theorem witness_RegisterWrites : ms.host.stage ≠ 15 ∧ (∀ b, ((ms.modPart 3 fun p => { p with enable := b }).part 3).enable = b) ∧
    (hst fun h => { h with stage := 15 }).host.stage = 15 := by decide +kernel
theorem witness_StagedFirmware : ∃ (s : State) (n : Nat), s.host.fwBusy = true ∧ fieldAt (cellsRead s.staging 0 160) 0 4 = 0x57464B4A ∧
    fieldAt (cellsRead s.staging 0 160) 8 4 = n ∧ n ≤ 2096992 :=
  ⟨{ hst (fun h => { h with fwBusy := true }) with staging := cellsWrite [] 0 (le 4 0x57464B4A ++ le 4 1 ++ le 4 2096992) }, 2096992,
    by decide +kernel⟩
theorem witness_AttestationAnswers : ∀ i ∈ ([.spdmGetVersion, .spdmGetCapabilities, .spdmNegotiateAlgorithms [1], .spdmGetDigests,
    .spdmGetCertificate 0 0 64, .spdmChallenge 0 [7], .spdmGetMeasurements 3 [7], .spdmGetMeasurements 255 []] : List Instr),
    (attestationRow ms i).isSome = true := by
  intro i hi
  simp only [List.mem_cons, List.not_mem_nil, or_false] at hi
  rcases hi with rfl | rfl | rfl | rfl | rfl | rfl | rfl | rfl <;> rfl

/-- Port 2 up with one record at 0x8000: open, number 5, key 9, 64 bytes from 0x9000. -/
def qpRec : List Byte := le 4 1 ++ le 4 5 ++ le 36 0 ++ le 4 9 ++ le 8 0x9000 ++ le 8 64
def msNet : State := { ms with ports := [(2, { up := true, qpbase := 0x8000, qpcnt := 1 })], hbm := cellsWrite [] 0x8000 qpRec }
theorem witness_InboundRdma : (∃ (s : State) (port lqpn pa : Nat) (key : Word) (bs r : List Byte), inboundRecord s port lqpn key = some r ∧
    (dget Port.reset s.ports port).up = true ∧ fieldAt r 0x30 8 ≤ pa ∧ pa + bs.length ≤ fieldAt r 0x30 8 + fieldAt r 0x38 8) ∧
    (∃ (s : State) (port lqpn : Nat) (key : Word), inboundRecord s port lqpn key = none) ∧
    (∃ (s : State) (port lqpn pa : Nat) (key : Word) (bs : List Byte), ∀ r, inboundRecord s port lqpn key = some r →
      pa < fieldAt r 0x30 8 ∨ fieldAt r 0x30 8 + fieldAt r 0x38 8 < pa + bs.length) ∧
    ∃ (s : State) (port : Nat), (dget Port.reset s.ports port).up = false := by
  refine ⟨⟨msNet, 2, 5, 0x903C, 9, le 4 1, qpRec, by decide +kernel⟩, ⟨msNet, 2, 5, 8, by decide +kernel⟩, ⟨msNet, 2, 5, 0x903D, 9, le 4 1, ?_⟩,
    ms, 7, by decide +kernel⟩
  have h : inboundRecord msNet 2 5 9 = some qpRec := by decide +kernel
  intro r hr
  rw [h] at hr
  injection hr with hr
  subst hr
  decide +kernel
theorem witness_HostMemory : ∃ (s : State) (off len : Nat), off + len ≤ 2 ^ 39 ∧ off < 2 ^ 39 ∧ (s.host.stage = 2 ∨ s.host.stage = 3) ∧ s.waits = [] :=
  ⟨ms, 2 ^ 39 - 8, 8, by decide +kernel⟩
theorem witness_PortLinkChange : ∃ (s : State) (port : Nat) (up : Bool), port < 8 ∧ s.host.stage = 3 ∧
    (dget Port.reset s.ports port).up ≠ up ∧ ∀ c ∈ allCmds s, c.sendsOn port = false := ⟨ms, 7, true, by decide +kernel⟩

/-- Address space 0 of partition 0, whose page 4 (0x40000) is a striped 64 KiB page that may migrate, and page 5 the frame
pool with room for 4, whose first block lies at 0x73000 (17 R360, R361). -/
def pageHbm : List Host.Cell :=
  let m := cellsWrite [] 0x30000 (le 8 0x10000 ++ le 8 0x20000 ++ le 8 1)
  let m := cellsWrite m 0x10000 (le 8 0x11001)
  let m := cellsWrite m 0x11000 (le 8 0x12001)
  let m := cellsWrite m 0x12000 (le 8 0x13001)
  let m := cellsWrite m 0x13020 (le 8 0x60217 ++ le 8 0x70017)
  cellsWrite m 0x73000 (le 8 0x0000000400000000)
def msPage (run : Option (Dword × Dword × Nat)) : State :=
  withPart { ms with hbm := pageHbm }
    { partRegs [(0x20, 0x30000), (0x22, 1), (0x2C, 0x50000)] with migVa := 0x40000, migDst := 0x90057, migRun := run }
theorem witness_MigrationRequest : (∃ (s : State) (pn : Nat) (val : Word), pn < 8 ∧ s.host.stage ≠ 15 ∧ (s.part pn).migRun = none ∧
      (pushLeaf s pn (s.part pn).migVa (s.part pn).migDst (val.toNat % 8192)).isSome = true) ∧
    ∃ (s : State) (pn : Nat) (val : Word), pn < 8 ∧ s.host.stage ≠ 15 ∧ (s.part pn).migRun = none ∧
      (pushLeaf s pn (s.part pn).migVa (s.part pn).migDst (val.toNat % 8192)).isSome = false :=
  ⟨⟨msPage none, 0, 0, by decide +kernel⟩, msPage none, 0, 1, by decide +kernel⟩
theorem witness_MigrationRefused : ∃ (s : State) (pn asid : Nat) (va dst : Dword), (s.part pn).migRun = some (va, dst, asid) ∧
    pushLeaf s pn va dst asid = none := ⟨msPage (some (0x50000, 0x90057, 1)), 0, 1, 0x50000, 0x90057, by decide +kernel⟩
/-- The pool takes a frame, as a test that evaluates. -/
def poolTakes (s : State) (pn f : Nat) : Bool := match returnFrame s pn f with
  | .ok (_, b) => b
  | .error _ => false
theorem movePage_some {s : State} {pn : Nat} {lf : Leaf} (va dst : Dword) (asid : Nat) (h : poolTakes s pn (pteFrame lf.pte) = true) :
    ∃ s1, movePage s pn lf va dst asid = some s1 := by
  unfold poolTakes at h
  unfold movePage
  split at h
  · rename_i t b hr
    subst h
    rw [hr]
    exact ⟨_, rfl⟩
  · cases h
theorem witness_MigrationMoves : ∃ (s s1 : State) (pn asid : Nat) (va dst : Dword) (lf : Leaf),
    (s.part pn).migRun = some (va, dst, asid) ∧ pushLeaf s pn va dst asid = some lf ∧
    moveSettles s (pn * 8192 + asid) (va.toNat / 65536) = false ∧ movePage s pn lf va dst asid = some s1 := by
  have h1 : (pushLeaf (msPage (some (0x40000, 0x90057, 0))) 0 0x40000 0x90057 0).isSome = true := by decide +kernel
  obtain ⟨lf, hl⟩ := Option.isSome_iff_exists.mp h1
  have h2 : ((pushLeaf (msPage (some (0x40000, 0x90057, 0))) 0 0x40000 0x90057 0).any fun l =>
      poolTakes (msPage (some (0x40000, 0x90057, 0))) 0 (pteFrame l.pte)) = true := by decide +kernel
  rw [hl, Option.any_some] at h2
  obtain ⟨s1, hs⟩ := movePage_some 0x40000 0x90057 0 h2
  exact ⟨msPage (some (0x40000, 0x90057, 0)), s1, 0, 0, 0x40000, 0x90057, lf, by decide +kernel, hl, by decide +kernel, hs⟩
theorem witness_MoveRecordExpires : ∃ (s : State) (k : Nat) (r : MoveRec), s.moves[k]? = some r ∧ r.t0 + 10500000 ≤ s.clock ∧ r.n < 3 :=
  ⟨{ ms with moves := [{ die := 0, gasid := 0, page := 4, n := 2, t0 := 0 }], clock := 10500000 }, 0,
    { die := 0, gasid := 0, page := 4, n := 2, t0 := 0 }, by decide +kernel⟩

/-- A supervisor's block at physical address 0x1000, the partition's entry not enabled or enabled. -/
def supLpb : List Byte := le 8 0x20000 ++ le 2 32 ++ le 6 0x000001010101 ++ le 16 0 ++ le 12 0x000000010000000100000001
def msPart (on : Bool) : State :=
  { State.reset with
    host := { HostRegs.reset with stage := 2 }, hbm := cellsWrite [] 0x1000 supLpb,
    parts := [(0, { Part.reset with halves := 3, rings := 4, svlpb := 0x1000, enable := on })] }
theorem witness_PartitionsStart : ∀ e ∈ ([(.partitionEnable 0, false), (.partitionReset 0, true)] : List (Instr × Bool)),
    ∃ (s : State) (pn : Nat), pn < 8 ∧ s.host.stage ≠ 15 ∧ (s.part pn).enable = e.2 ∧ enableRefused s pn = false ∧ s.waits = [] ∧
    (∀ q ∈ s.teams, q.1 / 65536 ≠ pn) ∧ (lpbOf (physRead s 0 (s.part pn).svlpb.toNat 256)).supervisorOk = true ∧
    s.host.stage = 2 ∧ ∀ k, k < 256 → flatByte ((s.part pn).svlpb.toNat + k) := by
  intro e he
  refine ⟨msPart e.2, 0, ?_⟩
  unfold flatByte
  simp only [List.mem_cons, List.not_mem_nil, or_false] at he
  rcases he with rfl | rfl <;> decide +kernel
theorem witness_PartitionsEnd : ∃ (s : State) (pn : Nat), pn < 8 ∧ s.host.stage ≠ 15 ∧ (s.part pn).enable = true :=
  ⟨ms, 0, by decide +kernel⟩

/-! ### Witnesses: the whole machine -/

/-- The reset machine with movi v8, 5 (0x00508729) placed; the issuer that the next step chooses. -/
noncomputable def placed : State := State.reset.withFetchWord 32 0x00508729
def moviF : LI := { h := H0, d := 8, i := 5 }
/-- Bytes that decode to an instruction, with nothing left, as a test that evaluates. -/
noncomputable def decodesTo (bs : List Byte) (i : Instr) : Bool := match decode bs with
  | .ok (j, []) => decide (j = i)
  | _ => false
theorem decodesTo_eq {bs : List Byte} {i : Instr} (h : decodesTo bs i = true) : decode bs = .ok (i, []) := by
  unfold decodesTo at h
  split at h
  · rename_i j hd; rw [decide_eq_true_eq] at h; rw [hd, h]
  · cases h
def chosen (r : State × Option Issuer) : Option (State × Issuer) := r.2.map fun x => (r.1, x)
theorem chosen_eq {r : State × Option Issuer} {s : State} {x : Issuer} (h : chosen r = some (s, x)) : r = (s, some x) := by
  obtain ⟨a, b⟩ := r
  cases b with
  | none => cases h
  | some y => simp [chosen] at h; rw [h.1, h.2]
theorem witness_StepRunsTheDecodedInstruction : ∃ (s s1 : State) (core tk : Nat) (rest : List Move) (x : Issuer) (i : Instr) (bs : List Byte),
    s.agenda = .issue core :: rest ∧ coreChoice { s.tick with agenda := rest } (readyTeams { s.tick with agenda := rest }) core = some tk ∧
    chooseIssuer { s.tick with agenda := rest } tk = (s1, some x) ∧ bpHit s1 x = none ∧
    decode bs = .ok (i, []) ∧ WellFormed i = true ∧
    (∀ k, k < bs.length → icacheByte s1 x.t.core (x.agent s1).gasid (x.path.pc + BitVec.ofNat 64 k).toNat = bs[k]?) ∧
    x.path.pc.toNat % 2 = 0 ∧ (i.privileged = true → x.t.sup = true) ∧ regsFit x.t i = true ∧
    earlyUnassigned s1 (leNat bs) = false ∧ lacksToken x i = false := by
  have h : (chosen (chooseIssuer { placed.tick with agenda := [] } 1)).any (fun (e : State × Issuer) =>
      decide (bpHit e.1 e.2 = none) && ((List.range 4).all fun k => decide
        (icacheByte e.1 e.2.t.core (e.2.agent e.1).gasid (e.2.path.pc + BitVec.ofNat 64 k).toNat = (le 4 0x00508729)[k]?))
      && decide (e.2.path.pc.toNat % 2 = 0) && regsFit e.2.t (.movi moviF) && !earlyUnassigned e.1 (leNat (le 4 0x00508729))
      && !lacksToken e.2 (.movi moviF)) = true := by decide +kernel
  rw [Option.any_eq_true] at h
  obtain ⟨⟨s1, x⟩, he, hc⟩ := h
  simp only [Bool.and_eq_true, decide_eq_true_eq, Bool.not_eq_true'] at hc
  exact ⟨placed, s1, 1, 1, [], x, .movi moviF, le 4 0x00508729, by decide +kernel, by decide +kernel, chosen_eq he, hc.1.1.1.1.1, decodesTo_eq (by decide +kernel),
    by decide +kernel,
    fun k hk => by simpa using List.all_eq_true.mp hc.1.1.1.1.2 k (List.mem_range.mpr hk), hc.1.1.1.2, fun hp => absurd hp (by decide +kernel), hc.1.1.2, hc.1.2, hc.2⟩

theorem witness_DecodeInvertsEncode : ∃ i : Instr, WellFormed i = true := ⟨.movi moviF, by decide +kernel⟩
theorem witness_EncodeInvertsDecode : ∃ (bs rest : List Byte) (i : Instr), decode bs = .ok (i, rest) :=
  ⟨le 4 0x00508729, [], .movi moviF, decodesTo_eq (by decide +kernel)⟩
/-- A step from a state with canonical memory that answers a next state: time passes. -/
theorem witness_EveryStepKeepsMemoryCanonical : ∃ s t : State, s.memWf = true ∧ step s = .next t :=
  ⟨{ State.reset with agenda := [.idle] }, { { State.reset with agenda := [.idle] }.tick with agenda := [] }, by decide, rfl⟩
theorem witness_FixedRegistersHold : ∃ (f : LI) (g : CL) (c : PC) (s : State) (x : Issuer), s.issuer = some x ∧ f.d = 0 ∧ g.w = 0 ∧
    c.pd = 7 ∧ c.cc.toNat < 6 :=
  ⟨{ h := H0, d := 0, i := 1 }, { h := H0, off := 2, w := 0 }, { h := H0, cc := 0, pd := 7, a := 1, b := 2 }, ms, mx, ms_issuer, by decide⟩
/-- The check is off, not yet due, due. -/
theorem witness_SvlimGuardsTheSupervisor : ∀ e ∈ [(0, 0), (1, 1023), (1, 1024)], ∃ (s : State) (pn : Nat), hasSupervisor s pn = true ∧
    ((s.part pn).reg 0x12).toNat = e.1 ∧ s.clock = e.2 ∧ (s.part pn).wdogAt = 0 := by
  intro e he
  refine ⟨{ regsOf [(0x12, BitVec.ofNat 32 e.1)] ms with clock := e.2 }, 0, ?_⟩
  revert e; decide +kernel
theorem witness_FallbackHoldsBackTheCommands : ∃ s : State, s.host.fallback = true ∧ s.host.stage ≠ 15 ∧ ((s.part 0).reg 0x7F).getLsbD 9 = true ∧
    ∀ pn, (s.part pn).catOff = true := ⟨msLock, by decide +kernel, by decide +kernel, by decide +kernel, catOff_all (by decide +kernel)⟩

/-! ### Single steps: results worked out by hand from the rules -/

/-- The user team after one instruction of its path. -/
def ran (i : Instr) (s : State) : Option Team := match exec i s with
  | .next t => t.team 1
  | _ => none
/-- The next state of an instruction or event. -/
def nextOf (i : Instr) (s : State) : Option State := match exec i s with
  | .next t => some t
  | _ => none
/-- A user team with words in lane 0 of v1, v2, v3. -/
def lane0 (a b c : Word) : Team := { user with v := [(1024, a), (2048, b), (3072, c)].filter fun e => e.2 ≠ 0 }
/-- Lane 0 of v4 after an instruction of that team. -/
def v4 (i : Instr) (a b c : Word) : Option Word := (ran i (mach sup (lane0 a b c) 1)).map fun t => t.vr 4 0

def rr : RR := { h := H0, d := 4, a := 1, b := 2 }
def un : UN := { h := H0, d := 4, a := 1 }

/-- iadd wraps; a signed high product; the low product wraps (05 R127, R131). -/
theorem test_iadd_wraps : v4 (.iadd rr) 0xFFFFFFFF 2 0 = some 1 := by decide +kernel
theorem test_mulhi_signed : v4 (.mulhiS rr) 0xFFFFFFFF 2 0 = some 0xFFFFFFFF ∧ v4 (.mulhiN rr) 0xFFFFFFFF 2 0 = some 1 := by decide +kernel
/-- Full amounts (05 R128). -/
theorem test_shifts_of_32_and_more : v4 (.ishl rr) 1 32 0 = some 0 ∧ v4 (.isar rr) 0x80000000 40 0 = some 0xFFFFFFFF ∧
    v4 (.irot rr) 0x80000001 33 0 = some 3 := by decide +kernel
/-- The examples of 05 R129. -/
theorem test_bfe_examples : v4 (.bfeN rr) 0x12345678 0x0804 0 = some 0x67 ∧ v4 (.bfeN rr) 0x12345678 0x101C 0 = some 1 ∧
    v4 (.bfeS rr) 0x12345678 0x101C 0 = some 1 := by decide +kernel
/-- The corners of 05 R133. -/
theorem test_unary_corners : v4 (.ineg un) 0x80000000 0 0 = some 0x80000000 ∧ v4 (.iabs un) 0x80000000 0 0 = some 0x80000000 ∧
    v4 (.clz un) 0 0 0 = some 32 ∧ v4 (.brev un) 1 0 0 = some 0x80000000 := by decide +kernel
/-- Lanes whose predicate is false keep their register: p1 holds in lanes 0 and 1 of four. -/
theorem test_false_lanes_keep : (ran (.movi { h := { H0 with p := 1 }, d := 8, i := 7 }) (mach sup { user with p := [(1, 3)], v := [(8194, 9)] } 1)).map
    (fun t => [t.vr 8 0, t.vr 8 1, t.vr 8 2, t.vr 8 3]) = some [7, 7, 9, 0] := by decide +kernel

/-- 1 + 1 = 2; the largest finite number plus itself overflows to infinity with OF and NX (04 R108, R109, R114). -/
theorem test_fadd : v4 (.faddF32 rr) 0x3F800000 0x3F800000 0 = some 0x40000000 ∧
    (ran (.faddF32 rr) (mach sup (lane0 0x7F7FFFFF 0x7F7FFFFF 0) 1)).map (fun t => (t.vr 4 0, t.fst)) = some (0x7F800000, 0x14) := by
  decide +kernel
/-- ffma rounds once: (1 + 2^-23)^2 - (1 + 2^-22) = 2^-46 exactly. -/
theorem test_ffma_single_rounding : (ran (.ffmaF32 { rr with b := 1 }) (mach sup { lane0 0x3F800001 0 0 with v := [(1024, 0x3F800001), (4096, 0xBF800002)] } 1)).map
    (fun t => (t.vr 4 0, t.fst)) = some (0x28800000, 0) := by decide +kernel
/-- cvt.s32.f32 toward zero of -1.5 is -1, inexact, and the register keeps its value until the result returns (06 R164, 02 R53). -/
theorem test_cvt_toward_zero : (ran (.cvtS32F32 { h := H0, rnd := 2, d := 4, a := 1 }) (mach sup { lane0 0xBFC00000 0 0 with paths := [(0, { path0 with mask := 1 })] } 1)).map
    (fun t => (t.vr 4 0, t.long.map fun r => (r.writes, r.flags))) = some (0, [([.v 4 0 0xFFFFFFFF], 0x10)]) := by decide +kernel

/-- A store and a load of four bytes are little-endian, and the line alone changes (07 R174, R179). -/
theorem test_store_is_little_endian :
    (nextOf (.stG { h := { H0 with p := 1 }, sz := 4, zb := 1, i := 8, d := 1 })
      { mach sup { lane0 0x01020304 0 0 with s := [(2, 0x40000)], p := [(1, 1)] } 1 with lines := [lineAt 0x40000 (List.replicate 8 0xFF)] }).map
      (fun s => (s.cachedNat 0 0x40000 8, s.physByte 0 0x40000)) = some (0xFFFFFFFF01020304, [0]) := by decide +kernel
/-- Lanes that name one word add in order, each with the value before its own (07 R185): 5, then 5 + 3. -/
theorem test_atomics_in_lane_order :
    (nextOf (.atomAdd { h := { H0 with p := 1 }, os := 4, a := 4, d := 10 })
      { mach sup { user with v := [(4096, 0x40000), (4097, 0x40000), (10240, 3), (10241, 4)], p := [(1, 3)] } 1 with lines := [lineAt 0x40000 [5]] }).map
      (fun s => (s.cachedNat 0 0x40000 4, (s.team 1).map fun t => t.long.map LongRes.writes)) =
        some (12, some [[.v 10 0 5, .v 10 1 8]]) := by decide +kernel

/-- A lane branch on p1 splits: lanes 2 and 3 fall through at PC + 4 and keep index 0, lanes 0 and 1 at the higher target take
index 1 (02 R45). -/
theorem test_branch_splits : (ran (.bra { h := { H0 with p := 1 }, off := 16 }) (mach sup { user with p := [(1, 3)] } 1)).map
    (fun t => t.paths.map fun e => (e.1, e.2.pc, e.2.mask)) = some [(0, 0x10004, 0xC), (1, 0x10020, 3)] := by decide +kernel
/-- A load from a line with a bad byte is noted for the ending of its cohort, and a store over the byte makes it good (20 R421). -/
theorem test_bad_bytes : (nextOf (.ldG { h := { H0 with p := 1 }, sz := 4, zb := 1, i := 8, d := 10 })
      { mach sup { user with s := [(2, 0x40000)], p := [(1, 1)] } 1 with lines := [badLine 0x40000] }).map State.badReads = some [(1, 0x40000)] ∧
    (nextOf (.stG { h := { H0 with p := 1 }, sz := 4, zb := 1, i := 8, d := 1 })
      { mach sup { user with s := [(2, 0x40000)], p := [(1, 1)] } 1 with lines := [badLine 0x40000] }).map
        (fun t => (t.badReads, t.lines.map fun l => l.2.bad)) = some ([], [0]) := by decide +kernel
/-- The L1 of cluster 3 takes a copy of a cached line once; no gateway of another die has a line that is homed on die 1 and asked
for from there (01 R12, R15). -/
theorem test_copies : (keepCopy (keepCopy (keepCopy msMem (.l1 3) 2048) (.l1 3) 2048) (.gateway 0 2) 2048).copies = [(Cache.l1 3, 2048)] ∧
    (lineAt 0x40000 []).1 = 2048 := by decide +kernel
/-- Sixteen lines at a stride of 2,176 bytes from a 32 KiB-aligned base share a slice; at a stride of 128 bytes or of 32 KiB they
spread over all sixteen (16 R351). -/
theorem test_slices : ((List.range 16).all fun k => sliceOf (0x8000 / 128 + k * (2176 / 128)) == sliceOf (0x8000 / 128)) = true ∧
    (∀ k, k < 16 → sliceOf k = k ∧ sliceOf (k * (32768 / 128)) = k) := by decide +kernel
/-- QWAYS 0x86 in a partition of one half gives class 0 the ways 0 to 5 and class 1 the ways 6 to 9, and leaves 10 and 11 to all;
25 ways ask for all 24 (16 R352, R355). -/
theorem test_way_shares : ((List.range 4).map (classWays (({ Part.reset with halves := 1 }).ways 0) 0x86), commonWays (List.range 12) 0x86) =
    ([[0, 1, 2, 3, 4, 5], [6, 7, 8, 9], [], []], [10, 11]) ∧ wayShare 25 0 = 24 ∧ (Part.ways { Part.reset with halves := 12 } 1).length = 24 := by
  decide +kernel
/-- QTAIL is an action field: the doorbell's value is kept and reads 0 (00 R3, 16 R340). -/
theorem test_qtail_reads_zero : (nextOf (.queueDoorbell 0 1 5) { ms with host := { ms.host with stage := 3 } }).map
    (fun t => (((t.part 0).queue 1).tail, readBar t 0x10030)) = some (5, 0) := by decide +kernel
/-- cvt to an unsigned integer under the stochastic mode: -2^-33 lies above the largest magnitude of its sign, 0, and sets NX
(04 R107). -/
theorem test_stochastic_above : (roundInt { signed := false, w := 32 } { mode := 5, u := 0 } false true 1 (-33)).2 = NX := by decide +kernel
/-- exit of every lane removes the path (02 R48). -/
theorem test_exit : (ran (.exit H0) ms).map Team.paths = some [] := by decide +kernel

/-- A misaligned load of lane 1 traps with cause 0x08 at its address, and no lane is loaded (07 R174, 18 R382). -/
theorem test_misaligned_load_traps : (ran (.ldG { h := H0, sz := 4, zb := 1, i := 8, d := 10 })
    { mach sup { user with s := [(2, 0x40000)], v := [(8193, 2)] } 1 with lines := [lineAt 0x40000 [5]] }).map
      (fun t => (t.long, (t.path 0).bind fun p => p.trap.map fun r => (r.cause, r.addr, r.pc, r.mask))) =
        some ([], some (0x08, 0x40002, 0x10000, 2)) := by decide +kernel
/-- A privileged instruction in a user team is cause 0x02 (15 R322). -/
theorem test_user_tret_traps : (ran (.tret H0) ms).map (fun t => (t.path 0).bind fun p => p.trap.map Trap.cause) = some (some 0x02) := by
  decide +kernel
/-- A trap of the supervisor, here of tret outside a handler, enters TVEC with EPC, ECAUSE and INH (15 R321, R336). -/
theorem test_supervisor_trap : (nextOf (.tret H0) (sv [(2, 0x8000)])).map
    (fun s => ((s.team 0).map fun t => t.paths.map fun e => e.2.pc, (s.part 0).reg 0x01, (s.part 0).reg 0x04, (s.part 0).reg 0x06)) =
      some (some [0x8000], 1, 0x10000, 0x101) := by decide +kernel
/-- tret returns to EPC and clears INH (15 R321). -/
theorem test_tret : (nextOf (.tret H0) (sv [(1, 1), (4, 0x2000)])).map
    (fun s => ((s.team 0).map fun t => t.paths.map fun e => e.2.pc, (s.part 0).reg 0x01)) = some (some [0x2000], 0) := by decide +kernel

/-- tret with the switch marker parks its path at EPC while a result is outstanding (02 R54, 15 R336). -/
def awaited : LongRes := { op := none, owners := [0], writes := [.v 4 1 7], flags := 0 }
theorem test_marked_tret : (nextOf (.tret { H0 with s := true })
    (withPart (mach { svTeam with long := [awaited] } user 0) (partRegs [(1, 1), (4, 0x2000)]))).map
      (fun s => (s.team 0).map fun t => t.paths.map fun e => (e.2.pc, e.2.st)) = some (some [(0x2000, .parked)]) := by decide +kernel
/-- A trap with the switch marker keeps it, and PRES parks the path at PC + 4 while a result is outstanding (02 R54, 05 R142). -/
theorem test_marked_trap : (ran (.trap { h := { H0 with s := true }, i := 9 }) ms).map
      (fun t => (t.path 0).map fun p => (p.pc, p.st, p.mark)) = some (some (0x10000, .faulted, true)) ∧
    (ran (.presContinue 0 1) (mach sup { withPath { trapped with mark := true } with long := [awaited] } 1)).map
      (fun t => (t.path 0).map fun p => (p.pc, p.st, p.mark)) = some (some (0x10004, .parked, false)) := by decide +kernel

/-- A step runs the word that withFetchWord places, as the first instruction after reset: movi v8, 5 in every lane. -/
theorem test_first_instruction_after_reset :
    (match step placed with
     | .next t => (t.team 1).map fun u => ((u.path 0).map Path.pc, u.vr 8 0, u.vr 8 31)
     | _ => none) = some (some 0x10004, 5, 5) := by decide +kernel
/-- The decoder reads the table's word (host's question), and refuses a word that no row has. -/
theorem test_decodeTableWord : decodeTableWord 32 0x00508729 = some (.movi moviF) ∧ decodeTableWord 32 0x00000759 = none := by decide +kernel

end Sys2Proof.Tests
end

/-! Proofs about the fixed registers s0, z0, p7 and q3 (03 R68). -/
namespace Sys2Proof.Machine

/-! ### What the fixed registers read -/

@[simp] theorem Team.sr_zero (t : Team) : t.sr 0 = 0 := rfl
@[simp] theorem Team.zr_zero (t : Team) : t.zr 0 = 0 := rfl
@[simp] theorem Team.pr_seven (t : Team) (l : Nat) : t.pr 7 l = true := rfl
@[simp] theorem Team.qr_three (t : Team) : t.qr 3 = true := rfl

/-! ### Writes to them -/

/-- The write names s0, p7 or q3. -/
def RegWrite.toFixed : RegWrite → Prop
  | .v _ _ _ => False
  | .p k _ _ => k = 7
  | .s r _ => r = 0
  | .q k _ => k = 3

/-- A write to a fixed register is discarded. -/
theorem Team.write_toFixed (t : Team) {w : RegWrite} (h : w.toFixed) : t.write w = t := by
  cases w with
  | v r l x => exact h.elim
  | p k l x => exact if_pos h
  | s r x => exact if_pos h
  | q k x => exact if_pos h

/-- Writes that all go to fixed registers are discarded. -/
theorem Team.writes_toFixed (t : Team) {ws : List RegWrite} (h : ∀ w ∈ ws, w.toFixed) : t.writes ws = t := by
  induction ws with
  | nil => rfl
  | cons w rest ih =>
    obtain ⟨hw, hrest⟩ := List.forall_mem_cons.mp h
    rw [Team.writes_cons, Team.write_toFixed t hw, ih hrest]

/-- A write to z0 makes no register write at all: s1, the upper half of its pair, keeps its word. -/
@[simp] theorem zWrites_zero (x : Dword) : zWrites 0 x = [] := rfl

/-! ### Short instructions whose every write is discarded -/

/-- The instruction completes and changes its path's place alone. -/
def OnlyMovesOn (o : Out) (s : State) (x : Issuer) (mark : Bool) : Prop :=
  ∃ t t', o = .next t ∧ OnlyTeam s x.tk t t' ∧ t' = { x.t with paths := t'.paths } ∧ Moved x 4 mark t'

section
variable {s : State} {x : Issuer}

/-- A short instruction without flags whose writes all go to fixed registers only moves on. -/
theorem shortOp_onlyMovesOn (hx : s.issuer = some x) (h : Hdr) (f : Issuer → List RegWrite × Word)
    (hws : ∀ w ∈ (f x).1, w.toFixed) (hflags : (f x).2 = 0) : OnlyMovesOn (shortOp s h 4 f) s x h.s := by
  have hsame : (x.t.writes (f x).1).orFst (f x).2 = x.t := by
    rw [hflags, Team.orFst_zero, Team.writes_toFixed x.t hws]
  have hc := completed_of hx 4 h.s (fun t => (t.writes (f x).1).orFst (f x).2) (by simp only [hsame])
  simp only [hsame] at hc
  refine ⟨_, _, ?_, hc.toOnlyTeam, Team.pass_rest x.t x.pi 4 h.s, hc.moved⟩
  simp only [shortOp, withIssuer, hx]

/-- A short uniform instruction whose writes all go to fixed registers only moves on, whether it acts or not. -/
theorem uniShort_onlyMovesOn (hx : s.issuer = some x) (h : Hdr) (ws : Team → List RegWrite)
    (hws : ∀ w ∈ ws x.t, w.toFixed) : OnlyMovesOn (uniShort s h ws) s x h.s := by
  refine shortOp_onlyMovesOn hx h _ (fun w hw => ?_) rfl
  split at hw
  · exact hws w hw
  · cases hw

/-- A short lane instruction whose writes all go to fixed registers only moves on, whichever lanes act. -/
theorem laneShort_onlyMovesOn (hx : s.issuer = some x) (h : Hdr) (ws : Team → Nat → List RegWrite)
    (hws : ∀ l, ∀ w ∈ ws x.t l, w.toFixed) : OnlyMovesOn (laneShort s h 4 ws) s x h.s := by
  refine shortOp_onlyMovesOn hx h _ (fun w hw => ?_) rfl
  obtain ⟨l, -, hw⟩ := List.mem_flatMap.mp hw
  exact hws l w hw

/-! ### The instructions of the statement -/

theorem exec_moviUniform (f : LI) (s : State) : exec (.moviUniform f) s = execMoviUniform f s := rfl
theorem exec_adr (g : CL) (s : State) : exec (.adr g) s = execAdr g s := rfl
theorem exec_setp (f : PC) (s : State) : exec (.setp f) s = execSetp f s := rfl

/-- movi to s0 (03 R74). -/
theorem moviUniform_s0_onlyMovesOn (hx : s.issuer = some x) (f : LI) (hd : f.d = 0) :
    OnlyMovesOn (exec (.moviUniform f) s) s x f.h.s := by
  rw [exec_moviUniform]
  refine uniShort_onlyMovesOn hx f.h _ fun w hw => ?_
  rw [List.mem_singleton.mp hw, hd]
  rfl

/-- adr to z0 (05 R140): it makes no write, acting or not. -/
theorem adr_z0_onlyMovesOn (hx : s.issuer = some x) (g : CL) (hw : g.w = 0) :
    OnlyMovesOn (exec (.adr g) s) s x g.h.s := by
  rw [exec_adr]
  refine shortOp_onlyMovesOn hx g.h _ ?_ rfl
  simp [hw]

/-- setp to p7 (05 R136), with any condition code. -/
theorem setp_p7_onlyMovesOn (hx : s.issuer = some x) (f : PC) (hpd : f.pd = 7) :
    OnlyMovesOn (exec (.setp f) s) s x f.h.s := by
  rw [exec_setp]
  refine laneShort_onlyMovesOn hx f.h _ fun l w hw => ?_
  rw [List.mem_singleton.mp hw, hpd]
  rfl

end

/-- Settles O58: reads and writes by the rules of the fixed registers, and each instruction as a short one whose writes
are all discarded. -/
theorem fixedRegistersHold : Obligations.FixedRegistersHold := by
  refine ⟨fun t => ⟨t.sr_zero, t.zr_zero, t.pr_seven, t.qr_three⟩, fun t x b l => ⟨?s0, ?p7, ?q3, ?s1⟩, ?z0, ?_, ?_⟩
  case s0 => exact t.write_toFixed rfl
  case p7 => exact t.write_toFixed rfl
  case q3 => exact t.write_toFixed rfl
  case s1 => simp [Team.sr_write_s]
  case z0 => intro t x; rw [zWrites_zero, Team.writes_nil]
  · intro f g s x hx hd hw
    exact ⟨moviUniform_s0_onlyMovesOn hx f hd, adr_z0_onlyMovesOn hx g hw⟩
  · intro f s x hx hpd _
    exact setp_p7_onlyMovesOn hx f hpd

end Sys2Proof.Machine

/-! Proofs about the short integer and logic instructions of the lanes (03 R62, 05 R127-R133). -/
namespace Sys2Proof.Machine

/-! ### The model's word operations are those of the rules -/

theorem add_eq_word (a b : Word) : a + b = word (a.toNat + b.toNat) := by
  simp [word, BitVec.ofNat_add]

theorem mul_eq_word (a b : Word) : a * b = word (a.toNat * b.toNat) := by
  simp [word, BitVec.ofNat_mul]

theorem mul_add_eq_word (a b d : Word) : a * b + d = word (a.toNat * b.toNat + d.toNat) := by
  simp [word, BitVec.ofNat_add, BitVec.ofNat_mul]

theorem add_eq_dword (a b : Dword) : a + b = dword (a.toNat + b.toNat) := by
  simp [dword, BitVec.ofNat_add]

theorem sub_eq_ofInt {n : Nat} (a b : BitVec n) : a - b = BitVec.ofInt n (a.toInt - b.toInt) := by
  apply BitVec.eq_of_toInt_eq
  rw [BitVec.toInt_sub, BitVec.toInt_ofInt]

theorem zero_sub_eq_ofInt {n : Nat} (a : BitVec n) : 0 - a = BitVec.ofInt n (-a.toInt) := by
  rw [BitVec.ofInt_neg, BitVec.ofInt_toInt]
  exact BitVec.zero_sub a

theorem add_signExtend_eq_ofInt {n : Nat} (a : Word) (i : BitVec n) :
    a + i.signExtend 32 = BitVec.ofInt 32 (a.toInt + i.toInt) := by
  rw [BitVec.ofInt_add, BitVec.ofInt_toInt]
  rfl

theorem not_eq_word (a : Word) : ~~~a = word (2 ^ 32 - 1 - a.toNat) := by
  apply BitVec.eq_of_toNat_eq
  simp only [word, BitVec.toNat_not, BitVec.toNat_ofNat]
  omega

theorem and_low_eq_word (a : Word) {k : Nat} (hk : k ≤ 32) : a &&& word (2 ^ k - 1) = word (a.toNat % 2 ^ k) := by
  have hpow : 2 ^ k ≤ 2 ^ 32 := Nat.pow_le_pow_right (by decide) hk
  have hmod : a.toNat % 2 ^ k < 2 ^ 32 := Nat.lt_of_le_of_lt (Nat.mod_le ..) a.isLt
  apply BitVec.eq_of_toNat_eq
  rw [BitVec.toNat_and, word, word, BitVec.toNat_ofNat, BitVec.toNat_ofNat, Nat.mod_eq_of_lt (by omega),
    Nat.and_two_pow_sub_one_eq_mod, Nat.mod_eq_of_lt hmod]

theorem abs_eq_word (a : Word) : (if a.toInt < 0 then 0 - a else a) = word a.toInt.natAbs := by
  rw [word, ← BitVec.ofInt_natCast]
  split
  case isTrue h => rw [Int.ofNat_natAbs_of_nonpos (Int.le_of_lt h), zero_sub_eq_ofInt]
  case isFalse h => rw [Int.natAbs_of_nonneg (Int.not_lt.mp h), BitVec.ofInt_toInt]

theorem minS_eq_ofInt (a b : Word) :
    (if a.toInt ≤ b.toInt then a else b) = BitVec.ofInt 32 (min a.toInt b.toInt) := by
  rw [Int.min_def, apply_ite (BitVec.ofInt 32), BitVec.ofInt_toInt, BitVec.ofInt_toInt]

theorem minN_eq_word (a b : Word) : (if a.toNat ≤ b.toNat then a else b) = word (min a.toNat b.toNat) := by
  rw [Nat.min_def, apply_ite word, word, word, BitVec.ofNat_toNat, BitVec.ofNat_toNat, BitVec.setWidth_eq, BitVec.setWidth_eq]

theorem maxS_eq_ofInt (a b : Word) :
    (if b.toInt ≤ a.toInt then a else b) = BitVec.ofInt 32 (max a.toInt b.toInt) := by
  rw [Int.max_comm, Int.max_def, apply_ite (BitVec.ofInt 32), BitVec.ofInt_toInt, BitVec.ofInt_toInt]

theorem maxN_eq_word (a b : Word) : (if b.toNat ≤ a.toNat then a else b) = word (max a.toNat b.toNat) := by
  rw [Nat.max_comm, Nat.max_def, apply_ite word, word, word, BitVec.ofNat_toNat, BitVec.ofNat_toNat, BitVec.setWidth_eq,
    BitVec.setWidth_eq]

/-! ### Shifts and rotation (05 R128) -/

/-- A shift by 31 leaves the sign only, and every longer one the same. -/
theorem toInt_div_two_pow_31 (a : Word) : a.toInt / 2 ^ 31 = if a.msb then -1 else 0 := by
  have hlo := BitVec.le_toInt a
  have hhi := BitVec.toInt_lt (x := a)
  rw [BitVec.msb_eq_toInt]
  by_cases h : a.toInt < 0 <;> simp only [h, decide_true, decide_false, if_true, if_false, Bool.false_eq_true] <;> omega

theorem sar_eq_shiftArith (a : Word) (n : Nat) : sar a n = shiftArith a n := by
  unfold sar shiftArith
  split
  case isTrue h =>
    rw [Nat.min_eq_right (by omega), toInt_div_two_pow_31]
    cases a.msb <;> rfl
  case isFalse h => rw [Nat.min_eq_left (by omega)]

theorem rot_eq_word (a : Word) (n : Nat) :
    rot a n = word (a.toNat * 2 ^ (n % 32) + a.toNat / 2 ^ (32 - n % 32)) := by
  have hdisj : a <<< (n % 32) &&& a >>> (32 - n % 32) = 0 := by
    ext i hi
    by_cases h : i < n % 32
    · simp [h]
    · simp [h, show 32 ≤ 32 - n % 32 + i by omega]
  have hl : a <<< (n % 32) = word (a.toNat * 2 ^ (n % 32)) := by
    apply BitVec.eq_of_toNat_eq
    simp [word, Nat.shiftLeft_eq]
  have hr : a >>> (32 - n % 32) = word (a.toNat / 2 ^ (32 - n % 32)) := by
    apply BitVec.eq_of_toNat_eq
    rw [word, BitVec.toNat_ofNat, Nat.mod_eq_of_lt (Nat.lt_of_le_of_lt (Nat.div_le_self ..) a.isLt), BitVec.toNat_ushiftRight,
      Nat.shiftRight_eq_div_pow]
  rw [rot, BitVec.rotateLeft_def, Nat.mod_mod, ← BitVec.add_eq_or_of_and_eq_zero _ _ hdisj, hl, hr, word, word, word,
    BitVec.ofNat_add]

/-! ### Bit fields (05 R129) -/

theorem fieldLen_ne_zero {b : Word} (h : fieldEmpty b = false) : fieldLen b ≠ 0 := by
  simp only [fieldEmpty, Bool.or_eq_false_iff, decide_eq_false_iff_not] at h
  simp only [fieldLen]
  omega

/-- The position of a bit field. -/
theorem nbits_position (b : Word) : nbits b.toNat 0 8 = b.toNat % 256 := by simp [nbits]

theorem bfLen_eq (b : Word) : bfLen b = if fieldEmpty b then 0 else fieldLen b := by
  have hlen : nbits b.toNat 8 8 = b.toNat / 256 % 256 := by simp [nbits]
  simp only [bfLen, nbits_position, hlen, fieldEmpty, fieldLen, Bool.or_eq_true, decide_eq_true_eq]
  by_cases hp : 32 ≤ b.toNat % 256
  · simp [hp]
  · by_cases hl : b.toNat / 256 % 256 = 0 <;> simp [hp, hl]

theorem bfe_unsigned_eq (a b : Word) : bfe false a b = if fieldEmpty b then 0 else word (fieldOf a b) := by
  unfold bfe
  rw [bfLen_eq, nbits_position]
  cases h : fieldEmpty b
  case true => rfl
  case false =>
    have hne := fieldLen_ne_zero h
    simp [hne, fieldOf, nbits, word]

theorem sintN_fieldOf (a b : Word) :
    sintN (fieldLen b) (fieldOf a b) =
      if 2 * fieldOf a b < 2 ^ fieldLen b then (fieldOf a b : Int) else (fieldOf a b : Int) - 2 ^ fieldLen b := by
  have hmod : fieldOf a b % 2 ^ fieldLen b = fieldOf a b := Nat.mod_mod ..
  simp only [sintN, hmod, Int.natCast_pow, Int.cast_ofNat_Int]

theorem bfe_signed_eq (a b : Word) : bfe true a b = fieldSigned a b := by
  unfold bfe fieldSigned
  rw [bfLen_eq, nbits_position]
  cases h : fieldEmpty b
  case true => rfl
  case false =>
    have hne := fieldLen_ne_zero h
    simp only [Bool.false_eq_true, if_false, if_true, hne, wordOfInt]
    change BitVec.ofInt 32 (sintN (fieldLen b) (fieldOf a b)) = _
    rw [sintN_fieldOf, apply_ite (BitVec.ofInt 32), BitVec.ofInt_natCast, word]

theorem bfInsert_eq (a b d : Word) : bfInsert a b d = fieldInsert a b d := by
  unfold bfInsert fieldInsert
  rw [bfLen_eq, nbits_position]
  cases h : fieldEmpty b
  case true => rfl
  case false =>
    have hne := fieldLen_ne_zero h
    simp only [Bool.false_eq_true, if_false, hne, word]

/-! ### Counts and the reversal of bits (05 R133) -/

theorem nbit_eq_false_iff (w k : Nat) : nbit w k = false ↔ w / 2 ^ k % 2 = 0 := by
  simp [nbit]

theorem ite_nbit (w k : Nat) : (if nbit w k then 1 else 0) = w / 2 ^ k % 2 := by
  rcases Nat.mod_two_eq_zero_or_one (w / 2 ^ k) with h | h <;> simp [nbit, h]

theorem length_filter_nbit (w : Nat) (ks : List Nat) :
    (ks.filter fun k => nbit w k).length = (ks.map fun k => w / 2 ^ k % 2).sum := by
  induction ks with
  | nil => rfl
  | cons k ks ih =>
    rw [List.map_cons, List.sum_cons, ← ih, ← ite_nbit, List.filter_cons]
    split <;> simp [Nat.add_comm]

theorem popCount_eq (n w : Nat) : popCount n w = countOnes n w := length_filter_nbit w (List.range n)

theorem trailingZeros_eq (n w : Nat) : trailingZeros n w = zerosBelow n w := by
  have : (fun k => !nbit w k) = fun k => decide (w / 2 ^ k % 2 = 0) := by
    funext k
    simp [← nbit_eq_false_iff]
  rw [trailingZeros, zerosBelow, this]

/-- The zeros above the highest one bit of n + 1 bits: none when bit n is one, and otherwise bit n and those below it. -/
theorem zerosAbove_succ (n w : Nat) : zerosAbove (n + 1) w = if w / 2 ^ n % 2 = 0 then zerosAbove n w + 1 else 0 := by
  have hstep : (fun k => decide (w / 2 ^ (n + 1 - 1 - k) % 2 = 0)) ∘ Nat.succ =
      fun k => decide (w / 2 ^ (n - 1 - k) % 2 = 0) := by
    funext k
    simp only [Function.comp_apply]
    rw [show n + 1 - 1 - k.succ = n - 1 - k by omega]
  unfold zerosAbove
  rw [List.range_succ_eq_map, List.takeWhile_cons, List.takeWhile_map, hstep]
  split <;> simp_all

theorem leadingZeros_of_lt {n w : Nat} (hw : w < 2 ^ n) : leadingZeros n w = if w = 0 then n else n - 1 - w.log2 := by
  rw [leadingZeros, Nat.mod_eq_of_lt hw]

theorem leadingZeros_eq {n w : Nat} (hw : w < 2 ^ n) : leadingZeros n w = zerosAbove n w := by
  induction n with
  | zero => simp [leadingZeros, zerosAbove, Nat.mod_one]
  | succ n ih =>
    rw [zerosAbove_succ, leadingZeros_of_lt hw]
    by_cases hn : w < 2 ^ n
    case pos =>
      have hlog (h0 : w ≠ 0) : w.log2 < n := (Nat.log2_lt h0).mpr hn
      rw [← ih hn, leadingZeros_of_lt hn, Nat.div_eq_of_lt hn]
      split
      · rfl
      · have := hlog ‹_›
        simp only [if_true, Nat.zero_mod]
        omega
    case neg =>
      have hdiv : w / 2 ^ n = 1 := Nat.div_eq_of_lt_le (by omega) (by omega)
      have hpos : w ≠ 0 := by have := Nat.two_pow_pos n; omega
      have hlog : w.log2 = n := (Nat.log2_eq_iff hpos).mpr ⟨by omega, hw⟩
      simp [hdiv, hpos, hlog]

theorem sum_map_two_mul (g : Nat → Nat) (ks : List Nat) : (ks.map fun k => 2 * g k).sum = 2 * (ks.map g).sum := by
  induction ks with
  | nil => rfl
  | cons k ks ih => rw [List.map_cons, List.sum_cons, ih, List.map_cons, List.sum_cons, Nat.mul_add]

theorem reverseBits_eq (n w : Nat) :
    reverseBits n w = ((List.range n).map fun k => w / 2 ^ (n - 1 - k) % 2 * 2 ^ k).sum := by
  induction n with
  | zero => rfl
  | succ n ih =>
    have hshift : (fun k => w / 2 ^ (n + 1 - 1 - k) % 2 * 2 ^ k) ∘ Nat.succ =
        fun k => 2 * (w / 2 ^ (n - 1 - k) % 2 * 2 ^ k) := by
      funext k
      simp only [Function.comp_apply]
      rw [show n + 1 - 1 - k.succ = n - 1 - k by omega, Nat.pow_succ, Nat.mul_comm 2, Nat.mul_assoc]
    have hsucc : reverseBits (n + 1) w = 2 * reverseBits n w + (if nbit w n then 1 else 0) := by
      simp only [reverseBits, List.range_succ, List.foldl_append, List.foldl_cons, List.foldl_nil]
    rw [hsucc, ih, ite_nbit, List.range_succ_eq_map, List.map_cons, List.map_map, hshift, List.sum_cons,
      sum_map_two_mul]
    simp [Nat.add_comm]

/-! ### The selector of sel -/

/-- The lanes in which a predicate field holds, lane by lane (03 R64). -/
theorem getLsbD_predMask (t : Team) (h : Hdr) {l : Nat} (hl : l < 1024) :
    (predMask t h).getLsbD l = (t.pr h.p.toNat l != h.n) := by
  have h7 : (h.p = 7) = (h.p.toNat = 7) := propext BitVec.toNat_inj.symm
  have hm : (if h.p = 7 then BitVec.allOnes 1024 else dget 0 t.p h.p.toNat).getLsbD l = t.pr h.p.toNat l := by
    simp only [Team.pr, h7]
    split
    · rw [BitVec.getLsbD_allOnes, decide_eq_true hl]
    · rfl
  unfold predMask
  cases h.n <;> simp [hl, ← hm]

/-! ### Short lane instructions as rows of the table -/

section
variable {s : State} {x : Issuer} {i : Instr}

/-- A short lane instruction whose every acting lane makes the writes of its rule completes with them. -/
theorem laneShort_completesWith (hx : s.issuer = some x) {h : Hdr} {len : Nat} {ws : Team → Nat → List RegWrite}
    {rule : Nat → List RegWrite} (hi : exec i s = laneShort s h len ws) (hin : ∀ l, ∀ w ∈ ws x.t l, w.inLane l)
    (hrule : ∀ l ∈ x.lanes h, ws x.t l = rule l) : CompletesWith i s x (perLane x h len rule) := by
  have hrow : perLane x h len rule = perLane x h len (ws x.t) := by
    rw [perLane, perLane, List.flatMap_def, List.flatMap_def, List.map_congr_left hrule]
  rw [CompletesWith, hi, hrow]
  exact laneShort_completes hx h len ws hin

/-- The same for one lane register. -/
theorem laneReg_completesWith (hx : s.issuer = some x)
    {h : Hdr} {len d : Nat} {val : Team → Nat → Word} {rule : Nat → Word}
    (hi : exec i s = laneShort s h len fun t l => [.v d l (val t l)]) (hrule : ∀ l ∈ x.lanes h, val x.t l = rule l) :
    CompletesWith i s x (perLane x h len fun l => [.v d l (rule l)]) :=
  laneShort_completesWith hx hi (fun l w hw => by rw [List.mem_singleton.mp hw]; rfl) fun l hl => by rw [hrule l hl]

/-- The same for a lane pair. -/
theorem lanePair_completesWith (hx : s.issuer = some x)
    {h : Hdr} {len d : Nat} {val : Team → Nat → Dword} {rule : Nat → Dword}
    (hi : exec i s = laneShort s h len fun t l => wWrites d l (val t l)) (hrule : ∀ l ∈ x.lanes h, val x.t l = rule l) :
    CompletesWith i s x (perLane x h len fun l => pairWrites d l (rule l)) :=
  laneShort_completesWith hx hi (fun l => List.forall_mem_cons.mpr ⟨rfl, List.forall_mem_cons.mpr ⟨rfl, List.forall_mem_nil _⟩⟩)
    fun l hl => by rw [hrule l hl, wWrites_eq]

/-- The same for the 16-bit forms (03 R62). -/
theorem laneC_completesWith (hx : s.issuer = some x)
    {f : C16} {g rule : Word → Word → Word} (hi : exec i s = laneC s f g) (hrule : ∀ d b, g d b = rule d b) : CompletesWith i s x (rowC x f rule) := by
  have hd : (f.d.setWidth 6).toNat = f.d.toNat := BitVec.toNat_setWidth_of_le (by decide)
  have hb : (f.b.setWidth 6).toNat = f.b.toNat := BitVec.toNat_setWidth_of_le (by decide)
  refine laneReg_completesWith hx (h := always f.s)
    (val := fun t l => g (t.vr f.d.toNat l) (t.vr f.b.toNat l)) ?_ fun l _ => hrule _ _
  rw [hi, laneC, lane2, hd, hb]
  rfl

end

/-- Settles O1: every row of the table is a short lane instruction, and the model's operation is the rule's. -/
theorem laneIntegerInstructionsComplete : Obligations.LaneIntegerInstructionsComplete := by
  intro i r s x hr hx
  cases i with
  | iaddC f => cases hr; exact laneC_completesWith hx rfl add_eq_word
  | isubC f => cases hr; exact laneC_completesWith hx rfl sub_eq_ofInt
  | imulC f => cases hr; exact laneC_completesWith hx rfl mul_eq_word
  | iandC f | iorC f | ixorC f => cases hr; exact laneC_completesWith hx rfl fun _ _ => rfl
  | ishlC f => cases hr; exact laneC_completesWith hx (g := fun d b => shl d b.toNat) rfl fun _ _ => rfl
  | ishrC f => cases hr; exact laneC_completesWith hx (g := fun d b => shr d b.toNat) rfl fun _ _ => rfl
  | isarC f => cases hr; exact laneC_completesWith hx (g := fun d b => sar d b.toNat) rfl fun _ _ => sar_eq_shiftArith _ _
  | movC f => cases hr; exact laneC_completesWith hx (g := fun _ b => b) rfl fun _ _ => rfl
  | iadd f => cases hr; exact laneReg_completesWith hx rfl fun _ _ => add_eq_word _ _
  | addi f | addiC f => cases hr; exact laneReg_completesWith hx rfl fun _ _ => add_signExtend_eq_ofInt _ _
  | isub f => cases hr; exact laneReg_completesWith hx rfl fun _ _ => sub_eq_ofInt _ _
  | imul f => cases hr; exact laneReg_completesWith hx rfl fun _ _ => mul_eq_word _ _
  | imad f => cases hr; exact laneReg_completesWith hx rfl fun _ _ => mul_add_eq_word _ _ _
  | mulhiS f | mulhiN f | iand f | ior f | ixor f | iandn f => cases hr; exact laneReg_completesWith hx rfl fun _ _ => rfl
  | mulwS f | mulwN f => cases hr; exact lanePair_completesWith hx rfl fun _ _ => rfl
  | iminS f => cases hr; exact laneReg_completesWith hx rfl fun _ _ => minS_eq_ofInt _ _
  | iminN f => cases hr; exact laneReg_completesWith hx rfl fun _ _ => minN_eq_word _ _
  | imaxS f => cases hr; exact laneReg_completesWith hx rfl fun _ _ => maxS_eq_ofInt _ _
  | imaxN f => cases hr; exact laneReg_completesWith hx rfl fun _ _ => maxN_eq_word _ _
  | ishl f | ishr f | shli f | shri f => cases hr; exact laneReg_completesWith hx rfl fun _ _ => rfl
  | isar f | sari f => cases hr; exact laneReg_completesWith hx rfl fun _ _ => sar_eq_shiftArith _ _
  | irot f => cases hr; exact laneReg_completesWith hx rfl fun _ _ => rot_eq_word _ _
  | bfeS f => cases hr; exact laneReg_completesWith hx rfl fun _ _ => bfe_signed_eq _ _
  | bfeN f => cases hr; exact laneReg_completesWith hx rfl fun _ _ => bfe_unsigned_eq _ _
  | bfi f => cases hr; exact laneReg_completesWith hx rfl fun _ _ => bfInsert_eq _ _ _
  | sel f =>
    cases hr
    exact laneReg_completesWith hx rfl fun l hl => by rw [getLsbD_predMask _ _ (lt_of_mem_lanesOf hl)]
  | iadd64 f => cases hr; exact lanePair_completesWith hx rfl fun _ _ => add_eq_dword _ _
  | isub64 f => cases hr; exact lanePair_completesWith hx rfl fun _ _ => sub_eq_ofInt _ _
  | ishl64 f | ishr64 f => cases hr; exact lanePair_completesWith hx rfl fun _ _ => rfl
  | popc f | popc64 f => cases hr; exact laneReg_completesWith hx rfl fun _ _ => congrArg word (popCount_eq _ _)
  | clz f | clz64 f =>
    cases hr; exact laneReg_completesWith hx rfl fun _ _ => congrArg word (leadingZeros_eq (BitVec.isLt _))
  | ctz f => cases hr; exact laneReg_completesWith hx rfl fun _ _ => congrArg word (trailingZeros_eq _ _)
  | brev f => cases hr; exact laneReg_completesWith hx rfl fun _ _ => congrArg word (reverseBits_eq 32 _)
  | ineg f => cases hr; exact laneReg_completesWith hx rfl fun _ _ => zero_sub_eq_ofInt _
  | ineg64 f => cases hr; exact lanePair_completesWith hx rfl fun _ _ => zero_sub_eq_ofInt _
  | inot f => cases hr; exact laneReg_completesWith hx rfl fun _ _ => not_eq_word _
  | iabs f => cases hr; exact laneReg_completesWith hx rfl fun _ _ => abs_eq_word _
  | sextB8 f | sextB16 f => cases hr; exact laneReg_completesWith hx rfl fun _ _ => rfl
  | zextB8 f => cases hr; exact laneReg_completesWith hx rfl fun _ _ => and_low_eq_word _ (k := 8) (by decide)
  | zextB16 f => cases hr; exact laneReg_completesWith hx rfl fun _ _ => and_low_eq_word _ (k := 16) (by decide)
  -- The table has no row for the rest.
  | _ => nomatch hr

end Sys2Proof.Machine

/-! Proofs about the lane-cross instructions but regroup (05 R145-R149). -/
namespace Sys2Proof.Machine

/-! ### Lists of acting lanes -/

theorem Issuer.mem_lanes {x : Issuer} {h : Hdr} {l : Nat} :
    l ∈ x.lanes h ↔ l < x.t.width ∧ (x.acts h).getLsbD l = true := mem_lanesOf ..

theorem Issuer.sorted_lanes (x : Issuer) (h : Hdr) : (x.lanes h).Pairwise (· < ·) := List.pairwise_lt_range.filter _

theorem RegWrite.inRange_of_inLane {w : RegWrite} {l : Nat} (hl : l < 1024) (hw : w.inLane l) : w.inRange := by
  cases w with
  | v r k y => exact (show k = l from hw) ▸ hl
  | p r k y => exact (show k = l from hw) ▸ hl
  | s r y => trivial
  | q k y => trivial

/-- One write in each acting lane, or in some of them, is in range. -/
theorem inRange_map_lanes {x : Issuer} {h : Hdr} {ls : List Nat} {g : Nat → RegWrite} (hls : ls ⊆ x.lanes h)
    (hg : ∀ l, (g l).inLane l) : ∀ w ∈ ls.map g, w.inRange := by
  intro w hw
  obtain ⟨l, hl, rfl⟩ := List.mem_map.mp hw
  exact RegWrite.inRange_of_inLane (lt_of_mem_lanesOf (hls hl)) (hg l)

/-! ### A lane-cross instruction as a row of the table -/

section
variable {s : State} {x : Issuer} {i : Instr}

theorem cross_completesWith (hx : s.issuer = some x) {h : Hdr} {f : Issuer → List RegWrite × Word} {ws : List RegWrite}
    {flags : Word} (hi : exec i s = crossOp s h f) (hrule : f x = (ws, flags)) (hin : ∀ w ∈ ws, w.inRange) :
    CompletesWith i s x (crossing x h ws flags) := by
  have hc := crossOp_completes hx h f (by rwa [hrule])
  rw [hrule] at hc
  rw [CompletesWith, hi]
  exact hc

/-- A lane-cross instruction without flags that makes one write in each acting lane. -/
theorem crossLanes_completesWith (hx : s.issuer = some x) {h : Hdr} {val : Issuer → Nat → RegWrite} {rule : Nat → RegWrite}
    (hi : exec i s = crossOp s h fun x => ((x.lanes h).map (val x), 0)) (hin : ∀ l, (rule l).inLane l)
    (hrule : ∀ l ∈ x.lanes h, val x l = rule l) : CompletesWith i s x (crossing x h ((x.lanes h).map rule) 0) :=
  cross_completesWith hx hi (Prod.ext (List.map_congr_left hrule) rfl) (inRange_map_lanes (List.Subset.refl _) hin)

/-- A lane-cross instruction without flags that makes uniform writes, unless no lane participates (05 R147). -/
theorem crossUniform_completesWith (hx : s.issuer = some x) {h : Hdr} {val : Issuer → List RegWrite} {ws : List RegWrite}
    (hi : exec i s = crossOp s h fun x => (if (x.lanes h).isEmpty then [] else val x, 0)) (hrule : val x = ws)
    (hin : ∀ w ∈ ws, w.inRange) : CompletesWith i s x (crossing x h (if x.lanes h = [] then [] else ws) 0) := by
  refine cross_completesWith hx hi (by simp only [List.isEmpty_iff, hrule]) fun w hw => ?_
  split at hw
  · cases hw
  · exact hin w hw

/-! ### shfl (05 R146) -/

theorem shflOp_completesWith (hx : s.issuer = some x) {f : RR} {src : Nat → Nat → Option Nat} {source : Nat → Nat → Int}
    (hi : exec i s = shflOp s f src)
    (hsrc : ∀ l k, src l k = if 0 ≤ source l k then some (source l k).toNat else none) :
    CompletesWith i s x (shuffled x f source) := by
  refine crossLanes_completesWith hx hi (fun _ => rfl) fun l _ => ?_
  simp only [hsrc, ← Issuer.mem_lanes]
  by_cases hk : 0 ≤ source l (x.t.vr f.b.toNat l).toNat
  · simp only [hk, if_true, true_and, apply_ite (x.t.vr f.a.toNat)]
  · simp only [hk, if_false, false_and]

end

/-! ### vote (05 R147) -/

theorem voteSome_eq (x : Issuer) (h : Hdr) (ps : BitVec 3) :
    voteSome h ps x = decide (0 < (inFavour x h ps).length) := by
  change (!(inFavour x h ps).isEmpty) = _
  cases inFavour x h ps <;> simp

theorem voteEvery_eq (x : Issuer) (h : Hdr) (ps : BitVec 3) :
    voteEvery h ps x = (x.lanes h).all fun k => x.t.pr ps.toNat k := by
  rw [Bool.eq_iff_iff, List.all_eq_true, voteEvery, beq_iff_eq]
  exact List.length_filter_eq_length_iff

theorem getLsbD_foldl_or_twoPow (ls : List Nat) (m : Mask) (l : Nat) (hls : ∀ k ∈ ls, k < 1024) :
    (ls.foldl (fun m l => m ||| BitVec.twoPow 1024 l) m).getLsbD l = (m.getLsbD l || decide (l ∈ ls)) := by
  induction ls generalizing m with
  | nil => simp
  | cons k ks ih =>
    obtain ⟨hk, hks⟩ := List.forall_mem_cons.mp hls
    have hbit : (BitVec.twoPow 1024 k).getLsbD l = decide (l = k) := by
      simp [BitVec.getLsbD_twoPow, hk, eq_comm]
    rw [List.foldl_cons, ih _ hks, BitVec.getLsbD_or, hbit, Bool.or_assoc]
    simp

/-- The lanes of a mask made of lanes are those lanes. -/
theorem getLsbD_maskOf (ls : List Nat) (l : Nat) (hls : ∀ k ∈ ls, k < 1024) :
    (maskOf ls).getLsbD l = decide (l ∈ ls) := by
  rw [maskOf, getLsbD_foldl_or_twoPow _ _ _ hls]
  simp

/-- A number made of bits below n is below 2 ^ n. -/
theorem sum_bits_lt (p : Nat → Prop) [DecidablePred p] (n : Nat) :
    ((List.range n).map fun k => if p k then 2 ^ k else 0).sum < 2 ^ n := by
  induction n with
  | zero => simp
  | succ n ih =>
    rw [List.range_succ, List.map_append, List.sum_append, Nat.pow_succ]
    simp only [List.map_cons, List.map_nil, List.sum_cons, List.sum_nil]
    split <;> omega

/-- Its bits are those that it is made of. -/
theorem testBit_sum_bits (p : Nat → Prop) [DecidablePred p] {n j : Nat} (hj : j < n) :
    ((List.range n).map fun k => if p k then 2 ^ k else 0).sum.testBit j = decide (p j) := by
  induction n with
  | zero => omega
  | succ n ih =>
    have hlt := sum_bits_lt p n
    rw [List.range_succ, List.map_append, List.sum_append, List.map_singleton, List.sum_singleton]
    rcases Nat.lt_succ_iff_lt_or_eq.mp hj with h | rfl
    · rw [← ih h]
      split
      · rw [Nat.add_comm, Nat.testBit_two_pow_add_gt h]
      · rfl
    · by_cases hp : p j
      · simp [hp, Nat.add_comm _ (2 ^ j), Nat.testBit_two_pow_add_eq, Nat.testBit_lt_two_pow hlt]
      · simp [hp, Nat.testBit_lt_two_pow hlt]

theorem ballot_eq (x : Issuer) (f : VTR) (j : Nat) : ballot x f.h f.ps j = ballotWord x f j := by
  have hlt : ∀ k ∈ x.voters f.h f.ps, k < 1024 := fun k hk => lt_of_mem_lanesOf (List.mem_filter.mp hk).1
  apply BitVec.eq_of_getLsbD_eq
  intro k hk
  rw [ballot, maskWord, BitVec.getLsbD_setWidth, BitVec.getLsbD_ushiftRight, getLsbD_maskOf _ _ hlt, ballotWord, word,
    BitVec.getLsbD_ofNat, testBit_sum_bits _ hk]
  simp only [Issuer.voters, List.mem_filter]

/-! ### scan (05 R148) -/

theorem addI32_eq (fpm : Word) : addI32 fpm = sumI := by
  funext a b
  rw [addI32, sumI, add_eq_word]

theorem addF32_eq (fpm : Word) : addF32 fpm = sumF fpm := rfl

theorem laneSum_append_singleton (add : Word → Word → Word × Word) (start : Word) (ws : List Word) (w : Word) :
    laneSum add start (ws ++ [w]) =
      ((add (laneSum add start ws).1 w).1, (laneSum add start ws).2 ||| (add (laneSum add start ws).1 w).2) := by
  rw [laneSum, List.foldl_append]
  rfl

/-- The lanes whose values a scan has added for lane l: those up to it, itself included or not. -/
def scanLanes (inclusive : Bool) (ls : List Nat) (l : Nat) : List Nat :=
  ls.filter fun k => if inclusive then decide (k ≤ l) else decide (k < l)

theorem scanLanes_append_of_lt {inclusive : Bool} {ls : List Nat} {l m : Nat} (h : l < m) :
    scanLanes inclusive (ls ++ [m]) l = scanLanes inclusive ls l := by
  cases inclusive <;> simp [scanLanes, List.filter_append] <;> omega

theorem scanLanes_append_last {inclusive : Bool} {ls : List Nat} {m : Nat} (h : ∀ k ∈ ls, k < m) :
    scanLanes inclusive (ls ++ [m]) m = if inclusive then ls ++ [m] else ls := by
  cases inclusive
  case true =>
    have hle : ∀ k ∈ ls ++ [m], k ≤ m := by simpa [or_imp, forall_and] using fun k hk => Nat.le_of_lt (h k hk)
    exact List.filter_eq_self.mpr fun k hk => decide_eq_true (hle k hk)
  case false =>
    have hself : ls.filter (fun k => decide (k < m)) = ls := List.filter_eq_self.mpr fun k hk => decide_eq_true (h k hk)
    simp [scanLanes, List.filter_append, hself]

/-- The model's scan of some lanes in ascending order: each lane's write, and the sum of all with its flags. -/
theorem scan_foldl_eq (add : Word → Word → Word × Word) (start : Word) (inclusive : Bool) (d : Nat) (val : Nat → Word)
    {ls : List Nat} (hls : ls.Pairwise (· < ·)) :
    ls.foldl (fun (acc : List RegWrite × Word × Word) l =>
        (acc.1 ++ [RegWrite.v d l (if !inclusive then acc.2.1 else (add acc.2.1 (val l)).1)], (add acc.2.1 (val l)).1,
          acc.2.2 ||| (add acc.2.1 (val l)).2)) ([], start, 0) =
      (ls.map fun l => .v d l (laneSum add start ((scanLanes inclusive ls l).map val)).1, laneSum add start (ls.map val)) := by
  obtain ⟨rs, rfl⟩ : ∃ rs : List Nat, ls = rs.reverse := ⟨ls.reverse, ls.reverse_reverse.symm⟩
  induction rs with
  | nil => rfl
  | cons m rs ih =>
    rw [List.reverse_cons] at hls ⊢
    generalize rs.reverse = ls at hls ih ⊢
    obtain ⟨hpre, -, hlast⟩ := List.pairwise_append.mp hls
    have hlt : ∀ k ∈ ls, k < m := fun k hk => hlast k hk m (List.mem_singleton.mpr rfl)
    have hmap : (ls.map fun l => RegWrite.v d l (laneSum add start ((scanLanes inclusive (ls ++ [m]) l).map val)).1) =
        ls.map fun l => .v d l (laneSum add start ((scanLanes inclusive ls l).map val)).1 :=
      List.map_congr_left fun l hl => by rw [scanLanes_append_of_lt (hlt l hl)]
    rw [List.foldl_append, ih hpre, List.map_append, hmap, List.map_singleton, scanLanes_append_last hlt, List.map_append,
      List.map_singleton, laneSum_append_singleton]
    cases inclusive <;> simp [laneSum_append_singleton]

section
variable {s : State} {x : Issuer} {i : Instr}

theorem scanOp_completesWith (hx : s.issuer = some x) {f : UN} {inclusive : Bool} {start : Word}
    {add : Word → Word → Word → Word × Word} {rule : Word → Word → Word × Word}
    (hi : exec i s = scanOp s f (!inclusive) start add) (hrule : add x.t.fpm = rule) :
    CompletesWith i s x (scanned x f inclusive rule start) := by
  refine cross_completesWith hx hi ?_ (inRange_map_lanes (List.Subset.refl _) fun _ => rfl)
  have hscan := scan_foldl_eq rule start inclusive f.d.toNat (x.t.vr f.a.toNat) (x.sorted_lanes f.h)
  simp only [hrule, hscan]
  rfl

end

/-! ### match (05 R149) -/

theorem mem_sameKey_self {x : Issuer} {f : MT} {l : Nat} (hl : l ∈ x.lanes f.h) : l ∈ sameKey x f l :=
  List.mem_filter.mpr ⟨hl, decide_eq_true rfl⟩

/-- A lane is the head of an ascending list that holds it exactly when it is the list's least. -/
theorem headD_beq_eq_all_le {ls : List Nat} {l : Nat} (hls : ls.Pairwise (· < ·)) (hl : l ∈ ls) :
    (ls.headD l == l) = ls.all fun k => decide (l ≤ k) := by
  cases ls with
  | nil => cases hl
  | cons a as =>
    have hhead : ∀ k ∈ as, a < k := (List.pairwise_cons.mp hls).1
    rw [Bool.eq_iff_iff, beq_iff_eq, List.all_eq_true, List.headD_cons]
    simp only [decide_eq_true_eq, List.forall_mem_cons]
    constructor
    · rintro rfl
      exact ⟨Nat.le_refl _, fun k hk => Nat.le_of_lt (hhead k hk)⟩
    · rintro ⟨hla, -⟩
      rcases List.mem_cons.mp hl with rfl | hmem
      · rfl
      · exact absurd (hhead l hmem) (by omega)

theorem leader_beq_eq_leads {x : Issuer} {f : MT} {l : Nat} (hl : l ∈ x.lanes f.h) : (x.leader f l == l) = leads x f l :=
  headD_beq_eq_all_le ((x.sorted_lanes f.h).filter _) (mem_sameKey_self hl)

theorem matchPreds_eq (x : Issuer) (f : MT) : matchPreds x f = leadWrites x f :=
  List.map_congr_left fun l hl => by rw [leader_beq_eq_leads hl]

theorem inRange_leadWrites_append {x : Issuer} {f : MT} {ls : List Nat} {g : Nat → RegWrite} (hls : ls ⊆ x.lanes f.h)
    (hg : ∀ l, (g l).inLane l) : ∀ w ∈ leadWrites x f ++ ls.map g, w.inRange := fun w hw =>
  (List.mem_append.mp hw).elim
    (inRange_map_lanes (List.Subset.refl _) (g := fun l => .p f.pd.toNat l (leads x f l)) (fun _ => rfl) w)
    (inRange_map_lanes hls hg w)

/-- Appending a write and ORing flags for each lane in turn. -/
theorem foldl_append_or (g : Nat → RegWrite) (flags : Nat → Word) (ls : List Nat) (ws : List RegWrite) (fl : Word) :
    ls.foldl (fun (acc : List RegWrite × Word) l => (acc.1 ++ [g l], acc.2 ||| flags l)) (ws, fl) =
      (ws ++ ls.map g, ls.foldl (fun acc l => acc ||| flags l) fl) := by
  induction ls generalizing ws fl with
  | nil => simp
  | cons l ls ih => simp [ih]

section
variable {s : State} {x : Issuer} {i : Instr}

theorem matchSum_completesWith (hx : s.issuer = some x) {f : MT} {start : Word}
    {add : Word → Word → Word → Word × Word} {rule : Word → Word → Word × Word}
    (hi : exec i s = matchSum s f start add) (hrule : add x.t.fpm = rule) :
    CompletesWith i s x (matchSummed x f rule start) := by
  refine cross_completesWith hx hi ?_ (inRange_leadWrites_append (fun _ hl => (List.mem_filter.mp hl).1) fun _ => rfl)
  have hleaders : ((x.lanes f.h).filter fun l => x.leader f l == l) = (x.lanes f.h).filter fun l => leads x f l :=
    List.filter_congr fun l hl => leader_beq_eq_leads hl
  have hsum (l : Nat) : (x.group f l).foldl (fun (a : Word × Word) k =>
      ((rule a.1 (x.t.vr f.d.toNat k)).1, a.2 ||| (rule a.1 (x.t.vr f.d.toNat k)).2)) (start, 0) =
      laneSum rule start ((sameKey x f l).map fun k => x.t.vr f.d.toNat k) := by
    rw [laneSum, List.foldl_map]
    rfl
  simp only [hrule, hleaders, hsum, matchPreds_eq, foldl_append_or]

end

/-- Settles O7: every row of the table is a lane-cross instruction, and the model's result is the rule's. -/
theorem laneCrossInstructionsComplete : Obligations.LaneCrossInstructionsComplete := by
  intro i r s x hr hx
  cases i with
  | shflIdx f => cases hr; exact shflOp_completesWith hx (src := fun _ k => some k) rfl fun l k => by simp
  | shflXor f => cases hr; exact shflOp_completesWith hx (src := fun l k => some (l ^^^ k)) rfl fun l k => by simp
  | shflUp f =>
    cases hr
    exact shflOp_completesWith hx (src := fun l k => if k ≤ l then some (l - k) else none) rfl fun l k => by simp
  | shflDown f =>
    cases hr
    exact shflOp_completesWith hx (src := fun l k => some (l + k)) rfl fun l k => (if_pos (by omega)).symm
  | voteAny f => cases hr; exact crossLanes_completesWith hx rfl (fun _ => rfl) fun l _ => by rw [voteSome_eq]
  | voteAll f => cases hr; exact crossLanes_completesWith hx rfl (fun _ => rfl) fun l _ => by rw [voteEvery_eq]
  | voteCount f => cases hr; exact crossLanes_completesWith hx rfl (fun _ => rfl) fun _ _ => rfl
  | voteBallot f => cases hr; exact crossLanes_completesWith hx rfl (fun _ => rfl) fun l _ => by rw [ballot_eq]
  | voteAnyUniform f =>
    cases hr
    exact crossUniform_completesWith hx rfl (by rw [voteSome_eq]) (by simp [RegWrite.inRange])
  | voteAllUniform f =>
    cases hr
    exact crossUniform_completesWith hx rfl (by rw [voteEvery_eq]) (by simp [RegWrite.inRange])
  | voteCountUniform f => cases hr; exact crossUniform_completesWith hx rfl rfl (by simp [RegWrite.inRange])
  | voteBallotUniform f =>
    cases hr
    exact crossUniform_completesWith hx rfl (by simp only [ballot_eq]) (by simp [RegWrite.inRange])
  | scanIncI32 f => cases hr; exact scanOp_completesWith hx (inclusive := true) rfl (addI32_eq _)
  | scanExcI32 f => cases hr; exact scanOp_completesWith hx (inclusive := false) rfl (addI32_eq _)
  | scanIncF32 f => cases hr; exact scanOp_completesWith hx (inclusive := true) rfl (addF32_eq _)
  | scanExcF32 f => cases hr; exact scanOp_completesWith hx (inclusive := false) rfl (addF32_eq _)
  | matchLead f | matchRank f =>
    cases hr
    exact cross_completesWith hx rfl (by rw [matchPreds_eq]; rfl)
      (inRange_leadWrites_append (List.Subset.refl _) fun _ => rfl)
  | matchSumI32 f => cases hr; exact matchSum_completesWith hx rfl (addI32_eq _)
  | matchSumF32 f => cases hr; exact matchSum_completesWith hx rfl (addF32_eq _)
  -- The table has no row for the rest.
  | _ => nomatch hr

end Sys2Proof.Machine

/-! Proofs about the supervisor's liveness check (15 R334). -/
namespace Sys2Proof.Machine

/-! ### What setting a bit of ALERT does (20 R403) -/

theorem setAlert_eq (s : State) (bit : Nat) :
    setAlert s bit = { s with
      host := { s.host with alert := s.host.alert ||| BitVec.twoPow 8 bit }
      irqs := if s.host.alerten.getLsbD bit = true then s.irqs ++ [0] else s.irqs } := by
  cases hen : s.host.alerten.getLsbD bit with
  | true => exact if_pos hen
  | false => exact if_neg (Bool.eq_false_iff.mp hen)

theorem setAlert_sets_bit (s : State) {bit : Nat} (hbit : bit < 8) :
    (setAlert s bit).host.alert.getLsbD bit = true := by
  simp [setAlert_eq, hbit]

theorem setAlert_irqs (s : State) (bit : Nat) :
    (setAlert s bit).irqs = if s.host.alerten.getLsbD bit = true then s.irqs ++ [0] else s.irqs := by
  rw [setAlert_eq]

@[simp] theorem setAlert_team (s : State) (bit k : Nat) : (setAlert s bit).team k = s.team k := by
  rw [setAlert_eq]
  rfl

/-! ### When the check is due -/

theorem svCheckDue_iff {s : State} {pn : Nat} (hsv : hasSupervisor s pn = true) :
    svCheckDue s pn = true ↔ ((s.part pn).reg 0x12).toNat ≠ 0 ∧
      (s.part pn).wdogAt + ((s.part pn).reg 0x12).toNat * 1024 ≤ s.clock := by
  simp [svCheckDue, hsv]

/-! ### The event -/

theorem exec_supervisorWatchdogExpiry_of_due {s : State} {pn : Nat} (hdue : svCheckDue s pn = true) :
    exec (.supervisorWatchdogExpiry pn) s =
      .next ((setAlert s 5).modPart pn fun p => { p with wdogAt := s.clock }) :=
  congrArg Host.Outcome.next (if_pos hdue)

theorem exec_supervisorWatchdogExpiry_of_not_due {s : State} {pn : Nat} (hdue : ¬ svCheckDue s pn = true) :
    exec (.supervisorWatchdogExpiry pn) s = .next s :=
  congrArg Host.Outcome.next (if_neg hdue)

/-- Settles O59: the event sets bit 5 of ALERT when the check is due, and does nothing when it is not. -/
theorem svlimGuardsTheSupervisor : Obligations.SvlimGuardsTheSupervisor := by
  intro s pn hsv lim
  refine ⟨fun hlim hlate => ?due, fun hearly => ?notDue⟩
  case due =>
    refine ⟨_, exec_supervisorWatchdogExpiry_of_due ((svCheckDue_iff hsv).mpr ⟨hlim, hlate⟩), ?alert, fun hen => ?irq,
      fun k => ?team⟩
    case alert => exact setAlert_sets_bit s (by decide)
    case irq => exact (setAlert_irqs s 5).trans (if_pos hen)
    case team => rw [State.team_modPart, setAlert_team]
  case notDue =>
    refine exec_supervisorWatchdogExpiry_of_not_due fun hdue => ?_
    obtain ⟨hlim, hlate⟩ := (svCheckDue_iff hsv).mp hdue
    exact hearly.elim hlim (Nat.not_lt.mpr hlate)

end Sys2Proof.Machine
